-- ==== Sys2Proof/Word.lean ====
section
/-! DEFINITION. The word types of the module and their plainest arithmetic (R9: little-endian). -/

namespace Sys2Proof

/-- One byte. -/
abbrev Byte := BitVec 8
/-- A 16-bit field. -/
abbrev W16 := BitVec 16
/-- A 32-bit register or field. -/
abbrev W32 := BitVec 32
/-- A 64-bit register, counter or field. -/
abbrev W64 := BitVec 64

/-- A table: key and value pairs with strictly rising keys, so that equal tables are equal data. -/
abbrev Tbl (α : Type) := List (Nat × α)

/-- The value a table lists at a key. -/
def Tbl.get {α : Type} (t : Tbl α) (k : Nat) : Option α :=
  match t with
  | [] => none
  | (a, v) :: r => if a = k then some v else Tbl.get r k

/-- The value at a key, or the default an unlisted key has. -/
def Tbl.getD {α : Type} (t : Tbl α) (k : Nat) (d : α) : α := (Tbl.get t k).getD d

/-- The table without a key. -/
def Tbl.del {α : Type} (t : Tbl α) (k : Nat) : Tbl α := t.filter (fun p => p.1 != k)

/-- The table with the value at a key replaced or added, the keys kept rising. -/
def Tbl.put {α : Type} (t : Tbl α) (k : Nat) (v : α) : Tbl α :=
  match t with
  | [] => [(k, v)]
  | (a, w) :: r =>
    if k < a then (k, v) :: (a, w) :: r
    else if k = a then (k, v) :: r
    else (a, w) :: Tbl.put r k v

/-- The table with the listed value at a key changed; an unlisted key changes nothing. -/
def Tbl.mod {α : Type} (t : Tbl α) (k : Nat) (f : α → α) : Tbl α :=
  t.map (fun p => if p.1 = k then (p.1, f p.2) else p)

/-- A table's keys rise strictly. -/
def Tbl.sorted {α : Type} (t : Tbl α) : Bool := decide ((t.map Prod.fst).Pairwise (· < ·))

/-- A number from little-endian bytes. -/
def leNat : List Byte → Nat
  | [] => 0
  | b :: bs => b.toNat + 256 * leNat bs

/-- `n` little-endian bytes of a number. -/
def leBytes (n v : Nat) : List Byte :=
  match n with
  | 0 => []
  | n + 1 => BitVec.ofNat 8 v :: leBytes n (v / 256)

/-- The little-endian field of `len` bytes at `off`. -/
def fld (bs : List Byte) (off len : Nat) : Nat := leNat ((bs.drop off).take len)

/-- The bytes [off, off + len) are all zero. -/
def zeroAt (bs : List Byte) (off len : Nat) : Bool := ((bs.drop off).take len).all (· == 0)

/-- `n` zero bytes. -/
def zeros (n : Nat) : List Byte := List.replicate n 0

/-- The unsigned bit field [lo + len - 1 : lo] of a number. -/
def bits (v lo len : Nat) : Nat := v / 2 ^ lo % 2 ^ len

/-- Saturating sum. -/
def satAdd (cap a b : Nat) : Nat := min cap (a + b)

end Sys2Proof
end

