-- ==== Sys2Proof/Syntax.lean ====
section
/-! DEFINITION. The commands of the module: one constructor per row of spec/opcode_table.json, with the operands a row
takes from outside (host, link partner, sensor, clock). -/

namespace Sys2Proof

/-- The port a mailbox command arrives on (R366): the owner port, or the tenant port of a VF 1 to 16. -/
inductive MPort | owner | vf (n : Nat)
deriving DecidableEq, Repr

/-- How a payload buffer is reached (R365). -/
inductive BufFault | ok | unreachable | poisonedTlp
deriving DecidableEq, Repr

/-- A payload buffer (R361): `dev` is DEVBUF; `data` is what a host buffer delivers. -/
structure Buf where
  dev : Bool
  addr : Nat
  len : Nat
  data : List Byte
  fault : BufFault
deriving DecidableEq, Repr

/-- The common part of a submission entry (Table 15.9). -/
structure Mbx where
  port : MPort
  context : Nat
  tag : Nat
  buf : Buf
deriving DecidableEq, Repr

/-- Status codes (Table 15.11). -/
inductive Status
  | ok | skipped | stopped | aborted | late
  | badCommand | badParameter | unitAbsent | portDenied | notReady | busy | resourceExhausted
  | keyMismatch | levelExhausted | noiseExhausted | poisonedInput | parameterMismatch
  | addressFault | integrityFault | uncorrectableMemory | thermalHalt | linkDown | barrierOverrun
  | cryptoFail | signatureInvalid | rollbackRefused
deriving DecidableEq, Repr

/-- The code of a status (Table 15.11). -/
def Status.code : Status → Nat
  | .ok => 0x00 | .skipped => 0x01 | .stopped => 0x02 | .aborted => 0x03 | .late => 0x04
  | .badCommand => 0x10 | .badParameter => 0x11 | .unitAbsent => 0x12 | .portDenied => 0x13
  | .notReady => 0x14 | .busy => 0x15 | .resourceExhausted => 0x16
  | .keyMismatch => 0x20 | .levelExhausted => 0x21 | .noiseExhausted => 0x22
  | .poisonedInput => 0x23 | .parameterMismatch => 0x24
  | .addressFault => 0x30 | .integrityFault => 0x31 | .uncorrectableMemory => 0x32
  | .thermalHalt => 0x33 | .linkDown => 0x34 | .barrierOverrun => 0x35
  | .cryptoFail => 0x40 | .signatureInvalid => 0x41 | .rollbackRefused => 0x42

/-- A decoded stream command (Table 7.7). -/
structure SCmd where
  op : Nat
  predIdx : Nat
  predSense : Bool
  pred : Bool
  complete : Bool
  wait : Bool
  signal : Bool
  fence : Bool
  halt : Bool
  layer : Bool
  nopad : Bool
  waitId : Nat
  waitCond : Nat
  waitValue : W64
  sigId : Nat
  delta : Nat
  h : List (Option Nat)
  imm : Nat
  tag : Nat
  idxCnt : Nat
  idxMask : Nat
deriving DecidableEq, Repr

/-- The outcome of a checked transfer or piece (R449): it passes, passes on its one retry, or fails both. -/
inductive Check | pass | transient | fail
deriving DecidableEq, Repr

/-- The engines of a core (Table 2.1), and LU. -/
inductive Engine | mx | nt | px | vc | dm | sa | lu
deriving DecidableEq, Repr

/-- The checks that a DESCRIPTOR_FETCH sees: that of the transfer of the descriptor in flight, and that of the fetch itself (R241). -/
structure FetchChecks where
  data : Check
  fetch : Check
deriving DecidableEq, Repr

/-- A channel whose chain ends, and the check of its last descriptor's transfer (R241). -/
structure ChainEnd where
  ch : Nat
  data : Check
deriving DecidableEq, Repr

/-- A row that is copied, and the blocks of it, 0 to 15, in which the copy's reads find failed symbols, with their numbers (R294). -/
structure RowCopy where
  row : Nat
  reads : List (Nat × Nat)
deriving DecidableEq, Repr

/-- One request of 1 to 256 B within a granule (R281); `owner` is the context of the requester, or none for the module. -/
structure MemReq where
  addr : Nat
  len : Nat
  write : Option (List Byte)
  poison : Bool
  owner : Option Nat
deriving DecidableEq, Repr

/-- A sequenced flit's head and payload (Tables 13.5, 13.6). -/
structure Flit where
  ftype : Nat
  poison : Bool
  window : Nat
  transfer : Nat
  index : Nat
  ndesc : Nat
  payload : List Byte
  seq : Nat
deriving DecidableEq, Repr

/-- What both ends of a port have found when a training condition is met (Table 13.3, R311). -/
structure Train where
  txLanes : List Nat
  rxLanes : List Nat
  partnerRole : Nat
  partnerParty : Nat
  /-- The `ffe_req` bytes of the TS1 blocks received in EQUALISE, in order, each with its physical lane (Table 13.4). -/
  ffe : List (Nat × Nat)
deriving DecidableEq, Repr

/-- One TIME measurement (R328, R439), in ticks of the follower. -/
structure TimeMeas where
  dIn : Int
  dOut : Int
  valid : Bool
deriving DecidableEq, Repr

/-- The self-test result of a unit (Table 18.6): it passed; good cores of its bays; good lanes. -/
structure TestResult where
  pass : Bool
  cores : List (Nat × W16)
  lanes : List Nat
  /-- Spare rows of a stack that failed the march, as pseudo-channel × 1024 + spare. -/
  spares : List Nat := []
deriving DecidableEq, Repr

/-- The commands, one constructor per row of the operation table, in the table's order. -/
inductive Instr
  | contextCreate (m : Mbx) (vf : Nat)
  | contextDestroy (m : Mbx)
  | secretRegionZeroFillDone (base : Nat)
  | vfFlr (vf : Nat)
  | contextOption (m : Mbx) (option value : Nat)
  | setPowerLimit (m : Mbx) (watts : Nat)
  | selfTest (m : Mbx) (cls idx : Nat) (quiesce : Bool)
  | selfTestDrainDone (cls idx : Nat) (drained : Bool)
  | selfTestDone (cls idx : Nat) (r : TestResult)
  | moduleReset (m : Mbx)
  | traceConfig (m : Mbx) (mask ring len : Nat)
  | fwStage (m : Mbx) (slot : Nat)
  | fwActivate (m : Mbx) (slot : Nat)
  | hexsetRestartDone
  | ledgerRead (m : Mbx) (cls first : Nat)
  | quote (m : Mbx)
  | sessionOpen (m : Mbx)
  | bignumJobEnd
  | cardBindSession (m : Mbx) (handle : Nat)
  | manifestLoad (m : Mbx)
  | paramsetLoad (m : Mbx)
  | refreshPlanLoad (m : Mbx)
  | secretRegionOpen (m : Mbx) (base len : Nat)
  | secretRegionClose (m : Mbx) (base : Nat)
  | placementLoad (m : Mbx)
  | bayPartitionApply (bay : Nat)
  | placementRead (m : Mbx)
  | cardWrite (m : Mbx) (handle : Nat)
  | cardBind (m : Mbx) (handle image len : Nat)
  | cardExport (m : Mbx) (handle dst cap : Nat)
  | cardUnbind (m : Mbx) (handle : Nat)
  | cardRead (m : Mbx) (handle : Nat)
  | streamStart (m : Mbx) (wing folio seq : Nat)
  | streamExtend (m : Mbx) (stream folio : Nat)
  | streamAbort (m : Mbx) (stream : Nat)
  | syncMap (m : Mbx) (first count kind home : Nat) (init : W64) (expected : Nat)
  | syncUnmap (m : Mbx) (first count : Nat)
  | syncRead (m : Mbx) (id : Nat)
  | syncUpdate (m : Mbx) (id op : Nat) (value : W64)
  | syncWatch (m : Mbx) (id cond : Nat) (value : W64) (deadline : Nat)
  | syncWatchDeadline (c tag : Nat)
  | syncWatchCancel (m : Mbx) (tag : Nat)
  | barrierReset (m : Mbx) (id : Nat) (gen : W64)
  | dmaChannelOpen (m : Mbx) (wing kind stop vector port window status : Nat)
  | dmaChannelClose (m : Mbx) (wing ch : Nat)
  | dmaChannelStop (m : Mbx) (wing ch : Nat)
  | dmaStopTakesEffect (wing ch : Nat)
  | dmaStopForced (wing ch : Nat)
  | pageWeed (m : Mbx) (page reason : Nat)
  | weedListRead (m : Mbx) (stack first : Nat)
  | golatPortConfig (m : Mbx) (port role timeMode fwd localParty expected : Nat)
  | loanOpen (m : Mbx) (port rights mode party base len sigFirst sigCount : Nat)
  | loanClose (m : Mbx) (port window : Nat)
  | mbxSqTail (p : MPort) (v : W32)
  | submissionFetch (p : MPort) (entry data : List Byte) (fault : BufFault)
  | mbxPhaseTimeout (p : MPort)
  | mbxEnable (p : MPort) (v : W32)
  | mbxCqHead (p : MPort) (v : W32)
  | evtHead (v : W32)
  | evtRingCtrl (v : W32)
  | rcRegisterRead (off : Nat)
  | lowHalfRead (p : MPort) (off : Nat)
  | badWidthAccess (p : MPort) (write : Bool)
  | irqCause (v : W32)
  | ckoCtrl (v : W32)
  | stpTrigger (v : W32)
  | stpBufferWrite (len : Bool) (v : W64)
  | registerWrite (p : MPort) (off : Nat) (v : W64)
  | stagingRead (off len : Nat)
  | stagingWrite (off : Nat) (data : List Byte)
  | d3hotEntry (p : MPort)
  | streamDecode (c n : Nat)
  | waitSatisfied (c n : Nat)
  | folioFetch (c n : Nat) (chk : Check)
  | commandCompletion (c n k : Nat)
  | cntSet (c n : Nat) (cmd : SCmd)
  | cntAdd (c n : Nat) (cmd : SCmd)
  | cmpSet (c n : Nat) (cmd : SCmd)
  | loopBegin (c n : Nat) (cmd : SCmd)
  | loopEnd (c n : Nat) (cmd : SCmd)
  | syncWait (c n : Nat) (cmd : SCmd)
  | syncSignalAdd (c n : Nat) (cmd : SCmd)
  | syncSignalSet (c n : Nat) (cmd : SCmd)
  | barArrive (c n k : Nat)
  | barrierArrival (c n k : Nat)
  | counterUpdate (c id : Nat) (set : Bool) (value : W64)
  | heAdd (c n k : Nat)
  | heSub (c n k : Nat)
  | heNeg (c n k : Nat)
  | heAddp (c n k : Nat)
  | heSubp (c n k : Nat)
  | heMulp (c n k : Nat)
  | heMul (c n k : Nat)
  | heRelin (c n k : Nat)
  | heRot (c n k : Nat)
  | heRoth (c n k : Nat)
  | heRescale (c n k : Nat)
  | heModdrop (c n k : Nat)
  | heModraise (c n k : Nat)
  | heBconv (c n k : Nat)
  | heLin (c n k : Nat)
  | heEncode (c n k : Nat)
  | heScaleConst (c n k : Nat)
  | heScaleDivide (c n k : Nat)
  | heScaleAlign (c n k : Nat)
  | heRefresh (c n k : Nat)
  | refreshPrimitiveBoundary (c n k : Nat)
  | luExtract (c n k : Nat)
  | luEval (c n k : Nat)
  | luPack (c n k : Nat)
  | shSplit (c n k : Nat)
  | shMulPrepare (c n k : Nat)
  | shMulFinish (c n k : Nat)
  | shTriple (c n k : Nat)
  | shCmpOpen (c n k : Nat)
  | shCmpReveal (c n k : Nat)
  | shCmpFinish (c n k : Nat)
  | shJoinReshare (c n k : Nat)
  | shJoinAdd (c n k : Nat)
  | ntFwd (c n k : Nat)
  | ntInv (c n k : Nat)
  | pxAuto (c n k : Nat)
  | vcRun (c n k : Nat)
  | stLayoutCopy (c n k : Nat)
  | stLayoutMul (c n k : Nat)
  | layCopyCopy (c n k : Nat)
  | layCopyGather (c n k : Nat)
  | layCopyScatter (c n k : Nat)
  | layCopyScatteradd (c n k : Nat)
  | dmGo (c n k : Nat)
  | descriptorFetch (wing ch : Nat) (chk : FetchChecks)
  | dmaChainEnd (wing : Nat) (ch : ChainEnd)
  | redAccumOpen (c n k : Nat)
  | redAccumAdd (c n k : Nat)
  | redAccumCollect (c n k : Nat)
  | bucketZeroFillDone (tag : Nat)
  | bucketAdmissionClose (tag : Nat)
  | bucketDeadline (tag : Nat)
  | bucketClosePass (tag : Nat) (reread : Check)
  | bucketTagHoldEnd (tag : Nat)
  | slotAccessGrant (slot : Nat)
  | slotAccessEnd (slot req : Nat)
  | pieceComplete (bay core : Nat) (e : Engine) (c n k : Nat) (chk : Check) (lane : Option Nat)
  | bayPull (bay : Nat)
  | weightUpdate (wing : Nat)
  | gatherWindowExpire (wing pass : Nat)
  | passHeaderCheck (wing pass : Nat) (chk : Check)
  | keyBlockRelease (wing pass : Nat) (failedSymbols : Nat)
  | memoryRequest (r : Option MemReq) (stack pc failedSymbols : Nat)
  | patrolScrub (stack pc bank row block failedSymbols : Nat)
  | reshelveRow (stack pc bank : Nat) (row : RowCopy)
  | reshelveLedgerRecord (stack pc bank row : Nat)
  | stackThermalReading (stack : Nat) (t : Int)
  | stackDrainEnd (stack : Nat)
  | stackResume (stack : Nat) (t : Int)
  | retrainSlice (stack pc : Nat) (ok : Bool)
  | stackTrainingDone (stack : Nat) (ok : Bool) (hardRepairs : Nat)
  | portTrainingAdvance (p : Nat) (t : Train)
  | portTrainingTimeout (p : Nat)
  | portFailedRetry (p : Nat)
  | laneFail (p lane : Nat)
  | laneSwap (p lane : Nat)
  | laneSwapAck (p lane phys : Nat)
  | retry (p seq : Nat)
  | retryRepeat (p : Nat)
  | creditInit (p posted request response : Nat)
  | down (p reason : Nat)
  | flitReceive (p : Nat) (bytes : List Byte)
  | write (p : Nat) (f : Flit)
  | mask (p : Nat) (f : Flit)
  | fetch (p : Nat) (f : Flit)
  | rdata (p : Nat) (f : Flit)
  | acch (p : Nat) (f : Flit)
  | accum (p : Nat) (f : Flit)
  | sig (p : Nat) (f : Flit)
  | tallyTimeout (p window transfer : Nat)
  | tnak (p : Nat) (f : Flit)
  | refusedTransferDiscardEnd (p window transfer : Nat)
  | stamp (p : Nat) (f : Flit)
  | time (p : Nat) (f : Flit)
  | timeMeasurement (p : Nat) (m : TimeMeas)
  | portLeavesActive (p : Nat) (recover : Bool)
  | stampPeriod
  | stampApply
  | snapshotDone
  | traceHeaderUpdate
  | voltageLoopStep (dom rate : Nat)
  | governorUpdate (inputMw : Nat) (budget : List Nat)
  | currentLimitUpdate (mvA mvB : Nat)
  | junctionReading (dom : Nat) (t outlet : Int)
  | ageingMeasurement (dom : Nat) (drifts : List Nat)
  | ageingDailyRecord (dom : Nat)
  | feedPresent (feed mv : Nat)
  | feedLost (feed mv : Nat)
  | inrushTimeout (feed : Nat)
  | perstNAssert
  | perstNRelease
  | oscillatorStable
  | oscillatorDisciplined
  | hostLinkLockChange (locked : Bool)
  | ledgerScanDone (ok : Bool)
  | baySelfTestDone (bay : Nat) (good : W16) (sequencer lu : Bool)
  | bootRecordPoll
  | firmwareLoadDone
  | wingReady (w : Nat)
  | controlCoreFailure (hx : Nat)
  | deskFailure (dom : Nat)
  | wingLost (w cause : Nat)
  | syncPlaneFail (plane path : Nat)
  | entropyHealthFail
  | entropyRestartTest (pass : Bool)
  | drbgReseed (c w : Nat)
  | telemetry
  | health
  | ledgerSummary
  | wingPowerOff (w : Nat) (confirm : Byte)
  | maintModuleReset (confirm : Byte)
  | roleMigrationDone (role : Nat)
  | contextWipeDone (c : Nat)
  | powerGood
  | inrushLimiterDone (feed : Nat)
  | inrushRetry (feed : Nat)
  | entropyStartupTestDone (pass : Bool)
  | wingFabricSelfTestDone (w : Nat) (pass : Bool)
  | firmwareStarted
  | stagedImageChecked (slot : Nat)
  | quoteSigned
  | laneMarker (p lane : Nat) (bytes : List Byte) (arrive : Nat)
  | timeReport (p : Nat)
  | d0Entry (p : MPort)
  | setdasa (static dyn : Nat)
  | entdaa (dyn : Nat)
  | vioSbChange (mv : Nat)
deriving DecidableEq, Repr

end Sys2Proof
end

