-- ==== Sys2Proof/Decode.lean ====
section
/-! DEFINITION. The decoder over the table's bits: spec/opcode_table.json gives no row any bits, so no word spells a command. What the
module itself decodes (submission entries, folio slots, descriptors, flits) is state or a command's operand, and is read in
Machine/Submit.lean, Machine/Streams.lean, Machine/Dma.lean and Machine/Flits.lean. -/

namespace Sys2Proof

/-- The command that a word spells by the table's bits: none, for every word. -/
def decodeTableWord (_nbits _w : Nat) : Option Instr := none

end Sys2Proof
end

