-- ==== Sys2Proof/Config.lean ====
section
/-! DEFINITION. What an implementation fixes and what the spec leaves open. Each constant is opaque: nothing can prove a
value of it, so a statement about it holds for every value. A first argument `n` is the draw counter of the state. -/

namespace Sys2Proof.Config

/-- A fresh free value: draw `n` of purpose `k` (assumption log 3). -/
opaque free : Nat → Nat → Nat
/-- A fresh free byte string of a length. -/
opaque freeBytes : Nat → Nat → Nat → List Byte
/-- Ring depth of a reserved depth code (R351, R354). -/
opaque reservedDepth : Nat → Nat
/-- Type byte of a lifecycle record by kind: 0 power-up, 1 end of service, 2 thermal shutdown, 3 desk failure, 4 firmware
activation, 5 persistent counter (R461 names no code). -/
opaque lifeType : Nat → Nat
/-- Ceiling setpoint, 0.001 G tokens/s, of a domain whose age leaves a voltage below the first row of Table 18.3 (R428). -/
opaque ceilingBelowTable : Nat → Nat
/-- The wing that a sync path lies within or leads to, 0 to 3, or the desk for any other value (R454 names no path numbers). -/
opaque pathWing : Nat → Nat
/-- The 32 bytes of `opt_rand` that a signature of a message takes (FIPS 205; R386 and R387 do not say whether signing is randomised). -/
opaque signRandom : List Byte → List Byte
/-- How a bay divides a command (R69): what the division depends on, the command and its cards, and the number of enabled cores; a
number for every piece, in the order of issue. -/
opaque division : List Nat → Nat → List Nat
/-- Numbers that the sequencer takes for a command (R44, R67): 0 its tiles on a core, 1 its working slots. -/
opaque share : List Nat → Nat → Nat
/-- The quiet NaN payload and sign an operation produces (R30): draw. -/
opaque nanPayload : Nat → Nat
/-- Tininess is detected before rounding (R30). -/
opaque tinyBefore : Bool

end Sys2Proof.Config
end

