-- ==== Sys2Proof/Machine/State.lean ====
section
/-! DEFINITION. The state of the module as plain data, its reset value, its faults and its refusals. Every field's
docstring names the rule that gives it and its reset value. -/

namespace Sys2Proof.Machine

/-- A command that still owes a completion (R362): its port, the port's mailbox epoch, tag, opcode and context. -/
structure Owed where
  port : MPort
  epoch : Nat
  tag : Nat
  op : Nat
  ctx : Nat
deriving DecidableEq, Repr

/-- What waits for a completion ring or tenant ring (R199, R353): the first 31 bytes of the entry. -/
structure Posted where
  /-- Bytes 0 to 30 of the entry (Tables 7.12, 15.5, 15.10). -/
  body : List Byte
  /-- What the posting of this record frees: context, stream, and its window entry, or the stream itself (R198, R199). -/
  frees : Option (Nat × Nat × Option Nat)
deriving DecidableEq, Repr

/-- A mailbox: the owner's, or a VF's (R354, R355). -/
structure Mailbox where
  /-- MBX_SQ_BASE; 15 R354 Table 15.7; reset 0. -/
  sqBase : W64 := 0
  /-- MBX_CQ_BASE; 15 R354 Table 15.7; reset 0. -/
  cqBase : W64 := 0
  /-- MBX_SIZE; 15 R354 Table 15.7; reset 0. -/
  size : W32 := 0
  /-- MBX_CTRL bit 0 MBX_ENABLE; 15 R355; reset 0. -/
  enable : Bool := false
  /-- MBX_STAT bit 2 MBX_ERROR; 15 R355; reset 0. -/
  error : Bool := false
  /-- MBX_STAT [15:8] MBX_ERRCODE; 15 R355; reset 0. -/
  errCode : Nat := 0
  /-- MBX_SQ_TAIL doorbell, 12 bits; 15 R359; reset 0. -/
  sqTail : Nat := 0
  /-- MBX_SQ_HEAD, 12 bits; 15 R359; reset 0. -/
  sqHead : Nat := 0
  /-- MBX_CQ_HEAD, 12 bits; 15 R359; reset 0. -/
  cqHead : Nat := 0
  /-- The index of the next completion the module writes; 15 R359; reset 0. -/
  cqTail : Nat := 0
  /-- Phase of the submission ring's current pass; 15 R359; reset 1. -/
  sqPhase : Bool := true
  /-- Phase of the completion ring's current pass; 15 R359; reset 1. -/
  cqPhase : Bool := true
  /-- Fetched commands that still owe a completion (MBX_ENABLED of MBX_STAT bit 1 follows); 15 R355; reset 0. -/
  owed : Nat := 0
  /-- Completions, records and tenant events that wait for the ring, oldest first; 15 R359, 07 R199; reset empty. -/
  held : List Posted := []
  /-- MBX_STAGE (PF only); 15 R349; reset 0. -/
  stage : W64 := 0
  /-- The function is in D3hot; 15 R348; reset D0. -/
  d3 : Bool := false
  /-- The low-half read that latched a high half: register offset and latched value; 15 R348; reset none. -/
  latch : Option (Nat × W32) := none
  /-- The model's own: counts the mailbox's resets, so that a command fetched before one posts nothing; DESIGN CHOICE 0. -/
  epoch : Nat := 0
deriving DecidableEq, Repr

/-- An event entry (Table 15.5). -/
structure Evt where
  status : Nat
  code : Nat
  ctx : Nat
  repeat_ : Nat
  tick : W64
  detail : List Byte
deriving DecidableEq, Repr

/-- The event block (R353). -/
structure Events where
  /-- EVT_RING_BASE; 15 R351 Table 15.3; reset 0. -/
  base : W64 := 0
  /-- EVT_RING_CTRL; 15 R351 Table 15.3; reset 0. -/
  ctrl : W32 := 0
  /-- EVT_TAIL, 12 bits; 15 R353; reset 0. -/
  tail : Nat := 0
  /-- EVT_HEAD, 12 bits; 15 R353; reset 0. -/
  head : Nat := 0
  /-- Phase of the current pass of the event ring; 15 R353; reset 1. -/
  phase : Bool := true
  /-- EVT_LOST, saturating; 15 R353; reset 0. -/
  lost : Nat := 0
  /-- EVT_COUNT[0..15], saturating at 32 bits; 15 R351 Table 15.4; reset 0. -/
  counts : Tbl Nat := []
  /-- Held events, at most 1,024, oldest first; 15 R353; reset empty. -/
  held : List Evt := []
  /-- Events written, module record word 18; 21 R467 Table 21.2; reset 0. -/
  written : Nat := 0
  /-- Events lost, module record word 19; 21 R467 Table 21.2; reset 0. -/
  lostTotal : Nat := 0
deriving DecidableEq, Repr

/-- What the module drives outward: the host's memory as the module wrote it, interrupts, and read data. -/
structure HostPort where
  /-- Bytes that the module has written to host memory; 15 R353, R359, R361; reset nothing listed (DESIGN CHOICE: the host's memory is outside the module). -/
  mem : List Host.Cell := []
  /-- MSI-X messages sent, by function × 64 + vector; 15 R357; reset 0. -/
  msgs : Tbl Nat := []
  /-- Pending bits (PBA), by function × 64 + vector; 15 R350; reset 0. -/
  pba : List Nat := []
  /-- MSI-X table double words written, by function × 256 + index; 15 R350; reset: vector control bit 0 set (PRESUMED, PCI Express). -/
  msix : Tbl W32 := []
  /-- IRQ_CAUSE; 15 R354 Table 15.8; reset 0. -/
  irqCause : W32 := 0
  /-- IRQ_MASK; 15 R354 Table 15.8; reset 0. -/
  irqMask : W32 := 0
  /-- CKO_CTRL; 15 R356; reset 0. -/
  cko : W32 := 0
  /-- The data that the last register or BAR2 read returned; 15 R348, R349; DESIGN CHOICE 0. -/
  readData : List Byte := []
  /-- The last BAR2 read was completed as a poisoned TLP; 15 R349; DESIGN CHOICE false. -/
  readPoison : Bool := false
  /-- IDN_SEQ; 15 R351; reset 0. -/
  idnSeq : W32 := 0
  /-- RDY_SEQ; 15 R352; reset 0. -/
  rdySeq : W32 := 0
  /-- EVT_HEALTH; 15 R351 Table 15.4; reset 0. -/
  health : W32 := 0
deriving DecidableEq, Repr

/-- What the module's supply and resets are doing (R401, R408, R426, R459). -/
inductive PowerState
  | off | starting | standby | run | thermal | deskFailed
deriving DecidableEq, Repr

/-- The inrush limiter of a feed (R486). -/
inductive Limiter | idle | charging | done | waitRetry
deriving DecidableEq, Repr

/-- A 52 V feed (R415, R486). -/
structure Feed where
  /-- Voltage at J2, mV; 22 R485; DESIGN CHOICE 0. -/
  mv : Nat := 0
  /-- The feed is present; 18 R415; reset 0 (IDN_FEEDS). -/
  present : Bool := false
  /-- How the feed stopped being present: 0 never present, 1 below 39 V, 2 above 61 V; 18 R415; reset 0. -/
  was : Nat := 0
  /-- The inrush limiter; 22 R486; DESIGN CHOICE idle. -/
  limiter : Limiter := .idle
deriving DecidableEq, Repr

/-- A power domain (R419 to R428, Table 21.2 Domain record). -/
structure Domain where
  /-- The domain is powered; 18 R426, 17 R401; reset off. -/
  on : Bool := false
  /-- Rail, mV; 18 R422; DESIGN CHOICE 620, the floor of R421. -/
  rail : Nat := 620
  /-- Measured rate, 0.001 G tokens/s; 18 R420; DESIGN CHOICE 1,100. -/
  rate : Nat := 1100
  /-- Measured rates of the last ten 10 µs steps of the loop, newest first, whose mean R274 takes; 18 R422, 11 R274; DESIGN CHOICE the
  rate, ten times. -/
  rates : List Nat := List.replicate 10 1100
  /-- Setpoint, 0.001 G tokens/s; 18 R417; reset the floor 1,100 until firmware is active. -/
  setpoint : Nat := 1100
  /-- Ceiling setpoint, 0.001 G tokens/s; 18 R428; reset 1,800. -/
  ceiling : Nat := 1800
  /-- Age index, mV (the margin is 15 plus it); 18 R427; DESIGN CHOICE 0, a fresh domain. -/
  age : Nat := 0
  /-- Junction, °C; 18 R425; DESIGN CHOICE 25. -/
  tj : Int := 25
  /-- Highest junction since the last daily record, °C; 18 R427; DESIGN CHOICE 25. -/
  tjMax : Int := 25
  /-- A row of Table 18.4 in force: 0 none, 1 above 95 °C, 2 at 103, 3 at 105; 18 R425; reset 0. -/
  hot : Nat := 0
  /-- Issue is paced by the governor; 18 R418, R423; reset false. -/
  paced : Bool := false
  /-- Ticks of POWER_PACING, record word 2; 21 R467; reset 0. -/
  powerTicks : Nat := 0
  /-- Ticks of THERMAL_PACING, record word 3; 21 R467; reset 0. -/
  thermalTicks : Nat := 0
deriving DecidableEq, Repr

/-- Supply, contacts and the maintenance port. -/
structure Power where
  /-- What the module's supply and resets are doing; 17 R401; reset off (unpowered). -/
  st : PowerState := .off
  /-- Feed A; 18 R415; reset not present. -/
  feedA : Feed := {}
  /-- Feed B; 18 R415; reset not present. -/
  feedB : Feed := {}
  /-- Set limit, W; 18 R417; reset 3,600. -/
  setLimit : Nat := 3600
  /-- Feed limit, W: 3,600 with both feeds, 2,000 with one; 18 R416, R418; reset 0. -/
  feedLimit : Nat := 0
  /-- Current limit, mW; 18 R416; reset 0. -/
  curLimit : Nat := 0
  /-- Limit in force (IDN_LIMIT), W; 18 R416; reset 0. -/
  limit : Nat := 0
  /-- Measured input power, mW; 18 R423; DESIGN CHOICE 0. -/
  inputMw : Nat := 0
  /-- Pacing of the wings' domains and memory controllers is in force; 18 R418, R424; reset false. -/
  pacing : Bool := false
  /-- Stack bandwidth is paced; 18 R423; reset false. -/
  stackPacing : Bool := false
  /-- The 80 power domains by number; 18 R419, 15 R356; reset each a domain as reset. -/
  domains : Tbl Domain := []
  /-- Inlet temperature, 0.1 °C; 15 R371 Table 15.14; DESIGN CHOICE 250. -/
  inlet : Int := 250
  /-- Outlet temperature, 0.1 °C; 18 R425; DESIGN CHOICE 250. -/
  outlet : Int := 250
  /-- PERST_N is asserted; 17 R401, 22 R488; DESIGN CHOICE true: a floating contact counts as asserted. -/
  perst : Bool := true
  /-- PERST_N was released before power-good or while bring-up is held; 17 R401; DESIGN CHOICE false. -/
  earlyRelease : Bool := false
  /-- Bring-up waits for the module to cool after a thermal shutdown; 18 R426; reset false. -/
  cooling : Bool := false
  /-- The bring-up in progress follows a module reset, which performs no hard repair; 12 R297, 17 R407; reset false. -/
  softReset : Bool := false
  /-- PRSNT_N is driven low; 17 R401, R411; reset false. -/
  prsnt : Bool := false
  /-- ALERT_N is asserted; 15 R371, 17 R411; reset released. -/
  alert : Bool := false
  /-- VIO_SB, mV; 22 R489; DESIGN CHOICE 0. -/
  vio : Nat := 0
  /-- SDA is open-drain in every phase; 22 R489; DESIGN CHOICE true with VIO_SB at 0. -/
  sdaOpenDrain : Bool := true
  /-- The dynamic address of the maintenance port; 15 R371; reset none (static 0x3A). -/
  i3c : Option Nat := none
  /-- The reply to the last maintenance command; 15 R371; DESIGN CHOICE empty. -/
  reply : List Byte := []
  /-- The last maintenance command drew a NACK; 15 R371; DESIGN CHOICE false. -/
  nack : Bool := false
  /-- CLKOUT is an output; 17 R411 Table 17.5; reset high impedance when unpowered. -/
  ckoDriven : Bool := false
deriving DecidableEq, Repr

/-- A FOLLOW port's measurements (R439). -/
structure Follow where
  /-- The port has acquired its server; 19 R439; reset false. -/
  acquired : Bool := false
  /-- The last offsets measured, newest first, at most 4, in ticks; 19 R439; reset empty. -/
  recent : List Int := []
  /-- Measurements in a row with |θ| above 1 µs after acquisition; 19 R439; reset 0. -/
  far : Nat := 0
  /-- Tick of the last valid measurement; 19 R437; reset 0. -/
  lastValid : Nat := 0
  /-- The server's holdover flag as last reported; 19 R437, 13 R328; reset false. -/
  serverHold : Bool := false
  /-- Steering rate against the previous source, ppm; 19 R439; reset 0. -/
  ppm : Int := 0
deriving DecidableEq, Repr

/-- The timebase (R432 to R439). -/
structure Time where
  /-- The timebase runs; 17 R402; reset false. -/
  running : Bool := false
  /-- TIM_NOW, 63-bit tick; 19 R434, R438; reset 0. -/
  now : Nat := 0
  /-- The LC oscillator has counted 65,536 cycles; 19 R434; reset false. -/
  stable : Bool := false
  /-- The oscillator is disciplined; 19 R435; reset false. -/
  disciplined : Bool := false
  /-- The host link is locked; 19 R436; reset false. -/
  hostLocked : Bool := false
  /-- The source has been locked without a break since this tick; 19 R435; reset none. -/
  lockedSince : Option Nat := none
  /-- A port configured FOLLOW, by its number, with its measurements; 19 R439; reset none. -/
  follow : Option (Nat × Follow) := none
deriving DecidableEq, Repr

/-- An image: its body and its 30,048-byte colophon (R379). -/
structure Image where
  body : List Byte
  colophon : List Byte
deriving DecidableEq, Repr

/-- The firmware in force (R384, R387). -/
structure Active where
  fwver : Nat
  slot : Nat
  measure : List Byte
  colophonDigest : List Byte
deriving DecidableEq, Repr

/-- What the control complex is doing with firmware (R381 to R383). -/
inductive FwPhase
  | none | loading (seq offset length : Nat) | starting | restarting | active
deriving DecidableEq, Repr

/-- OTP fuses (Table 16.2). -/
structure Otp where
  /-- Anti-rollback count, 0 to 256; 16 R377; DESIGN CHOICE 0. -/
  arb : Nat := 0
  /-- rootkey[0..3], 32 bytes each; 16 R377; DESIGN CHOICE zeros (fused at test). -/
  rootkeys : Tbl (List Byte) := []
  /-- Revoked slots, 4 fuses; 16 R377; DESIGN CHOICE 0. -/
  revoked : Nat := 0
  /-- Identity seed, 96 bytes; 16 R377; DESIGN CHOICE zeros. -/
  idseed : List Byte := []
  /-- Serial, 8 bytes; 16 R377; DESIGN CHOICE zeros. -/
  serial : List Byte := []
  /-- taplock; 16 R378; reset blown (blown at shipment). -/
  taplock : Bool := true
  /-- rommeas, 64 bytes; 16 R377; DESIGN CHOICE zeros. -/
  rommeas : List Byte := []
deriving DecidableEq, Repr

/-- A quote that waits for the keeper (R387). -/
structure QuoteJob where
  owed : Owed
  nonce : List Byte
  ctx : Option Nat
  buf : Buf
deriving DecidableEq, Repr

/-- A big-number job (R397): its kind (0 key generation, 1 shared secret, 2 verification), its context, and its failure. -/
structure BigJob where
  kind : Nat
  owed : Owed
  ctx : Nat
  start : Nat
  draw : Nat
  msg : List Byte
  buf : Buf
  fail : Option Status
deriving DecidableEq, Repr

/-- The control complex (R373 to R400). -/
structure Hexset where
  /-- Failed control cores, held in reset; 16 R375; reset empty. -/
  failed : List Nat := []
  /-- Host core of each role: 0 front, 1 + w scheduler of Ww; 16 R374; reset HX1 to HX5. -/
  roles : List Nat := [1, 2, 3, 4, 5]
  /-- Roles that are moving; 16 R375; reset empty. -/
  moving : List Nat := []
  /-- Roles that no surviving core can host; 16 R375; reset empty. -/
  orphans : List Nat := []
  /-- What the ROM or keeper does with firmware; 16 R381; reset none. -/
  phase : FwPhase := .none
  /-- seq of the last boot record seen; 16 R381; reset 0. -/
  bootSeq : Nat := 0
  /-- The active image; 16 R384; reset none (IDN_FWVER 0). -/
  active : Option Active := none
  /-- Staging slots 0 and 1; 16 R383; reset empty. -/
  slots : Tbl Image := []
  /-- FW_STAGE checks in progress, by slot; 16 R383; reset none. -/
  staging : Tbl (Owed × Image) := []
  /-- RDY_HEXSET, RDY_KEEPER, RDY_FW, RDY_MBX; 15 R351; reset 0. -/
  rdyHexset : Bool := false
  rdyKeeper : Bool := false
  rdyFw : Bool := false
  rdyMbx : Bool := false
  /-- OTP fuses; 16 R377; reset as the fuses stand. -/
  otp : Otp := {}
  /-- Quotes waiting, oldest first; the first is being signed; 16 R387; reset empty. -/
  quotes : List QuoteJob := []
  /-- The running big-number job; 16 R397; reset none. -/
  job : Option BigJob := none
  /-- Values that the keeper's DRBG has given since it was instantiated; 16 R396, R399; reset 0. -/
  keeperDraws : Nat := 0
  /-- Big-number jobs that wait, oldest first; 16 R397; reset empty. -/
  jobs : List BigJob := []
  /-- RDY_TRNG; 15 R351, 16 R398; reset 0. -/
  trng : Bool := false
  /-- The DRBGs are in the error state; 16 R399, 06 R170; reset false. -/
  drbgError : Bool := false
deriving DecidableEq, Repr

/-- A ledger record (Table 20.9), its CRC taken from the other fields unless torn. -/
structure LRec where
  cls : Nat
  type : Nat
  wing : Nat
  unit : Nat
  boot : Nat
  tick : W64
  detail : List Byte
  torn : Bool
deriving DecidableEq, Repr

/-- A weed-list entry (Table 12.3). -/
structure Weed where
  page : Nat
  reason : Nat
  boot : Nat
  tick : W64
deriving DecidableEq, Repr

/-- The ledger (R460): it survives every reset. -/
structure Ledger where
  /-- RDY_LEDGER; 15 R351; reset 0. -/
  ready : Bool := false
  /-- Power-up count; 17 R410; DESIGN CHOICE 0. -/
  boots : Nat := 0
  /-- Error history, oldest first, at most 98,304; 20 R460; DESIGN CHOICE empty. -/
  errors : List LRec := []
  /-- Reshelving list; 20 R460, 12 R294; DESIGN CHOICE empty. -/
  reshelves : List LRec := []
  /-- Ageing history, oldest first, at most 49,152; 20 R460; DESIGN CHOICE empty. -/
  ageing : List LRec := []
  /-- Lifecycle records; 20 R460; DESIGN CHOICE empty. -/
  life : List LRec := []
  /-- Weed list per stack; 12 R291; DESIGN CHOICE empty. -/
  weeds : Tbl (List Weed) := []
  /-- Bad-spare bitmap, stack × 65,536 + pseudo-channel × 1,024 + spare; 12 R295; DESIGN CHOICE empty. -/
  badSpares : List Nat := []
  /-- The endorsement, 29,984 bytes, or none; 16 R386; DESIGN CHOICE none. -/
  endorsement : Option (List Byte) := none
  /-- Transients merged since the unit's last type 0x02 record, by unit key; 20 R462; reset empty. -/
  transients : Tbl (Nat × Nat) := []
deriving DecidableEq, Repr

/-- A stamp (R468). -/
structure StampInfo where
  id : Nat
  party : Nat
  origin : W64
  apply : Nat
  hops : Nat
  received : Bool
deriving DecidableEq, Repr

/-- A gap in a control core's trace (Table 21.6): the tick at its start, the packets lost, and its reason: 1 sealed, 2 overflow, 3 role
migration or failed core, 4 reconfiguration, or 0 for a start, which has no GAP packet. -/
structure TraceGap where
  start : Nat
  lost : Nat
  reason : Nat
deriving DecidableEq, Repr

/-- Stamp and snapshot control (R468 to R471). -/
structure Stamps where
  /-- STP_CTRL bit 1 STP_PERIODIC; 15 R354 Table 15.8; reset 0. -/
  periodic : Bool := false
  /-- STP_CTRL bit 2 STP_FORWARD; 15 R354 Table 15.8; reset 0. -/
  forward : Bool := false
  /-- STP_NEXTID; 15 R354 Table 15.7; reset 1. -/
  nextId : W32 := 1
  /-- STP_PERIOD; 15 R354 Table 15.7; reset 0. -/
  period : W64 := 0
  /-- Tick of the last periodic stamp or of setting STP_PERIODIC; 21 R468; reset 0. -/
  periodStart : Nat := 0
  /-- STP_BUF_BASE; 15 R354 Table 15.7; reset 0. -/
  bufBase : W64 := 0
  /-- STP_BUF_LEN; 15 R354 Table 15.7; reset 0. -/
  bufLen : W64 := 0
  /-- STP_LAST_TICK; 15 R354 Table 15.7; reset 0. -/
  lastTick : W64 := 0
  /-- STP_LAST_ID; 15 R354 Table 15.7; reset 0. -/
  lastId : W32 := 0
  /-- STP_STATUS bit 0 STP_BUSY; 15 R354 Table 15.8; reset 0. -/
  busy : Bool := false
  /-- STP_STATUS bit 1 STP_OVERRUN; 15 R354 Table 15.8; reset 0. -/
  overrun : Bool := false
  /-- Stamps that wait for their apply tick, oldest first; 21 R469; reset empty. -/
  waiting : List StampInfo := []
  /-- IDs seen, newest first, with the tick of arrival; 13 R329; reset empty. -/
  seen : List (Nat × Nat) := []
  /-- The latched snapshot that is being written: slot offset and bytes; 21 R471; reset none. -/
  latched : Option (Nat × List Byte) := none
  /-- The apply tick A of the latched snapshot; 21 R472; reset 0. -/
  latchedAt : Nat := 0
  /-- Buffer register writes that wait for the snapshot in progress; 21 R471; reset empty. -/
  pendingBuf : List (Bool × W64) := []
  /-- `next`; 21 R471; reset 0x1000. -/
  next : Nat := 0x1000
  /-- `written`; 21 R471; reset 0. -/
  written : Nat := 0
  /-- A stamp was lost to overrun since the previous snapshot; 21 R471 Table 21.5; reset false. -/
  lostOne : Bool := false
  /-- Trace: core mask; 21 R473; reset 0. -/
  trMask : Nat := 0
  /-- Trace: ring DPA; 21 R473; reset 0. -/
  trBase : Nat := 0
  /-- Trace: ring length, 0 stopped; 21 R473; reset 0. -/
  trLen : Nat := 0
  /-- Trace: `wptr`; 21 R474; reset 0x40. -/
  trPtr : Nat := 0x40
  /-- Trace: `wraps`; 21 R474; reset 0. -/
  trWraps : Nat := 0
  /-- Trace: packets dropped; 21 R474; reset 0. -/
  trDropped : Nat := 0
  /-- Trace: ticks of the packets written within the last 10 µs; 21 R475; reset empty. -/
  trTimes : List Nat := []
  /-- Trace: gaps by control core, until the core can emit them; 21 R473 to R476; reset none. -/
  trGaps : Tbl TraceGap := []
  /-- Trace: branches since its last SYNC, by control core; 21 Table 21.6; reset 0. -/
  trBranches : Tbl Nat := []
deriving DecidableEq, Repr

/-- A request for a carrel slot (R64): 1 PUT, 2 PEEK, 3 TAKE; reader count of a PUT; whether it sets the secret bit; who asks,
as context, kind (0 stream entry, 1 channel, 2 transfer through a loan window) and number. -/
structure SlotReq where
  mode : Nat
  n : Nat
  secret : Bool
  who : Nat × Nat × Nat
deriving DecidableEq, Repr

/-- Card kinds (Table 7.2). -/
inductive CardKind | ciphertext | plaintext | key | poly | lwe | share | clear
deriving DecidableEq, Repr

/-- Element types (Table 1.5). -/
inductive Elem | res64 | res30x2 | fp64 | fp32 | bf16 | int32 | int64 | u64
deriving DecidableEq, Repr

/-- Layouts (Table 8.1). -/
inductive Layout | coef | limb | bitrev | tile16 | slot | lwe
deriving DecidableEq, Repr

/-- Where a card's storage lies (Table 7.1). -/
inductive Place | hbm | carrel | extents
deriving DecidableEq, Repr

/-- Triple states (R156). -/
inductive Triple | fresh | opened | spent
deriving DecidableEq, Repr

/-- A card (Tables 7.1, 7.3, 7.4). -/
structure Card where
  /-- `kind`; 07 R173; reset none (no entry). -/
  kind : CardKind
  scheme : Nat := 0
  elem : Elem := .res64
  layout : Layout := .slot
  poison : Bool := false
  secret : Bool := false
  raised : Bool := false
  damaged : Bool := false
  pending : Bool := false
  /-- `paramset`; 07 R173; reset none. -/
  set : Nat := 0
  level : Nat := 0
  comps : Nat := 1
  limbs : Nat := 0
  place : Place := .hbm
  noise : Nat := 0
  floor : Nat := 0
  scale : Nat := 0
  accession : Nat := 0
  base : Nat := 0
  capacity : Nat := 0
  /-- `access`: mode and reader count; 07 R173; reset none. -/
  mode : Nat := 0
  readers : Nat := 0
  wing : Nat := 0
  polys : Nat := 1
  count : Nat := 0
  fill : Nat := 0
  keyKind : Nat := 0
  keyIndex : Nat := 0
  aux : Nat := 0
  target : Nat := 0
  extents : List Nat := []
  pages : List Nat := []
  /-- `dim` of an LWE card; 07 R174; reset none. -/
  lweDim : Nat := 0
  role : Nat := 0
  frac : Nat := 0
  bound : Nat := 0
  triple : Triple := .fresh
  opening : Nat := 0
  noiseX : Nat := 0
  noiseY : Nat := 0
  fracX : Nat := 0
  rank : Nat := 0
  dims : List Nat := []
  pitch : List Nat := []
  /-- The seed of a c1 that no command has read yet; 01 R37; reset none. -/
  seed : Option (List Byte) := none
  /-- The key was bound seeded; 03 R85; reset false. -/
  seeded : Bool := false
  /-- Words of the bound key's extents, by address over 8, that a write other than the key's own has changed; 03 R86; reset none. -/
  altered : List Nat := []
deriving DecidableEq, Repr

/-- A parameter set (R13 to R16). -/
structure ParamSet where
  scheme : Nat
  log2n : Nat
  split : Bool
  packed : Bool
  dnum : Nat
  t : Nat
  lweN : Nat
  qs : List Nat
  ps : List Nat
deriving DecidableEq, Repr

/-- A stage entry of a refresh plan (Table 5.2). -/
structure Stage where
  diag : Nat
  keys : Nat
  n1 : Nat
  n2 : Nat
deriving DecidableEq, Repr

/-- A step word of an EvalMod program (Table 5.3). -/
structure EvalStep where
  op : Nat
  d : Nat
  a : Nat
  b : Nat
  k : Nat
deriving DecidableEq, Repr

/-- A refresh plan (R125 to R128): its record and the program it names. -/
structure Plan where
  set : Nat
  accession : Nat
  wing : Nat
  log2slots : Nat
  modLevels : Nat
  scratchSlots : Nat
  carrel : Bool
  scaleIn : Nat
  scaleOut : Nat
  margin : Nat
  err : Nat
  relin : Nat
  conj : Nat
  fold : Nat
  program : Nat
  scratch : Nat
  cts : List Stage
  stc : List Stage
  /-- The program's steps up to END, and its constants as value and exponent, as the load read them; 05 R126; reset none. -/
  steps : List EvalStep
  consts : List (Nat × Nat)
deriving DecidableEq, Repr

/-- A ciphertext value in evaluation form: level, and residues by component, limb and position. -/
structure Ct where
  level : Nat
  comps : List (List (List Nat))
deriving DecidableEq, Repr

/-- A primitive command of a refresh (Table 5.4), on the refresh's registers: operation, destination, sources, argument. -/
structure Prim where
  op : Nat
  d : Nat
  a : Nat
  b : Nat
  arg : Nat
deriving DecidableEq, Repr

/-- A refresh in flight (R132, R133): its plan, the primitives left, its registers, and where its intermediates lie. -/
structure Job where
  plan : Nat
  prims : List Prim
  regs : Tbl Ct
  inCarrel : Bool
  scratch : Nat
  /-- The command's own keys and pass level, streamed after the refresh; none for `he.refresh` itself. -/
  keys : List Nat := []
  level : Nat := 0
  /-- Only CoeffToSlot runs; 05 R132; reset none. -/
  c2s : Bool := false
deriving DecidableEq, Repr

/-- Where a work command of the window stands (R195, R196, R273). -/
inductive Phase | waiting | queued | pulled | issued | done
deriving DecidableEq, Repr

/-- A write of the step in progress, or one that a command makes when it completes: bytes from an address, then a run of zeros. -/
structure Store where
  addr : Nat
  data : List Byte
  run : Nat
deriving DecidableEq, Repr

/-- The fields of a completion record that a command fills (Table 7.12). -/
structure Rec where
  fpflags : Nat := 0
  fpValid : Bool := false
  count : Nat := 0
  cValid : Bool := false
  aux : Nat := 0
  aValid : Bool := false
  dropped : Nat := 0
deriving DecidableEq, Repr

/-- Whose piece an engine works on (R42, R69): context, stream, window entry. -/
structure Piece where
  ctx : Nat
  stream : Nat
  entry : Nat
deriving DecidableEq, Repr

/-- A work command in a window (R195). -/
structure Entry where
  /-- The command with its handles resolved; 07 R187; reset none. -/
  cmd : SCmd
  /-- Iteration of the innermost open loop at decode; 07 R192; reset none. -/
  iter : Nat
  /-- Number of the stream's layer; 09 R242; reset none. -/
  layer : Nat
  /-- In the prologue of its layer; 09 R242; reset none. -/
  prologue : Bool
  /-- Handles read and written; 07 R196; reset none. -/
  reads : List Nat
  writes : List Nat
  phase : Phase := .waiting
  bay : Option Nat := none
  /-- The status that ends it, when it is not to be OK: the first event decides; 04 R122; reset none. -/
  fate : Option Status := none
  /-- Its work is done and its writes have landed; 04 R122; reset false. -/
  ran : Bool := false
  /-- Cards as OK leaves them; 04 R122; reset none. -/
  cards : Tbl Card := []
  /-- Operand cards as they stood at issue, by handle: an in-place command reads its operand by them; 04 R95, R99; reset none. -/
  srcs : Tbl Card := []
  /-- Destination handles; 04 R122; reset none. -/
  dests : List Nat := []
  /-- Key handles whose passes it has still to stream; 03 R92; reset none. -/
  keys : List Nat := []
  level : Nat := 0
  out : Rec := {}
  job : Option Job := none
  /-- Pieces not yet given to an engine, in order, each (bay × 16 + core) × 8 + engine; 02 R69; reset none. -/
  todo : List Nat := []
  /-- Working slots it holds, or the bound slots of its refresh, by slot number; 02 R67, 05 R134; reset none. -/
  work : List Nat := []
  /-- Channel, or a bucket tag, or an arrival that it waits for; 09 R231, 14 R342, 10 R260; reset none. -/
  awaits : Bool := false
deriving DecidableEq, Repr

/-- An open loop (R192). -/
structure Loop where
  /-- Position of the first command of the body: folio address, slot, folio sequence number, folio ordinal. -/
  folio : Nat
  slot : Nat
  seq : W32
  ord : Nat
  /-- Static index of the `loop.begin`, and the ordinal of its folio. -/
  start : Nat
  beginOrd : Nat
  len : Nat
  left : Nat
  iter : Nat
  index : Option Nat
deriving DecidableEq, Repr

/-- Stream states (Table 7.6); a stream that has ended is not listed. -/
inductive SState | running | parked | draining
deriving DecidableEq, Repr

/-- A wait registered for a stream's front (R251). -/
structure FrontWait where
  id : Nat
  cond : Nat
  value : W64
  /-- The home has found it satisfied, and has reported it to the front. -/
  satisfied : Bool
  reported : Bool
deriving DecidableEq, Repr

/-- A stream (R180 to R184). -/
structure Stream where
  /-- Wing of the stream; 07 R180; reset none. -/
  wing : Nat
  /-- Mailbox through which it was started, and that mailbox's epoch; 07 R198; reset none. -/
  port : MPort
  epoch : Nat
  state : SState := .running
  /-- The status that stopped it; 07 R200, R201; reset none. -/
  stop : Option Status := none
  /-- The end record has been handed to the ring; 07 R198; reset false. -/
  ended : Bool := false
  /-- CNT0 to CNT15; 07 R180; reset 0. -/
  cnts : Tbl W64 := []
  /-- FLG0 to FLG7 as a bit map; 07 R180; reset 0. -/
  flgs : Nat := 0
  /-- Address of the current folio; 07 R182; reset none. -/
  folio : Nat
  /-- Sequence number the current folio must carry; 07 R181; reset none. -/
  seq : W32
  /-- Ordinal of the folio in the stream; the model's own; DESIGN CHOICE 0. -/
  ord : Nat := 0
  /-- Next slot of the current folio; 07 R181; reset 0. -/
  slot : Nat := 0
  /-- The current folio has been fetched and checked; 07 R183; reset false. -/
  loaded : Bool := false
  /-- The folios the front keeps, newest first, at most 4; 07 R183; reset empty. -/
  kept : List Nat := []
  /-- Static index of the next command; 07 R193; reset 0. -/
  ix : Nat := 0
  /-- Commands of a skipped body still to pass; 07 R192; reset 0. -/
  skip : Nat := 0
  /-- Open loops, innermost first; 07 R192; reset empty. -/
  loops : List Loop := []
  /-- Releases owed: folio ordinal, sync ID, delta; 07 R183; reset empty. -/
  releases : List (Nat × Nat × Nat) := []
  /-- Folios below this ordinal have met their trailer; 07 R183; reset 0. -/
  released : Nat := 0
  /-- The wait at which decoding is stopped; 10 R251; reset none. -/
  wait : Option FrontWait := none
  /-- Layer count, and whether its prologue is still open; 09 R242; reset 0. -/
  layer : Nat := 0
  prologue : Bool := false
  /-- The window by entry number; 07 R195; reset empty. -/
  window : Tbl Entry := []
  /-- The next entry number; the model's own; DESIGN CHOICE 0. -/
  next : Nat := 0
deriving DecidableEq, Repr

/-- A virtual sync ID's counter (R246, R259): kind 0 counter, 1 barrier arrivals, 2 barrier generation. -/
structure VSync where
  /-- Home code; 10 R245; reset unmapped. -/
  home : Nat
  kind : Nat
  /-- Counter value, or the generation G on the arrivals ID; 10 R244, R259; reset unmapped. -/
  value : W64
  /-- E, A, H and the state of a barrier; 10 R259; reset unmapped. -/
  e : Nat := 0
  a : Nat := 0
  h : Nat := 0
  broken : Bool := false
  /-- Its home was lost while it was mapped; 10 R248; reset unmapped. -/
  lost : Bool := false
deriving DecidableEq, Repr

/-- A watch (R253). -/
structure Watch where
  owed : Owed
  id : Nat
  cond : Nat
  value : W64
  start : Nat
  deadline : Nat
deriving DecidableEq, Repr

/-- Channel states (Table 9.1); a closed channel is not listed. -/
inductive ChState | idle | active | stopping
deriving DecidableEq, Repr

/-- A running chain (R231 to R241), or the transfer of a remote `red.accum` ADD (R337). -/
structure Chain where
  /-- Stream and window entry of the command; 09 R230; reset none. -/
  stream : Nat
  entry : Nat
  /-- The next descriptor to fetch, none at the end; 09 R233; reset none. -/
  desc : Option Nat
  /-- The descriptor in flight: its address and its 64 bytes as fetched; 09 R233; reset none. -/
  flight : Option (Nat × List Byte) := none
  /-- The core whose DM engine runs a core channel's chain; 09 R230; reset none. -/
  core : Option Nat := none
  /-- Bursts of the descriptor in flight that have moved, in walk order; 09 R234, R240; reset 0. -/
  done : Nat := 0
  /-- A source that the descriptor in flight has read was poisoned; 09 Table 9.4; reset false. -/
  tainted : Bool := false
  /-- Destination granules in stacks whose source was poisoned, by address; 09 Table 9.4; reset empty. -/
  bad : List Nat := []
  /-- Slots that the descriptor in flight has still to take, ascending, as slot and mode; 09 R236; reset none. -/
  toTake : List (Nat × Nat) := []
  /-- A `PUT` of the descriptor in flight carries secret data; 09 R236; reset false. -/
  secret : Bool := false
  /-- Chain offset reached; 09 R232; reset 0. -/
  moved : Nat := 0
  /-- Bytes of the merged group that the descriptor in flight belongs to, and its ranges: source, destination, length; 09 R239;
  reset none. -/
  group : List (Nat × Nat × Nat) := []
  mismatches : Nat := 0
  first : Option Nat := none
  /-- How the chain ends, when not OK; 09 R241; reset none. -/
  fault : Option Status := none
  /-- The chain offset of the fault; 09 R232; reset 0. -/
  faultAt : Nat := 0
  /-- Transfer identifier on the port, data flits sent, and whether its signal flit has been handed over; 13 R319; reset none. -/
  transfer : Option Nat := none
  flits : Nat := 0
  signalled : Bool := false
  /-- Granules of the window that the transfer has written, with the chain offset of the first element there; 13 R320, 09 R232; reset
  empty. -/
  sentAt : Tbl Nat := []
deriving DecidableEq, Repr

/-- A DMA channel (R227 to R230). -/
structure Channel where
  ctx : Nat
  /-- Function whose vector it posts: 0 the owner's, n that of VF n; 09 R228; reset closed. -/
  fn : Nat
  bulk : Bool
  /-- Stop mode DESCRIPTOR; 09 R228; reset closed. -/
  byDesc : Bool
  vector : Nat
  port : Option Nat
  window : Nat
  /-- Status address; 09 R228; reset closed. -/
  status : Nat
  state : ChState := .idle
  /-- `stops`; 09 R240 Table 9.3; reset 0. -/
  stops : Nat := 0
  chain : Option Chain := none
  /-- `dm.go` and remote ADD commands that wait at issue, oldest first, as stream and entry; 09 R230; reset empty. -/
  waiting : List (Nat × Nat) := []
  /-- DMA_CHANNEL_STOP commands that wait for the stop record; 09 R240; reset empty. -/
  stopOwed : List Owed := []
deriving DecidableEq, Repr

/-- Bucket states (Table 14.5); a free tag is not listed. -/
inductive BState | filling | accepting | closing | verifying | closed
deriving DecidableEq, Repr

/-- A contribution that has begun (R339): port 0 to 7, window and transfer identifier; for a local ADD port 8, context and entry. -/
structure Contribution where
  port : Nat
  window : Nat
  transfer : Nat
deriving DecidableEq, Repr

/-- A reduction bucket (R333 to R346). -/
structure Bucket where
  ctx : Nat
  state : BState := .filling
  op : Nat
  mean : Bool
  quarantine : Bool
  /-- E; 14 R332; reset free. -/
  expected : Nat
  /-- The deadline tick D and margin G; 14 R335, R332; reset free. -/
  deadline : Nat
  margin : Nat
  vc : Nat
  result : Nat
  alt : Option Nat
  /-- Storage in use, and whether it is the alternate's; 14 R345, R346; reset free. -/
  base : Nat
  inAlt : Bool := false
  /-- B; 14 R334; reset free. -/
  blocks : Nat
  /-- Modulus and chain index of each block's limb, in block order of limbs; 14 R334; reset free. -/
  moduli : List Nat
  openC : List Contribution := []
  torn : Option Status := none
  tornSet : List Contribution := []
  /-- A residue failure at arrival set POISON; 14 R342; reset false. -/
  residue : Bool := false
  /-- The close pass found a mismatch; 14 R340; reset false. -/
  failed : Bool := false
  fpflags : Nat := 0
  steered : Bool := false
  drained : Bool := false
  tainted : Bool := false
  /-- Ended by a failed drain; 14 R346; reset false. -/
  ended : Bool := false
  /-- Ended because its controller's NMA units were disabled; 20 Table 20.11; reset false. -/
  endedNma : Bool := false
  /-- The tick at which the bucket was closed; 14 R335; set by the close pass. -/
  closedAt : Nat := 0
  /-- The close pass has ended with a `COLLECT` aborted; 14 Table 14.6; reset false. -/
  aborted : Bool := false
  /-- The OPEN and COLLECT commands waiting, as stream and entry; 14 R335, R342; reset none. -/
  opener : Option (Nat × Nat) := none
  collector : Option (Nat × Nat) := none
deriving DecidableEq, Repr

/-- A bay's place in its wing (R453). -/
inductive BayKind | enabled | spare | absent
deriving DecidableEq, Repr

/-- A bay: 16 physical cores, a sequencer and LU (R69 to R73, R268 to R275). -/
structure Bay where
  /-- Enabled, spare bay, or absent by grade; 20 R453; reset by grade (DESIGN CHOICE: bays 0 to 19 or 0 to 15 enabled, the next two spare). -/
  kind : BayKind := .enabled
  /-- IDN_BAYGONE: withdrawn; 02 R71, 15 R351; reset 0. -/
  gone : Bool := false
  /-- Cores that passed test, a 16-bit map; 02 R71; DESIGN CHOICE all 16. -/
  good : Nat := 0xFFFF
  /-- IDN_BAYCORES: enabled cores, a 16-bit map; 15 R351; reset C00 to C14 (DESIGN CHOICE: C15 is the spare). -/
  cores : Nat := 0x7FFF
  /-- IDN_BAYLU; 15 R351, 02 R73; reset by grade. -/
  lu : Bool := true
  /-- RDY_BAY bit; 15 R351, 17 R403; reset 0. -/
  ready : Bool := false
  /-- The bay's self-test has ended since the reset; 17 R402; reset false. -/
  tested : Bool := false
  /-- The context the bay works for; 02 R70; reset none. -/
  ctx : Option Nat := none
  /-- The context it served last; 11 R273; DESIGN CHOICE 15, so that context 0 is first. -/
  last : Nat := 15
  /-- w_b in units of 2^-16 G tokens/s; 11 R274, 21 Table 21.2; DESIGN CHOICE 0x1_8000, 1.5 G tokens/s. -/
  weight : Nat := 0x18000
  /-- D_b; 11 R274; DESIGN CHOICE 4. -/
  depth : Nat := 4
  /-- e_b as of the last weight update; 11 R274; reset 15. -/
  eb : Nat := 15
  /-- The placement entry the bay has applied (Table 11.2); 11 R271, R272; reset 0. -/
  entry : W64 := 0
  /-- The bay has not applied its entry of the map in force; 11 R271; reset false. -/
  applying : Bool := false
  /-- Suspect cores with the tick of the mark; 20 R450, R451; reset empty. -/
  suspect : Tbl Nat := []
  /-- Ticks of a core's transients of the last 24 h, by core; 20 R451; reset empty. -/
  trans : Tbl (List Nat) := []
  /-- MX spare lanes in use, as core × 4 + group; 02 R43, 20 R452; DESIGN CHOICE empty. -/
  laneSpares : List Nat := []
  /-- Event counters, bay record words 92 to 96, and the transients of core c (core record word 78) at 128 + c; 21 R467; reset 0. -/
  cnt : Tbl Nat := []
  /-- LU's 256 KiB accumulator store, the words in use; 02 R72, R73; reset none (zeroed). -/
  luStore : List Nat := []
  /-- What the 2 MiB key buffer holds, oldest first: pass and bytes of each block; 03 R90; reset empty. -/
  keyBuf : List (Nat × Nat) := []
  /-- The bay is drained for a self-test; 18 R430; reset false. -/
  drained : Bool := false
deriving DecidableEq, Repr

/-- An engine of a core (R42). -/
structure Eng where
  /-- The piece it works on; 02 R42; reset none. -/
  now : Option Piece := none
  /-- Its queue, at most four pieces, oldest first; 02 R42; reset empty. -/
  queue : List Piece := []
deriving DecidableEq, Repr

/-- An accumulator tile (R44 to R48). -/
structure Tile where
  /-- The command it is assigned to; 02 R44; reset none. -/
  owner : Option Piece := none
  /-- Type tag, set by the first accumulation; 02 R46; reset none. -/
  elem : Option Elem := none
  /-- Limb tag, set by the first accumulation; 02 R46; reset none. -/
  limb : Option Nat := none
  /-- It holds a value derived from a secret card or from the noise stage; 02 R48; reset false. -/
  secret : Bool := false
  /-- Its 16 × 16 words, in the internal form; 02 R44, R45; none listed: all zero; reset zeroed. -/
  words : List Nat := []
deriving DecidableEq, Repr

/-- A bank of a transposer (R49). -/
structure Bank where
  /-- Rows written; 02 R49; reset none. -/
  rows : List (List Nat) := []
  /-- Columns read; 02 R49; reset 0. -/
  read : Nat := 0
deriving DecidableEq, Repr

/-- A Felique core (R41 to R50). -/
structure CoreUnit where
  /-- Its engines by number: MX, NT, PX, VC, DM, SA; 02 R42; reset idle. -/
  engines : Tbl Eng := []
  /-- Tiles AT0 to AT15 by number; 02 R44; reset free and zeroed. -/
  tiles : Tbl Tile := []
  /-- The transposer's banks in use, at most two, oldest first; 02 R49; reset none. -/
  banks : List Bank := []
deriving DecidableEq, Repr

/-- A key pass (R90 to R93). -/
structure Pass where
  /-- Context and handle of the key card. -/
  key : Nat × Nat
  /-- Level of its commands. -/
  level : Nat
  /-- Tick of opening, and the gather window. -/
  opened : Nat
  window : Nat
  /-- Closed to subscription. -/
  closed : Bool
  /-- All four header pages have passed both checks. -/
  checked : Bool
  /-- The header check has been retried. -/
  retried : Bool
  /-- Stored blocks released so far. -/
  next : Nat
  /-- Stored blocks the pass takes, in stream order. -/
  blocks : List Nat
  /-- Subscribers: context, stream, window entry, bay. -/
  subs : List (Nat × Nat × Nat × Nat)
deriving DecidableEq, Repr

/-- A wing: its scheduler's, fabric's and sync unit's state. -/
structure Wing where
  /-- The wing is lost; 11 R276, 20 R455; reset false. -/
  lost : Bool := false
  /-- Fabric and sync unit self-test since the reset; 17 R402; reset none. -/
  fabric : Option Bool := none
  /-- RDY_WING bit; 15 R351, 17 R403; reset 0. -/
  ready : Bool := false
  /-- Ticks of the fabric's suspect marks; 20 R451; reset empty. -/
  suspect : List Nat := []
  /-- Decoding on the wing is stopped for a self-test; 18 R430; reset false. -/
  drained : Bool := false
  /-- Key passes by pass number, at most 8 (R91); 03 R91; reset none. -/
  passes : Tbl Pass := []
  /-- The next pass number; the model's own; DESIGN CHOICE 0. -/
  nextPass : Nat := 0
  /-- Event counters, wing record words 11 to 16; 21 R467; reset 0. -/
  cnt : Tbl Nat := []
  /-- DMA channels open, by number: bulk 0 to 15, core 16 to 79; 09 R228; reset all closed. -/
  chans : Tbl Channel := []
  /-- Issue queue of each context, oldest first, as stream and entry; 11 R273; reset empty. -/
  queues : Tbl (List (Nat × Nat)) := []
  /-- The commands that its bays run, in the order of their issue; 02 R42; reset none. -/
  order : List Piece := []
deriving DecidableEq, Repr

/-- A row's tally of corrected symbols (R293): the row key and the ticks of its last two corrections. -/
structure Tally where
  row : Nat
  times : List Nat
deriving DecidableEq, Repr

/-- A reshelving entry of a row (R294, R295). -/
structure Shelf where
  spare : Nat
  count : Nat
  hard : Bool
  /-- Durable in the ledger. -/
  recorded : Bool
deriving DecidableEq, Repr

/-- A stack and its controller (R278 to R304). -/
structure Stack where
  /-- IDN_STEP, thermal step 0 to 5; 12 R298; reset 0. -/
  step : Nat := 0
  /-- Last temperature, °C; 12 R298; DESIGN CHOICE 25. -/
  temp : Int := 25
  /-- Temperature at the last training; 12 R303; DESIGN CHOICE 25. -/
  trainTemp : Int := 25
  /-- IDN_STACKLOST; 12 R301, R302; reset 0. -/
  lost : Bool := false
  /-- IDN_DEGRADED; 12 R292; reset 0. -/
  degraded : Bool := false
  /-- RDY_STACK bit; 15 R351, 12 R300; reset 0. -/
  ready : Bool := false
  /-- The RDY_STACK bit has been set since the reset: the stack's DPAs are populated; 17 R404; reset false. -/
  seen : Bool := false
  /-- The drain of R300 runs; 12 R300; reset false. -/
  draining : Bool := false
  /-- The stack is in self-refresh; 12 R300; reset false. -/
  selfRefresh : Bool := false
  /-- Reorder queues by pseudo-channel, oldest first, at most 32 entries, each with the tick of its entry; 12 R281; reset empty. -/
  queues : Tbl (List (MemReq × Nat)) := []
  /-- Open row of each bank, by pseudo-channel × 16 + bank; 12 R281; reset none. -/
  openRows : Tbl Nat := []
  /-- Row tallies by pseudo-channel, least recently used first, at most 64; 12 R293; reset empty. -/
  tallies : Tbl (List Tally) := []
  /-- Rows that have failed and wait for their remap; 12 R293, R294; reset empty. -/
  failing : List Nat := []
  /-- Granules poisoned by detection, by granule number, with the blocks rewritten since; 12 R285, R293; reset empty. -/
  detected : Tbl Nat := []
  /-- Pages with an event of R287: tick and merged count; 12 R287; reset empty. -/
  pageEvents : Tbl (Nat × Nat) := []
  /-- Remap and hard-repair entries by row key; 12 R294, R295; reset as the ledger holds them. -/
  shelves : Tbl Shelf := []
  /-- Failure counts of rows with no entry, by row key (kept across resets); 12 R295; DESIGN CHOICE 0. -/
  rowFails : Tbl Nat := []
  /-- Hard repairs performed over the stack's life, by pseudo-channel (kept across resets); 12 R297; DESIGN CHOICE 0. -/
  hardDone : Tbl Nat := []
  /-- Weeded pages in force; 12 R289, R291; reset from the ledger. -/
  weeded : List Nat := []
  /-- Consecutive failed retraining slices by pseudo-channel; 12 R303; reset 0. -/
  retrain : Tbl Nat := []
  /-- Ticks of NMA suspect marks; 20 R451; reset empty. -/
  nmaSuspect : List Nat := []
  /-- The controller's NMA units are disabled; 20 R451; reset false. -/
  nmaOff : Bool := false
  /-- Event counters, stack record words; 21 R467; reset 0. -/
  cnt : Tbl Nat := []
  /-- Data of the last read served, and whether it returned poison; 12 R281, R285; DESIGN CHOICE empty. -/
  out : List Byte := []
  outPoison : Bool := false
  /-- Tick of the last served request; 18 R430 Table 18.6; reset none. -/
  served : Option Nat := none
  /-- New requests are held for a self-test; 18 R430; reset false. -/
  drained : Bool := false
deriving DecidableEq, Repr

/-- A running SELF_TEST (R430). -/
structure Test where
  cls : Nat
  idx : Nat
  owed : Owed
  /-- The drain has ended and the test itself runs. -/
  testing : Bool
  /-- `QUIESCE` was set: spares may be brought in (R71, R453). -/
  quiesce : Bool := false
deriving DecidableEq, Repr

/-- A carrel slot's tag and its requests (R64, R65). -/
structure Slot where
  /-- Full; 02 R64; reset empty. -/
  full : Bool := false
  /-- Reader count; 02 R64; reset 0. -/
  n : Nat := 0
  /-- Secret bit; 02 R65; reset 0. -/
  secret : Bool := false
  /-- Accesses granted and not ended; 02 R64; reset none. -/
  granted : List SlotReq := []
  /-- Stalled requests, oldest first; 02 R64; reset none. -/
  waiting : List SlotReq := []
deriving DecidableEq, Repr

/-- A secret region (R165). -/
structure Region where
  base : Nat
  len : Nat
deriving DecidableEq, Repr

/-- An entry of a keyset manifest (R393). -/
structure ManEntry where
  accession : Nat
  kind : Nat
  index : Nat
  aux : Nat
  digest : List Byte
deriving DecidableEq, Repr

/-- The manifest in force (R393). -/
structure Manifest where
  serial : Nat
  digest : List Byte
  entries : List ManEntry
deriving DecidableEq, Repr

/-- A sealed image in progress (R391): handle, total, and the plaintext so far. -/
structure Sealing where
  handle : Nat
  total : Nat
  data : List Byte
deriving DecidableEq, Repr

/-- A tenant session (R388 to R392). -/
structure Session where
  transcript : List Byte
  sealKey : List Byte
  manKey : List Byte
  lastSeq : Nat
  part : Option Sealing
deriving DecidableEq, Repr

/-- A DRBG instance of a context on a wing (R168). -/
structure Drbg where
  seed : Nat
  requests : Nat
  since : Nat
deriving DecidableEq, Repr

/-- A context (R172, R368). -/
structure Ctx where
  /-- The VF it is bound to; 15 R368; reset none. -/
  vf : Option Nat := none
  /-- The context is being wiped; 06 R171; reset false. -/
  wiping : Bool := false
  /-- The CONTEXT_DESTROY that the wipe completes, or none for a function-level reset; 06 R171; reset none. -/
  wipeOwed : Option Owed := none
  /-- The tenant session; 16 R388; reset none. -/
  session : Option Session := none
  /-- Sessions opened so far; 16 R388 Table 16.8; reset 0. -/
  sessions : Nat := 0
  /-- The manifest in force; 16 R393; reset none. -/
  manifest : Option Manifest := none
  /-- The XTS key's identity, a draw; 06 R166; drawn at creation. -/
  xts : Nat := 0
  /-- DRBG instances by wing; 06 R168; drawn at creation. -/
  drbg : Tbl Drbg := []
  /-- Secret regions, at most 64; 06 R165; reset none. -/
  regions : List Region := []
  /-- NOISE_MODE; 15 R369 Table 15.13; reset 0. -/
  noiseWorst : Bool := false
  /-- MESSAGE_BOUND b_m; 15 R369 Table 15.13; reset 0. -/
  bm : Nat := 0
  /-- AUTO_REFRESH; 15 R369 Table 15.13; reset 0. -/
  autoRefresh : Bool := false
  /-- KEY_GATHER_WINDOW; 15 R369 Table 15.13; reset 2,000. -/
  gather : Nat := 2000
  /-- SHARE_PARTY; 15 R369 Table 15.13; reset 1. -/
  party : Nat := 1
  /-- The catalogue's entries that are not EMPTY, by handle; 07 R172; reset all EMPTY. -/
  cards : Tbl Card := []
  /-- Parameter sets by identifier, at most 32; 01 R13; reset none. -/
  sets : Tbl ParamSet := []
  /-- Refresh plans by identifier, at most 8; 05 R125; reset none. -/
  plans : Tbl Plan := []
  /-- Streams by number; 07 R180; reset none. -/
  streams : Tbl Stream := []
  /-- Virtual sync IDs that are mapped; 10 R246; reset all unmapped. -/
  sync : Tbl VSync := []
  /-- Watches, oldest first; 10 R253; reset none. -/
  watches : List Watch := []
  /-- SECRET_REGION_CLOSE and wipe zero-fills in progress; 06 R165, R171; reset none. -/
  filling : List (Region × Option Owed) := []
deriving DecidableEq, Repr

/-- A port's training state (Table 13.3), in the order of IDN_PSTATE. -/
inductive PState | off | detect | equalise | identify | frame | init | active | recover | failed
deriving DecidableEq, Repr

/-- A loan window (R325, Table 13.11). -/
structure Window where
  ctx : Nat
  /-- Bits 0 to 3: WRITE, FETCH, ACCUM, SIGNAL. -/
  rights : Nat
  /-- Reader count of a carrel window that writes with PUT, 0 for RAW. -/
  put : Nat
  party : Nat
  base : Nat
  len : Nat
  sigFirst : Nat
  sigCount : Nat
deriving DecidableEq, Repr

/-- A pending tally (R257): packets written so far, and the signal's count, index and delta once it has arrived. -/
structure Arrival where
  window : Nat
  transfer : Nat
  /-- Tick of its first packet. -/
  since : Nat
  got : Nat
  want : Option (Nat × Nat × Nat)
deriving DecidableEq, Repr

/-- A held MASK (R318): the sequence number of the WRITE that must follow, and the 256-bit mask. -/
structure HeldMask where
  window : Nat
  transfer : Nat
  index : Nat
  seq : Nat
  mask : Nat
deriving DecidableEq, Repr

/-- A held ACCH group (R318): the sequence number of the next ACCUM, and the descriptors left, 16 bytes each. -/
structure HeldAcch where
  window : Nat
  transfer : Nat
  seq : Nat
  descs : List (List Byte)
deriving DecidableEq, Repr

/-- A lane marker as received on a physical lane (R308, Table 13.2), with the tick of its arrival. -/
structure Marker where
  logical : Nat
  superframe : Nat
  party : Nat
  depart : Nat
  holdover : Bool
  arrive : Nat
deriving DecidableEq, Repr

/-- The FFE taps of one transmitter (R307), in steps from its preset. -/
structure Ffe where
  pre2 : Int := 0
  pre1 : Int := 0
  post1 : Int := 0
deriving DecidableEq, Repr

/-- A Golat port. -/
structure Port where
  /-- IDN_PRESENT; 15 R351; reset by grade. -/
  present : Bool := true
  /-- IDN_PORTLOST; 20 R456; reset 0. -/
  lost : Bool := false
  /-- IDN_ROLE: 0 OFF, 1 PEER, 2 BRIDGE; 13 R322; reset 0. -/
  role : Nat := 0
  /-- IDN_PSTATE; 13 R310; reset OFF. -/
  st : PState := .off
  /-- Time mode: 0 NONE, 1 FOLLOW, 2 SERVE; 13 R322; reset 0 (DESIGN CHOICE: the role is OFF). -/
  timeMode : Nat := 0
  /-- Stamp forwarding; 13 R322; reset off (DESIGN CHOICE: the role is OFF). -/
  forward : Bool := false
  /-- Local party identity; 13 R322, R323; reset 0 (DESIGN CHOICE: not configured). -/
  localParty : Nat := 0
  /-- Expected partner identity, 0 for any; 13 R322; reset 0 (DESIGN CHOICE: not configured). -/
  expected : Nat := 0
  /-- Party that the partner announces, 0 before it trains; 13 R310, R323; reset 0. -/
  partner : Nat := 0
  /-- Role that the partner announces; 13 R310 Table 13.4; reset 0. -/
  partnerRole : Nat := 0
  /-- Physical lanes of logical lanes, transmit; 13 R313; reset none. -/
  txMap : List Nat := []
  /-- Physical lanes of logical lanes, receive; 13 R313; reset none. -/
  rxMap : List Nat := []
  /-- IDN_TXSPARE; 13 R313; reset 0. -/
  txSpare : Bool := false
  /-- IDN_RXSPARE; 13 R313; reset 0. -/
  rxSpare : Bool := false
  /-- Physical lanes of the spares; 13 R311; DESIGN CHOICE 0, read only with a spare. -/
  txSpareLane : Nat := 0
  rxSpareLane : Nat := 0
  /-- FFE taps of the transmitters by physical lane; 13 R307; DESIGN CHOICE preset (the spec states no value before training). -/
  ffe : Tbl Ffe := []
  /-- Attempts in a row that left training for FAILED with fewer than 9 good lanes; 20 R456; reset 0. -/
  fewLanes : Nat := 0
  /-- Loan windows by number; 13 R325; reset none. -/
  windows : Tbl Window := []
  /-- Sequence number of the next flit sent, and of the next expected; 13 R314, R316; DESIGN CHOICE 0 at each training. -/
  txSeq : Nat := 0
  rxSeq : Nat := 0
  /-- Accepted flits in the receive buffer, in sequence order; 13 R315, R316; reset empty. -/
  rx : List Flit := []
  /-- Flits that wait for a credit of their class, oldest first; 13 R315; reset empty. -/
  queue : List Flit := []
  /-- The retry buffer: unacknowledged flits in order, with the times each was resent; 13 R316; reset empty. -/
  sent : List (Flit × Nat) := []
  /-- Credits held by class; 13 R315; reset 0. -/
  credits : Tbl Nat := []
  /-- Credits to return by class; 13 R315; reset 0. -/
  due : Tbl Nat := []
  /-- RETRY is outstanding for the expected flit; 13 R316; reset false. -/
  retrying : Bool := false
  /-- LANE_SWAP is outstanding: its lane byte; 13 R313, R317; reset none. -/
  swapping : Option Nat := none
  /-- Flits put in slots since the port last trained, oldest first, 272 bytes each; the model's own; DESIGN CHOICE empty. -/
  out : List (List Byte) := []
  /-- Pending tallies, at most 256; 13 R319, 10 R257; reset none. -/
  tallies : List Arrival := []
  /-- The held MASK; 13 R318; reset none. -/
  mask : Option HeldMask := none
  /-- The held ACCH group; 13 R318; reset none. -/
  acch : Option HeldAcch := none
  /-- Refused transfers whose flits are discarded: window, transfer; 13 R320; reset none. -/
  refused : List (Nat × Nat) := []
  /-- The tick of each refusal, by window × 65,536 + transfer; 13 R320; reset none. -/
  refusedAt : Tbl Nat := []
  /-- The tick at which the port last entered FAILED; 13 R310 Table 13.3; reset 0, read only in FAILED. -/
  failedAt : Nat := 0
  /-- PUT accesses of carrel windows in progress: window, transfer, slot; 13 R321, 02 R64; reset none. -/
  puts : List (Nat × Nat × Nat) := []
  /-- The next transfer identifier; 13 R319; DESIGN CHOICE 0. -/
  nextTransfer : Nat := 0
  /-- Identifiers used, by the tick of their last flit, until R319 lets them go; 13 R319; reset none. -/
  ids : Tbl Nat := []
  /-- Lane markers received, by physical lane; 13 R308; reset none. -/
  markers : Tbl Marker := []
  /-- The partner's last TIME report: superframe and arrival tick; 13 R328; reset none. -/
  report : Option (Nat × Nat) := none
  /-- The time exchange has stopped; 13 R328; reset false. -/
  timeStopped : Bool := false
  /-- Event counters, port record words (those that no tick drives); 21 R467 Table 21.2; reset 0. -/
  cnt : Tbl Nat := []
deriving DecidableEq, Repr

/-- The grade (R2). -/
inductive Grade | ax | bx
deriving DecidableEq, Repr

/-- The placement map in force (R269 to R271). -/
structure Placement where
  /-- Epoch in force; 11 R269 Table 11.1; reset 0. -/
  epoch : Nat := 0
  /-- FIXED; 11 R269 Table 11.1; reset 0. -/
  fixed : Bool := false
  /-- The 88 bay entries; 11 R269 Table 11.2, R272; reset 0. -/
  entries : Tbl W64 := []
  /-- The PLACEMENT_LOAD that waits until every bay has applied its entry; 11 R271; reset none. -/
  owed : Option Owed := none
deriving DecidableEq, Repr

/-- The state of the module. -/
structure State where
  /-- The grade; 00 R2; DESIGN CHOICE AX. -/
  grade : Grade := .ax
  /-- Supply, contacts, maintenance port. -/
  power : Power := {}
  /-- The timebase. -/
  time : Time := {}
  /-- Host-port outputs and interrupt registers. -/
  host : HostPort := {}
  /-- Mailboxes: 0 the owner's, n that of VF n; 15 R354; reset each as reset. -/
  mbx : Tbl Mailbox := []
  /-- The event block. -/
  evt : Events := {}
  /-- The control complex. -/
  hex : Hexset := {}
  /-- The ledger. -/
  ledger : Ledger := {}
  /-- Stamp, snapshot and trace. -/
  stamps : Stamps := {}
  /-- Wings W0 to W3. -/
  wings : Tbl Wing := []
  /-- Bays, numbered w × 22 + b. -/
  bays : Tbl Bay := []
  /-- Cores by number (w × 22 + b) × 16 + c, those that are not idle and clear; 02 R41; reset none. -/
  cores : Tbl CoreUnit := []
  /-- Stacks S0 to S15. -/
  stks : Tbl Stack := []
  /-- Golat ports G0 to G7. -/
  ports : Tbl Port := []
  /-- Contexts by number. -/
  ctxs : Tbl Ctx := []
  /-- The placement map. -/
  map : Placement := {}
  /-- Self-tests that run; 18 R430; reset none. -/
  tests : List Test := []
  /-- Ticks of the crossbar's suspect marks; 20 R450, R451; reset empty. -/
  xbSuspect : List Nat := []
  /-- Sync planes failed on a path, as plane and path; 20 R454; reset empty. -/
  planes : List (Nat × Nat) := []
  /-- Time counters by unit and state: engines, stream fronts, stacks, ports; 21 R464 to R467; reset 0. -/
  ticks : Tbl Nat := []
  /-- Carrel slots whose tag is not at reset, by (bay × 16 + core) × 96 + slot; 02 R64, R68; reset empty. -/
  slots : Tbl Slot := []
  /-- Device memory, stacks and carrels: nonzero bytes by DPA, addresses rising; 12 R279, 02 R60; reset nothing listed (all zero). -/
  mem : List Host.Cell := []
  /-- Buckets by tag; 14 R333; reset all FREE. -/
  buckets : Tbl Bucket := []
  /-- Tags in the hold after a close, with the tick 10 ms after it; 14 R335; reset none. -/
  tagHolds : Tbl Nat := []
  /-- OPEN commands that wait for a tag hold to end, oldest first: tag, context, stream, entry; 14 R335; reset none. -/
  tagWaits : List (Nat × Nat × Nat × Nat) := []
  /-- Zero-fills of wiped contexts' regions, which no card is assigned to; 06 R171; reset none. -/
  fills : List Region := []
  /-- Poisoned 64-byte blocks, block numbers rising; 12 R285; reset none. -/
  poison : List Nat := []
  /-- The model's own: writes of the step in progress, newest first; empty between steps. DESIGN CHOICE empty. -/
  stores : List Store := []
  /-- The model's own: counts the free values drawn; DESIGN CHOICE 0. -/
  draw : Nat := 0
  /-- Commands that wait, first in, first out; reset empty. -/
  pending : List Instr := []
deriving DecidableEq, Repr

/-- Why the module stops. -/
inductive Fault
  /-- A feed is driven beyond the absolute maximum ratings (R484, Table 22.3: 64 V), where the spec specifies no operation.
  Raised by FEED_PRESENT and FEED_LOST. Safe: the model stops where the module may go on or be damaged. -/
  | stressBeyondRatings
deriving DecidableEq, Repr

/-- Why a command has no meaning. -/
inductive Refusal
  /-- The command has no meaning yet. Safe. -/
  | notModelled (mnemonic : String)
deriving DecidableEq, Repr

/-- Enabled bays per wing (Table 0.1). -/
def Grade.bays : Grade → Nat
  | .ax => 20
  | .bx => 16

/-- Ports of a grade (Table 0.1). -/
def Grade.ports : Grade → Nat
  | .ax => 8
  | .bx => 6

/-- A bay by grade, unpowered (R453). -/
def Bay.ofGrade (g : Grade) (i : Nat) : Bay :=
  let b := i % 22
  if b < g.bays then { lu := g == .ax }
  else if b < g.bays + 2 then { kind := .spare, cores := 0, lu := g == .ax }
  else { kind := .absent, cores := 0, good := 0, lu := false }

/-- A module of a grade before any feed is in range: every register at its reset value. The grade is fixed by the part's fuses (R2). -/
def State.resetOf (g : Grade) : State :=
  { grade := g
    mbx := (List.range 17).map fun n => (n, {})
    power := { domains := (List.range 80).map fun n => (n, {}) }
    wings := (List.range 4).map fun w => (w, {})
    bays := (List.range 88).map fun i => (i, Bay.ofGrade g i)
    stks := (List.range 16).map fun i => (i, {})
    ports := (List.range 8).map fun p => (p, { present := decide (p < g.ports) }) }

/-- The module before any feed is in range, of grade AX (DESIGN CHOICE, assumption log 4). -/
def State.reset : State := .resetOf .ax

end Sys2Proof.Machine
end

