-- ==== Sys2Proof/Machine/Ops.lean ====
section
/-! DEFINITION. The named operations over the state that the meanings share: memory, views of the status registers,
events, interrupts, completions, ledger records, and the commit that ends every step. -/

namespace Sys2Proof.Machine

/-! Bytes and codes -/

/-- One CRC-32C step of a byte, reflected (R34). -/
def crcByte (c : Nat) (b : Byte) : Nat :=
  (List.range 8).foldl (fun c _ => if c % 2 = 1 then (c / 2) ^^^ 0x82F63B78 else c / 2) (c ^^^ b.toNat)

/-- CRC-32C (R34). -/
def crc32c (bs : List Byte) : Nat := (bs.foldl crcByte 0xFFFFFFFF) ^^^ 0xFFFFFFFF

/-- A byte of a number. -/
def b8 (n : Nat) : Byte := BitVec.ofNat 8 n

/-- Bytes padded with zeros to a length, or cut to it. -/
def fit (n : Nat) (bs : List Byte) : List Byte := bs.take n ++ zeros (n - bs.length)

/-- A list with the bytes at an offset replaced. -/
def splice (bs : List Byte) (off : Nat) (v : List Byte) : List Byte :=
  bs.take off ++ v ++ bs.drop (off + v.length)

/-- Number of set bits among the low `n`. -/
def popcount (n v : Nat) : Nat := (List.range n).countP (fun i => v.testBit i)

/-- A bit map of a predicate over `n` positions. -/
def bitmap (n : Nat) (p : Nat → Bool) : Nat :=
  ((List.range n).map (fun i => if p i then 2 ^ i else 0)).sum

/-- Two's-complement byte width `n` of an integer. -/
def intBytes (n : Nat) (v : Int) : List Byte := leBytes n (v % (2 ^ (8 * n) : Int)).toNat

/-! Parts of the state -/

def State.mb (s : State) (n : Nat) : Mailbox := s.mbx.getD n {}
def State.setMb (s : State) (n : Nat) (m : Mailbox) : State := { s with mbx := s.mbx.put n m }
def State.wing (s : State) (w : Nat) : Wing := s.wings.getD w {}
def State.setWing (s : State) (w : Nat) (x : Wing) : State := { s with wings := s.wings.put w x }
def State.bay (s : State) (i : Nat) : Bay := s.bays.getD i {}
def State.setBay (s : State) (i : Nat) (x : Bay) : State := { s with bays := s.bays.put i x }
def State.stk (s : State) (i : Nat) : Stack := s.stks.getD i {}
def State.setStk (s : State) (i : Nat) (x : Stack) : State := { s with stks := s.stks.put i x }
def State.port (s : State) (p : Nat) : Port := s.ports.getD p {}
def State.setPort (s : State) (p : Nat) (x : Port) : State := { s with ports := s.ports.put p x }
def State.dom (s : State) (d : Nat) : Domain := s.power.domains.getD d {}
def State.setDom (s : State) (d : Nat) (x : Domain) : State :=
  { s with power := { s.power with domains := s.power.domains.put d x } }

def State.ctx (s : State) (c : Nat) : Ctx := s.ctxs.getD c {}
def State.setCtx (s : State) (c : Nat) (x : Ctx) : State := { s with ctxs := s.ctxs.mod c (fun _ => x) }
def State.stream (s : State) (c n : Nat) : Option Stream := (s.ctx c).streams.get n
def State.setStream (s : State) (c n : Nat) (x : Stream) : State :=
  s.setCtx c { s.ctx c with streams := (s.ctx c).streams.mod n (fun _ => x) }
def State.entry (s : State) (c n k : Nat) : Option Entry := (s.stream c n).bind (fun x => x.window.get k)
def State.setEntry (s : State) (c n k : Nat) (e : Entry) : State :=
  match s.stream c n with
  | some x => s.setStream c n { x with window := x.window.mod k (fun _ => e) }
  | none => s
def State.card (s : State) (c h : Nat) : Option Card := (s.ctx c).cards.get h
def State.setCard (s : State) (c h : Nat) (x : Card) : State :=
  s.setCtx c { s.ctx c with cards := (s.ctx c).cards.put h x }
def State.bucket (s : State) (t : Nat) : Option Bucket := s.buckets.get t
def State.setBucket (s : State) (t : Nat) (b : Bucket) : State := { s with buckets := s.buckets.mod t (fun _ => b) }
def State.chan (s : State) (w ch : Nat) : Option Channel := (s.wing w).chans.get ch
def State.setChan (s : State) (w ch : Nat) (x : Channel) : State :=
  s.setWing w { s.wing w with chans := (s.wing w).chans.mod ch (fun _ => x) }

/-- An event counter counts (R467). -/
def bumpCnt (t : Tbl Nat) (j n : Nat) : Tbl Nat := t.put j ((t.getD j 0 + n) % 2 ^ 64)
def State.tallyBay (s : State) (i j : Nat) : State := s.setBay i { s.bay i with cnt := bumpCnt (s.bay i).cnt j 1 }
def State.tallyWing (s : State) (w j : Nat) : State := s.setWing w { s.wing w with cnt := bumpCnt (s.wing w).cnt j 1 }
def Port.tally (x : Port) (j : Nat) : Port := { x with cnt := bumpCnt x.cnt j 1 }

/-! Time counters (R464 to R467) -/

/-- Units that count ticks: an engine of a core (LU's is that of the bay's first core), a bay's enabled cores, a wing's stream fronts, its
window occupancy, the module, a stack, a port. -/
def engineUnit (core j : Nat) : Nat := core * 8 + j
def bayUnit (i : Nat) : Nat := 12000 + i
def frontUnit (w : Nat) : Nat := 12100 + w
def windowUnit (w : Nat) : Nat := 12110 + w
def moduleUnit : Nat := 12120
def stackUnit (k : Nat) : Nat := 12200 + k
def portUnit (p : Nat) : Nat := 12300 + p
/-- A unit's state counts ticks: for an engine 0 busy, 1 + r stalled for reason r. -/
def countTicks (t : Tbl Nat) (unit st n : Nat) : Tbl Nat := if n = 0 then t else t.put (unit * 16 + st) (t.getD (unit * 16 + st) 0 + n)
def State.ticksOf (s : State) (unit st : Nat) : Nat := s.ticks.getD (unit * 16 + st) 0
/-- Ticks in which an engine was not idle. -/
def State.ticksHeld (s : State) (unit : Nat) : Nat := ((List.range 12).map (s.ticksOf unit)).sum

/-- The mailbox number of a port: 0 the owner's, n that of VF n. -/
def portIx : MPort → Nat
  | .owner => 0
  | .vf n => n

/-! Memory: reading, storing, poison -/

/-- Memory is well formed: addresses rise strictly and no listed byte is zero, which is what an unlisted byte reads as. -/
def Memory.wf (m : List Host.Cell) : Bool := decide ((m.map Prod.fst).Pairwise (· < ·)) && m.all (fun c => c.2 != 0)

/-- The byte at an address. -/
def Memory.get (m : List Host.Cell) (a : Nat) : Byte := Tbl.getD m a 0

/-- The listed cells of bytes from an address. -/
def Memory.cells (a : Nat) : List Byte → List Host.Cell
  | [] => []
  | b :: bs => if b = 0 then Memory.cells (a + 1) bs else (a, b) :: Memory.cells (a + 1) bs

/-- Memory with bytes and then a run of zeros written from an address, in canonical form. -/
def Memory.write (m : List Host.Cell) (a : Nat) (bs : List Byte) (run : Nat) : List Host.Cell :=
  let e := a + bs.length + run
  m.filter (fun c => c.1 < a) ++ Memory.cells a bs ++ m.filter (fun c => e ≤ c.1)

/-- Memory after the writes of a step, newest first in the list. -/
def Memory.apply (m : List Host.Cell) (ws : List Store) : List Host.Cell :=
  ws.foldr (fun w m => Memory.write m w.addr w.data w.run) m

/-- The newest write of the step in progress that covers an address. -/
def storeByte (ws : List Store) (a : Nat) : Option Byte :=
  match ws with
  | [] => none
  | w :: r => if w.addr ≤ a ∧ a < w.addr + w.data.length + w.run then some (w.data.getD (a - w.addr) 0) else storeByte r a

/-- The byte of device memory at a DPA. -/
def State.byte (s : State) (a : Nat) : Byte := (storeByte s.stores a).getD (Memory.get s.mem a)

/-- Bytes of device memory from a DPA. -/
def State.bytes (s : State) (a n : Nat) : List Byte := (List.range n).map (fun i => s.byte (a + i))

/-- Little-endian number of `n` bytes at a DPA. -/
def State.num (s : State) (a n : Nat) : Nat := leNat (s.bytes a n)

/-- A store of bytes as they stand. -/
def State.store (s : State) (a : Nat) (bs : List Byte) : State :=
  if bs.isEmpty then s else { s with stores := { addr := a, data := bs, run := 0 } :: s.stores }

/-- A range becomes zero. -/
def State.clear (s : State) (a n : Nat) : State :=
  if n = 0 then s else { s with stores := { addr := a, data := [], run := n } :: s.stores }

/-- The 64-byte blocks that a range touches. -/
def blocksOf (a n : Nat) : List Nat := if n = 0 then [] else (List.range ((a + n - 1) / 64 + 1 - a / 64)).map (· + a / 64)

/-- A range holds poison (R285: a read of a poisoned block). -/
def State.poisoned (s : State) (a n : Nat) : Bool :=
  s.poison.any (fun b => decide (64 * b < a + n ∧ a < 64 * b + 64 ∧ 0 < n))

/-- A number put into a rising list, once. -/
def insertBlock : List Nat → Nat → List Nat
  | [], b => [b]
  | a :: r, b => if b < a then b :: a :: r else if b = a then a :: r else a :: insertBlock r b
/-- Blocks added to the poison list, kept rising. -/
def addBlocks (l bs : List Nat) : List Nat := bs.foldl insertBlock l

/-- The granule of a DPA becomes poisoned (R284). -/
def State.poisonRange (s : State) (a n : Nat) : State := { s with poison := addBlocks s.poison (blocksOf a n) }

/-- Stack, pseudo-channel, bank, row of a DPA (R280). -/
def dpaStack (a : Nat) : Nat := bits a 36 4
def dpaPc (a : Nat) : Nat := (bits a 8 6) ^^^ (bits a 16 6)
def dpaBank (a : Nat) : Nat := bits a 16 4
def dpaRow (a : Nat) : Nat := bits a 20 16

/-- A row's key within its stack. -/
def rowKey (pc bank row : Nat) : Nat := pc * 2 ^ 20 + bank * 2 ^ 16 + row

/-- The DPA of chunk `k` of a row (the inverse of R280). -/
def rowDpa (st pc bank row k : Nat) : Nat :=
  let low := row % 4 * 16 + bank
  st * 2 ^ 36 + row * 2 ^ 20 + bank * 2 ^ 16 + k * 2 ^ 14 + (pc ^^^ (low % 64)) * 2 ^ 8

/-- A row fails and waits for its remap (R293). -/
def State.rowFails (s : State) (st key : Nat) : State :=
  let k := s.stk st
  if k.failing.contains key then s else s.setStk st { k with failing := k.failing ++ [key] }

/-- Granules whose detected poison has been rewritten whole: their rows fail as repaired uncorrectables (R285, R293). -/
def State.repaired (s : State) (a n : Nat) : State :=
  let st := dpaStack a
  let k := s.stk st
  let gone := k.detected.filter (fun g => decide (a / 256 ≤ g.1 ∧ 256 * g.1 < a + n) && !s.poisoned (256 * g.1) 256)
  gone.foldl (fun s g =>
    let k := s.stk st
    (s.setStk st { k with detected := k.detected.del g.1 }).rowFails st
      (rowKey (dpaPc (256 * g.1)) (dpaBank (256 * g.1)) (dpaRow (256 * g.1)))) s

/-- One piece of a write within a 64-byte block (R283, R285): a whole block replaces poison, a part of a poisoned block
writes nothing. -/
def State.writeBlock (s : State) (a : Nat) (bs : List Byte) : State :=
  if s.poison.contains (a / 64) then
    if bs.length = 64 then { s.store a bs with poison := s.poison.filter (· != a / 64) } else s
  else s.store a bs

/-- The pieces of a write by 64-byte block. -/
def splitBlocks (fuel a : Nat) (bs : List Byte) : List (Nat × List Byte) :=
  match fuel with
  | 0 => []
  | f + 1 =>
    if bs.isEmpty then [] else
      let n := 64 - a % 64
      (a, bs.take n) :: splitBlocks f (a + n) (bs.drop n)

/-- A write to device memory (R283, R285). -/
def State.write (s : State) (a : Nat) (bs : List Byte) : State :=
  if s.poisoned a bs.length then
    ((splitBlocks (bs.length / 64 + 2) a bs).foldl (fun s p => s.writeBlock p.1 p.2) s).repaired a bs.length
  else s.store a bs

/-- Words of a key's extents, past their header pages, that a write changes (R86). -/
def State.changedWords (s : State) (a : Nat) (bs : List Byte) (cd : Card) : List Nat :=
  if cd.kind == .key then (cd.extents.zip cd.pages).flatMap (fun e =>
    let lo := max a (e.1 + 0x10000)
    let hi := min (a + bs.length) (e.1 + e.2 * 65536)
    if hi ≤ lo then [] else
      ((List.range ((hi - 1) / 8 + 1 - lo / 8)).map (· + lo / 8)).filter (fun w =>
        let x := max lo (8 * w)
        let n := min hi (8 * w + 8) - x
        s.bytes x n != (bs.drop (x - a)).take n))
  else []
/-- A write other than the module's own (DMA, host, loan window): a key keeps the numbers of the stored words that it changes (R86). -/
def State.outWrite (s : State) (a : Nat) (bs : List Byte) : State :=
  let s1 : State :=
    if s.ctxs.any (fun c => c.2.cards.any (fun h => !(s.changedWords a bs h.2).isEmpty)) then
      { s with ctxs := s.ctxs.map (fun c => (c.1, { c.2 with
          cards := c.2.cards.map (fun h => (h.1, { h.2 with altered := addBlocks h.2.altered (s.changedWords a bs h.2) })) })) }
    else s
  s1.write a bs

/-- A range touches memory whose zero-fill runs: a closed secret region's (R165), or a wiped context's (R171). -/
def State.zeroing (s : State) (a n : Nat) : Bool :=
  let hit (r : Region) : Bool := decide (r.base < a + n ∧ a < r.base + r.len ∧ 0 < n)
  s.ctxs.any (fun x => x.2.filling.any (fun f => hit f.1)) || s.fills.any hit

/-- A write that carries poison, by 64-byte block (R285). -/
def State.writePoison (s : State) (a n : Nat) : State := s.poisonRange a n

/-- Address limit of a stack's populated offsets (R279). -/
def Grade.stackBytes : Grade → Nat
  | .ax => 0xC_0000_0000
  | .bx => 0x9_0000_0000

/-- First and last DPA of the carrel windows (R60). -/
def carrelBase : Nat := 0x100_0000_0000
def carrelEnd : Nat := 0x100_2C00_0000

/-- Bay and core of a carrel DPA. -/
def carrelBay (a : Nat) : Nat := (a - carrelBase) / 0x80000 / 16
def carrelCore (a : Nat) : Nat := (a - carrelBase) / 0x80000 % 16
def carrelSlot (a : Nat) : Nat := (a - carrelBase) % 0x80000 / 0x1000
def isCarrel (a : Nat) : Bool := decide (carrelBase ≤ a ∧ a < carrelEnd)

/-- A bay serves: enabled, ready, not withdrawn. -/
def State.bayUp (s : State) (i : Nat) : Bool :=
  let b := s.bay i
  b.kind == .enabled && b.ready && !b.gone

/-- Why a DPA cannot be accessed (R60, R217, R279, R298, R404), or none. -/
def State.reachAt (s : State) (a : Nat) : Option Status :=
  if a < 2 ^ 40 then
    let k := s.stk (dpaStack a)
    if s.grade.stackBytes ≤ a % 2 ^ 36 then some .addressFault
    else if k.weeded.contains (a / 65536) then some .addressFault
    else if !k.seen then some .addressFault
    else if 4 ≤ k.step then some .thermalHalt
    else if k.lost then some .addressFault
    else none
  else if isCarrel a then
    if s.bayUp (carrelBay a) && (s.bay (carrelBay a)).cores.testBit (carrelCore a) && carrelSlot a < 96 then none
    else some .addressFault
  else some .addressFault

/-- The pages that a range touches. -/
def pagesOf (a n : Nat) : List Nat := if n = 0 then [] else (List.range ((a + n - 1) / 65536 + 1 - a / 65536)).map (· + a / 65536)

/-- Why a range cannot be accessed, at its lowest address. -/
def State.reach (s : State) (a n : Nat) : Option Status :=
  (pagesOf a n).findSome? (fun p => s.reachAt (65536 * p))

/-- A read of device memory by a command: the status that ends it, or the bytes (R217, R286). -/
def State.read (s : State) (a n : Nat) : Except Status (List Byte) :=
  match s.reach a n with
  | some e => .error e
  | none => if s.poisoned a n then .error .uncorrectableMemory else .ok (s.bytes a n)

/-! Time and the status views -/

/-- TIM_SOURCE (R436). -/
def State.timSource (s : State) : Nat :=
  let byHost := if s.time.hostLocked then 0 else if s.time.disciplined then 1 else 2
  match s.time.follow with
  | some (_, f) => if f.acquired then 3 else byHost
  | none => byHost

/-- The holdover flag (R437). -/
def State.holdover (s : State) : Bool :=
  let src := s.timSource
  src == 1 || src == 2 ||
    (match s.time.follow with
     | some (p, f) => !f.acquired || (s.port p).st != .active || decide (f.lastValid + 10000000 < s.time.now) || f.serverHold
     | none => false)

/-- A timestamp (R438). -/
def State.stamp (s : State) : W64 :=
  BitVec.ofNat 64 (s.time.now % 2 ^ 63 + if s.holdover then 2 ^ 63 else 0)

/-- IDN_UNITS (R351): counts of cores, wings and ports. -/
def State.coreCount (s : State) : Nat := (s.bays.map (fun b => popcount 16 b.2.cores)).sum
def State.wingCount (s : State) : Nat := (s.wings.filter (fun w => !w.2.lost)).length
def State.portCount (s : State) : Nat := (s.ports.filter (fun p => p.2.present && !p.2.lost)).length
def State.stackCount (s : State) : Nat := (s.stks.filter (fun k => !k.2.lost)).length
def State.idnUnits (s : State) : Nat :=
  s.coreCount + (if s.bays.any (fun b => b.2.lu && b.2.kind == .enabled && !b.2.gone) then 0x800 else 0) + 0x1000 + 0x2000
    + s.wingCount * 2 ^ 16 + s.portCount * 2 ^ 20

/-- IDN_GRADE (Table 15.3). -/
def State.idnGrade (s : State) : Nat := match s.grade with | .ax => 0x000100A1 | .bx => 0x000100B1
/-- IDN_FWVER (R384). -/
def State.fwver (s : State) : Nat := match s.hex.active with | some a => a.fwver | none => 0
/-- IDN_BAY[i]. -/
def idnBay (b : Bay) : Nat :=
  b.cores + (if (List.range 16).any (fun c => b.good.testBit c && !b.cores.testBit c) && b.kind == .enabled then 2 ^ 16 else 0)
    + (if b.lu then 2 ^ 17 else 0) + (if b.kind == .absent then 2 ^ 18 else 0) + (if b.gone then 2 ^ 19 else 0)
/-- Spare rows of a pseudo-channel (Table 12.1), and remap entries in use. -/
def Stack.entriesOf (k : Stack) (pc : Nat) : List (Nat × Shelf) :=
  k.shelves.filter (fun e => !e.2.hard && e.1 / 2 ^ 20 == pc)
/-- A good spare of a bank: neither bad nor in use; spare = bank × 64 + index. -/
def State.spareFree (s : State) (st pc spare : Nat) : Bool :=
  !s.ledger.badSpares.contains (st * 65536 + pc * 1024 + spare) &&
    !((s.stk st).entriesOf pc).any (fun e => e.2.spare == spare)
/-- A pseudo-channel is weed-only (R296). -/
def State.weedOnly (s : State) (st pc : Nat) : Bool :=
  decide (256 ≤ ((s.stk st).entriesOf pc).length) ||
    ((s.ledger.badSpares.any (fun x => x / 1024 == st * 64 + pc) || !((s.stk st).entriesOf pc).isEmpty) &&
      (List.range 1024).all (fun r => !s.spareFree st pc r))
/-- IDN_STACK[i]. -/
def State.idnStack (s : State) (i : Nat) : Nat :=
  let k := s.stk i
  k.step + (if k.lost then 8 else 0) + (if k.degraded then 16 else 0)
    + ((List.range 64).countP (fun pc => s.weedOnly i pc)) * 32 + min 4096 k.weeded.length * 2 ^ 12
/-- IDN_PSTATE codes (Table 15.4). -/
def PState.code : PState → Nat
  | .off => 0 | .detect => 1 | .equalise => 2 | .identify => 3 | .frame => 4 | .init => 5 | .active => 6 | .recover => 7
  | .failed => 8
/-- IDN_PORT[p]. -/
def idnPort (p : Port) : Nat :=
  let up := p.st == .active
  (if p.present then 1 else 0) + (if p.lost then 2 else 0) + p.role * 4 + p.st.code * 16
    + (if up then p.txMap.length else 0) * 2 ^ 8 + (if up then p.rxMap.length else 0) * 2 ^ 12
    + (if p.txSpare then 2 ^ 16 else 0) + (if p.rxSpare then 2 ^ 17 else 0)
/-- IDN_FEEDS. -/
def State.feeds (s : State) : Nat := (if s.power.feedA.present then 1 else 0) + (if s.power.feedB.present then 2 else 0)
/-- IDN_POWER. -/
def State.idnPower (s : State) : Nat := s.power.limit % 4096 + s.feeds * 2 ^ 12

/-- Every IDN_ register but IDN_SEQ, which counts their changes (R351, R352). -/
def State.idnView (s : State) : List Nat :=
  [0x71601F5C, s.idnGrade, 0x100, s.fwver, s.idnUnits, s.idnPower] ++ s.bays.map (fun b => idnBay b.2)
    ++ (List.range 16).map s.idnStack ++ s.ports.map (fun p => idnPort p.2)

/-- RDY_SERVICE (Table 15.4). -/
def State.rdyService (s : State) : Nat :=
  let h := s.hex
  if s.power.st == .thermal || s.power.st == .deskFailed then 0 else
  bitmap 8 (fun i => match i with
    | 0 => true | 1 => s.time.running && !s.holdover | 2 => s.ledger.ready | 3 => h.rdyHexset
    | 4 => h.rdyKeeper | 5 => h.trng | 6 => h.rdyFw | _ => h.rdyMbx)
/-- RDY_WING, RDY_STACK, RDY_PORT, RDY_BAYj. -/
def State.rdyWing (s : State) : Nat := bitmap 4 (fun w => (s.wing w).ready)
def State.rdyStack (s : State) : Nat := bitmap 16 (fun i => (s.stk i).ready)
def State.rdyPort (s : State) : Nat := bitmap 8 (fun p => (s.port p).st == .active)
def State.rdyBay (s : State) (j : Nat) : Nat := bitmap 32 (fun i => decide (32 * j + i < 88) && s.bayUp (32 * j + i))
/-- The RDY_ registers but RDY_SEQ. -/
def State.rdyView (s : State) : List Nat :=
  [s.rdyService, s.rdyWing, s.rdyStack, s.rdyPort, s.rdyBay 0, s.rdyBay 1, s.rdyBay 2]

/-- EVT_HEALTH: the stored reports, one feed only, any stack at T2 or above. -/
def State.healthView (s : State) : Nat :=
  let h := s.host.health.toNat
  bitmap 6 (fun i => match i with
    | 2 => s.feeds == 1 || s.feeds == 2
    | 3 => s.stks.any (fun k => decide (2 ≤ k.2.step))
    | i => h.testBit i)
/-- A health report is set (R351 Table 15.4). -/
def State.setHealth (s : State) (i : Nat) (v : Bool) : State :=
  let h := s.host.health
  { s with host := { s.host with health := if v then h ||| BitVec.ofNat 32 (2 ^ i) else h &&& ~~~(BitVec.ofNat 32 (2 ^ i)) } }
/-- EVT_DEGRADED is set (R455). -/
def State.degrade (s : State) : State := s.setHealth 1 true

/-! Outputs to the host -/

/-- Bytes written to host memory. -/
def State.hostWrite (s : State) (a : Nat) (bs : List Byte) : State :=
  { s with host := { s.host with mem := Memory.write s.host.mem a bs 0 } }

/-- A count of EVT_COUNT[j], saturating at 32 bits (Table 15.4). -/
def State.count (s : State) (j n : Nat) : State :=
  { s with evt := { s.evt with counts := s.evt.counts.put j (satAdd 0xFFFFFFFF (s.evt.counts.getD j 0) n) } }

/-- The MSI-X message of a function's vector, or its pending bit when the table masks it (R357). -/
def State.msi (s : State) (fn v : Nat) : State :=
  let h := s.host
  if (h.msix.getD (fn * 256 + 4 * v + 3) 1).getLsbD 0 then
    { s with host := { h with pba := addBlocks h.pba [fn * 64 + v] } }
  else { s with host := { h with msgs := h.msgs.put (fn * 64 + v) (h.msgs.getD (fn * 64 + v) 0 + 1) } }

/-- IRQ_CAUSE bit `b` is raised: its message goes out on the PF's vector unless IRQ_MASK records it only (R354, R357). -/
def State.irq (s : State) (b v : Nat) : State :=
  let s1 := { s with host := { s.host with irqCause := s.host.irqCause ||| BitVec.ofNat 32 (2 ^ b) } }
  if s.host.irqMask.getLsbD b then s1 else s1.msi 0 v

/-- log2 depth code to ring depth (R351, R354). -/
def ringDepth (code : Nat) : Nat := if code ≤ 6 then 2 ^ (6 + code) else Config.reservedDepth code

/-- EVT_RING_CTRL fields. -/
def Events.enabled (e : Events) : Bool := e.ctrl.getLsbD 31
def Events.depth (e : Events) : Nat := ringDepth (e.ctrl.toNat % 16)
/-- The event ring is full (R353). -/
def Events.full (e : Events) : Bool := (e.tail + 1) % e.depth == e.head % e.depth

/-- Bytes 0 to 30 of an event entry (Table 15.5). -/
def Evt.body (e : Evt) : List Byte :=
  [0, 0, b8 e.status, 0x02] ++ leBytes 2 e.code ++ [b8 e.ctx, b8 e.repeat_] ++ leBytes 8 e.tick.toNat ++ fit 15 e.detail

/-- The phase byte of an entry. -/
def phaseByte (p : Bool) : Byte := if p then 0x80 else 0

/-- An event is written at EVT_TAIL (R353). -/
def State.evtWrite (s : State) (e : Evt) : State :=
  let r := s.evt
  let s1 := s.hostWrite (r.base.toNat + 32 * r.tail) (e.body ++ [phaseByte r.phase])
  let t := (r.tail + 1) % r.depth
  ({ s1 with evt := { s1.evt with tail := t, phase := if t = 0 then !r.phase else r.phase, written := r.written + 1 } }).irq 1 1

/-- An event is written to the owner's ring, held, or lost (R353). -/
def State.evtOwner (s : State) (e : Evt) : State :=
  let r := s.evt
  if r.enabled && !r.full && r.held.isEmpty then s.evtWrite e
  else if r.held.length < 1024 then { s with evt := { r with held := r.held ++ [e] } }
  else { s with evt := { r with lost := satAdd 0xFFFFFFFF r.lost 1, lostTotal := r.lostTotal + 1 } }

/-- Held events are written while the ring has room (R353). -/
def State.evtDrain (s : State) (fuel : Nat) : State :=
  match fuel with
  | 0 => s
  | f + 1 =>
    match s.evt.held with
    | [] => s
    | e :: r =>
      if s.evt.enabled && !s.evt.full then
        ({ s with evt := { s.evt with held := r } }.evtWrite e).evtDrain f
      else s

/-- Completion-ring depth, fullness (R359). -/
def Mailbox.sqDepth (m : Mailbox) : Nat := ringDepth (m.size.toNat % 16)
def Mailbox.cqDepth (m : Mailbox) : Nat := ringDepth (m.size.toNat / 256 % 16)
def Mailbox.cqFull (m : Mailbox) : Bool := (m.cqTail + 1) % m.cqDepth == m.cqHead % m.cqDepth
/-- An entry is a mailbox completion (rflags 0). -/
def Posted.isCompletion (p : Posted) : Bool := p.body.getD 3 0 == 0
/-- The ring takes this entry now: completions post while the mailbox is disabled, records and events wait (R355, R348). -/
def Mailbox.takes (m : Mailbox) (p : Posted) : Bool := !m.cqFull && ((m.enable && !m.d3) || p.isCompletion)

/-- What a posted record frees: its command's window place, or its stream's number (R198, R199). -/
def State.freed (s : State) (f : Option (Nat × Nat × Option Nat)) : State :=
  match f with
  | none => s
  | some (c, n, some k) =>
    match s.stream c n with
    | some x => s.setStream c n { x with window := x.window.del k }
    | none => s
  | some (c, n, none) => s.setCtx c { s.ctx c with streams := (s.ctx c).streams.del n }

/-- An entry is written to a completion ring (R359, R360). -/
def State.cqWrite (s : State) (n : Nat) (p : Posted) : State :=
  let m := s.mb n
  let body := if p.isCompletion then splice p.body 24 (leBytes 2 m.sqHead) else p.body
  let s1 := s.hostWrite (m.cqBase.toNat + 32 * m.cqTail) (body ++ [phaseByte m.cqPhase])
  let t := (m.cqTail + 1) % m.cqDepth
  let s2 := s1.setMb n { m with cqTail := t, cqPhase := if t = 0 then !m.cqPhase else m.cqPhase }
  (if n = 0 then s2.irq 0 0 else s2.msi n 0).freed p.frees

/-- An entry is posted to a mailbox's ring or waits for it, in order; a completion passes records and events that wait for
MBX_ENABLE (R355). -/
def State.post (s : State) (n : Nat) (p : Posted) : State :=
  let m := s.mb n
  if m.takes p && m.held.all (fun q => !m.takes q) then s.cqWrite n p
  else s.setMb n { m with held := m.held ++ [p] }

/-- Tenant mailbox of a context: its VF's when it has one, else the owner's (R199). -/
def State.mboxOf (s : State) (c : Nat) : Nat := ((s.ctxs.get c).bind (fun x => x.vf)).getD 0

/-- An event is posted (R353): to the owner, and to the tenant ring of the context it concerns (255 for none). -/
def State.event (s : State) (st : Status) (code ctx : Nat) (detail : List Byte) : State :=
  let e : Evt := { status := st.code, code := code, ctx := ctx, repeat_ := 0, tick := s.stamp, detail := detail }
  let s1 := s.evtOwner e
  let n := s1.mboxOf ctx
  if n ≠ 0 ∧ (s1.mb n).enable then s1.post n { body := e.body, frees := none } else s1

/-- A command's completion with its result as given (R360): nothing to a mailbox that has been reset since. -/
def State.completeAs (s : State) (o : Owed) (st : Status) (res : List Byte) : State :=
  let n := portIx o.port
  let m := s.mb n
  if m.epoch ≠ o.epoch then s else
  let body := leBytes 2 o.tag ++ [b8 st.code, 0] ++ leBytes 2 o.op ++ [b8 o.ctx, 0] ++ fit 16 res ++ zeros 7
  (s.setMb n { m with owed := m.owed - 1 }).post n { body := body, frees := none }

/-- A command's completion (R360): a result only with `OK`. -/
def State.complete (s : State) (o : Owed) (st : Status) (res : List Byte) : State :=
  s.completeAs o st (if st == .ok then res else [])

/-! The ledger -/

/-- A ledger record now (R461). -/
def State.lrec (s : State) (cls type wing unit : Nat) (detail : List Byte) : LRec :=
  { cls, type, wing, unit, boot := s.ledger.boots, tick := s.stamp, detail := fit 12 detail, torn := false }

/-- A ring's newest record pushes out its oldest when the ring is full (R460). -/
def ringPush {α : Type} (cap : Nat) (l : List α) (x : α) : List α := if l.length < cap then l ++ [x] else l.drop 1 ++ [x]

/-- An error-history record (Table 20.10). -/
def State.errRec (s : State) (type wing unit : Nat) (detail : List Byte) : State :=
  { s with ledger := { s.ledger with errors := ringPush 98304 s.ledger.errors (s.lrec 1 type wing unit detail) } }

/-- A lifecycle record of a kind (R460; the spec names no type codes). -/
def State.lifeRec (s : State) (kind unit : Nat) : State :=
  { s with ledger := { s.ledger with life := s.ledger.life ++ [s.lrec 4 (Config.lifeType kind) 0xFF unit []] } }

/-- The 32 bytes of a record (Table 20.9). -/
def LRec.bytes (r : LRec) : List Byte :=
  let b := [b8 r.cls, b8 r.type, b8 r.wing, b8 r.unit] ++ leBytes 4 r.boot ++ leBytes 8 r.tick.toNat ++ fit 12 r.detail
  b ++ leBytes 4 (crc32c b)

/-- End of service is reported (R457): EVT_EOS, event 0x0012 and a lifecycle record, once. -/
def State.endOfService (s : State) : State :=
  if s.host.health.getLsbD 0 then s else
  ((s.setHealth 0 true).event .ok 0x12 0xFF (leBytes 2 s.coreCount ++ [b8 s.stackCount, b8 s.portCount])).lifeRec 1 0xFF

/-- Grade floor (Table 20.6). -/
def State.belowFloor (s : State) : Bool :=
  match s.grade with
  | .ax => decide (s.coreCount < 1100 ∨ s.stackCount < 15 ∨ s.portCount < 7)
  | .bx => decide (s.coreCount < 880 ∨ s.stackCount < 15 ∨ s.portCount < 5)

/-! The commit of a step -/

/-- Positions at which two lists differ. -/
def diffs : List Nat → List Nat → Nat
  | a :: as, b :: bs => (if a = b then 0 else 1) + diffs as bs
  | as, bs => as.length + bs.length

/-- Bits in which two words differ. -/
def bitDiffs : List Nat → List Nat → Nat
  | a :: as, b :: bs => popcount 32 (a ^^^ b) + bitDiffs as bs
  | _, _ => 0

/-- IDN_SEQ and RDY_SEQ count the changes of a step (R351, R352); a change of RDY_ raises IRQ_READY. -/
def State.seqs (s t : State) : State :=
  let n := diffs s.idnView t.idnView
  let t1 := if n = 0 then t else { t with host := { t.host with idnSeq := t.host.idnSeq + BitVec.ofNat 32 n } }
  let k := bitDiffs s.rdyView t.rdyView
  let t2 := if k = 0 then t1
    else ({ t1 with host := { t1.host with rdySeq := t1.host.rdySeq + BitVec.ofNat 32 k } }).irq 2 2
  if s.healthView ≠ t.healthView then { t2 with power := { t2.power with alert := true } } else t2

/-- The stores of a step land in memory, which only a reset or a switch-off empties; the queue is the step's own. -/
def State.land (s t : State) : State :=
  { t with mem := Memory.apply (if t.mem.isEmpty then [] else s.mem) t.stores, stores := [], pending := s.pending }

/-- What ends every step: the grade floor is judged (R457), the sequence counters advance, the stores land. After a reset the
counters keep the values it gives them (R408). -/
def State.commit (s t : State) : State :=
  if (t.mb 0).epoch ≠ (s.mb 0).epoch then s.land t
  else s.land (s.seqs (if t.power.st == .run && t.belowFloor then t.endOfService else t))

/-- The outcome type. -/
abbrev Res := Host.Outcome State Fault Refusal

/-- The meaning of a command from its effect. -/
def act (s : State) (f : State → State) : Res := .next (s.commit (f { s with stores := [] }))

end Sys2Proof.Machine
end

