-- ==== Sys2Proof/Machine/Num.lean ====
section
/-! DEFINITION. The arithmetic of the schemes: modular arithmetic, primes, the number-theoretic transform (R16, R19 to R26),
fixed-point logarithms of noise estimates (R101), and IEEE 754 arithmetic (R30, R31). -/

namespace Sys2Proof.Machine

/-! Modular arithmetic -/

/-- a^e mod q by squaring, on `fuel` bits of the exponent. -/
def powModF (fuel q a e : Nat) : Nat :=
  match fuel with
  | 0 => 1 % q
  | f + 1 => let r := powModF f q (a * a % q) (e / 2); if e % 2 = 1 then a * r % q else r
/-- a^e mod q. -/
def powMod (q a e : Nat) : Nat := powModF (Nat.log2 e + 1) q (a % q) e
/-- The extended Euclid step: u with u·a ≡ g modulo the first modulus. -/
def egcd (fuel : Nat) (r0 r1 : Nat) (s0 s1 : Int) : Nat × Int :=
  match fuel with
  | 0 => (r0, s0)
  | f + 1 => if r1 = 0 then (r0, s0) else egcd f r1 (r0 % r1) s1 (s0 - (r0 / r1 : Nat) * s1)
/-- The inverse of a modulo m (0 where none is). -/
def invMod (m a : Nat) : Nat :=
  let r := egcd (2 * Nat.log2 m + 3) (a % m) m 1 0
  if r.1 = 1 then (r.2 % (m : Int)).toNat else 0
/-- A signed integer modulo q (R19). -/
def modInt (q : Nat) (v : Int) : Nat := (v % (q : Int)).toNat
/-- A residue read as a centred integer (R31 decode): x when x ≤ (q − 1)/2, else x − q. -/
def centre (q x : Nat) : Int := if x ≤ (q - 1) / 2 then (x : Int) else (x : Int) - q

/-- One Miller–Rabin witness (R16). -/
def mrWitness (n d r a : Nat) : Bool :=
  let x := powMod n a d
  x == 1 || x == n - 1 || (List.range (r - 1)).any (fun i => powMod n x (2 ^ (i + 1)) == n - 1)
/-- Two-adic valuation. -/
def val2 (fuel n : Nat) : Nat := match fuel with | 0 => 0 | f + 1 => if n % 2 = 0 ∧ n ≠ 0 then 1 + val2 f (n / 2) else 0
/-- Deterministic Miller–Rabin with the twelve bases of R16. -/
def isPrime (n : Nat) : Bool :=
  let bases := [2, 3, 5, 7, 11, 13, 17, 19, 23, 29, 31, 37]
  if n < 2 then false
  else if bases.contains n then true
  else if bases.any (fun p => n % p = 0) then false
  else
    let r := val2 (Nat.log2 n + 1) (n - 1)
    bases.all (mrWitness n ((n - 1) / 2 ^ r) r)

/-! The ring -/

/-- `brv(i)` reverses the low n bits of i (R24). -/
def brv (n i : Nat) : Nat := ((List.range n).map (fun j => if i.testBit j then 2 ^ (n - 1 - j) else 0)).sum
/-- A primitive 2N-th root of unity modulo q. -/
def someRoot (q n : Nat) : Nat :=
  (((List.range 512).map (fun x => powMod q (x + 2) ((q - 1) / 2 ^ (n + 1)))).find? (fun g => powMod q g (2 ^ n) == q - 1)).getD 0
/-- Odd powers of g, folded to their minimum. -/
def minOdd (fuel q g2 x m : Nat) : Nat :=
  match fuel with
  | 0 => m
  | f + 1 => minOdd f q g2 (x * g2 % q) (min m x)
/-- ψ_q: the smallest ψ with ψ^N ≡ q − 1 (R23), as the least of the odd powers of one such root. -/
def psi (q n : Nat) : Nat := let g := someRoot q n; minOdd (2 ^ n) q (g * g % q) g q
/-- A polynomial's value modulo q. -/
def horner (q w : Nat) (a : List Nat) : Nat := a.foldr (fun x acc => (x + w * acc) % q) 0
/-- The permutation i ↦ brv(i) of a limb. -/
def unbrv (n : Nat) (a : List Nat) : List Nat := let v := a.toArray; (List.range (2 ^ n)).map (fun j => v.getD (brv n j) 0)
/-- The forward transform (R24). -/
def nttFwd (q n : Nat) (a : List Nat) : List Nat :=
  let p := psi q n
  (List.range (2 ^ n)).map (fun i => horner q (powMod q p (2 * brv n i + 1)) a)
/-- The inverse transform (R24), multiplied by N^−1. -/
def nttInv (q n : Nat) (a : List Nat) : List Nat :=
  let pi := invMod q (psi q n)
  let ni := invMod q (2 ^ n)
  let b := unbrv n a
  (List.range (2 ^ n)).map (fun k => horner q (powMod q pi (2 * k)) b * powMod q pi k % q * ni % q)
/-- σ_g in the evaluation form (R26): a permutation. -/
def autoEval (n g : Nat) (a : List Nat) : List Nat :=
  let v := a.toArray
  (List.range (2 ^ n)).map (fun i => v.getD (brv n ((g * (2 * brv n i + 1) % 2 ^ (n + 1) - 1) / 2)) 0)
/-- σ_g in the coefficient form (R26): coefficient k moves to position gk mod N, negated when ⌊gk/N⌋ is odd. -/
def autoCoef (q n g : Nat) (a : List Nat) : List Nat :=
  let N := 2 ^ n
  let h := invMod (2 * N) g
  let v := a.toArray
  (List.range N).map (fun i =>
    let k := h * i % N
    let x := v.getD k 0
    if g * k / N % 2 = 0 then x else (q - x) % q)
/-- Pointwise operations on limbs. -/
def zipMod (q : Nat) (f : Nat → Nat → Nat) (a b : List Nat) : List Nat := List.zipWith (fun x y => f x y % q) a b
def addL (q : Nat) : List Nat → List Nat → List Nat := zipMod q (· + ·)
def subL (q : Nat) : List Nat → List Nat → List Nat := zipMod q (fun x y => x + (q - y % q))
def mulL (q : Nat) : List Nat → List Nat → List Nat := zipMod q (· * ·)
def negL (q : Nat) (a : List Nat) : List Nat := a.map (fun x => (q - x % q) % q)
def scaleL (q c : Nat) (a : List Nat) : List Nat := a.map (fun x => x * c % q)

/-- Product of a list. -/
def prod (l : List Nat) : Nat := l.foldl (· * ·) 1
/-- Reconstruction in [0, Q) from residues (CRT). -/
def crt (qs xs : List Nat) : Nat :=
  let Q := prod qs
  ((List.zipWith (fun q x => let h := Q / q; x * invMod q (h % q) % q * h) qs xs).sum) % Q
/-- Negacyclic product of integer polynomials of N coefficients. -/
def negMul (a b : List Int) : List Int :=
  let N := a.length
  let va := a.toArray
  let vb := b.toArray
  (List.range N).map (fun k => ((List.range N).map (fun i =>
    if i ≤ k then va.getD i 0 * vb.getD (k - i) 0 else -(va.getD i 0 * vb.getD (N + k - i) 0))).sum)
/-- Transposed rows: the residues of one position across limbs. -/
def column (limbs : List (List Nat)) (N : Nat) : List (List Nat) :=
  let vs := limbs.map List.toArray
  (List.range N).map (fun k => vs.map (fun v => v.getD k 0))

/-- Nearest integer of a quotient, ties to even. -/
def roundEven (num den : Nat) : Nat :=
  let q := num / den
  let r := num % den
  if 2 * r < den then q else if den < 2 * r then q + 1 else q + q % 2
/-- Nearest integer of a signed quotient, ties to even. -/
def roundEvenI (num : Int) (den : Nat) : Int :=
  if 0 ≤ num then (roundEven num.toNat den : Int) else -(roundEven (-num).toNat den : Int)

/-! Logarithms in units of 1/2^k (R101) -/

/-- k fractional bits of log2 of a ratio in [1, 2), and whether they are exact. -/
def logBits (k a b acc : Nat) : Nat × Bool :=
  match k with
  | 0 => (acc, a == b)
  | k + 1 => let a2 := a * a; let b2 := b * b
             if 2 * b2 ≤ a2 then logBits k a2 (2 * b2) (2 * acc + 1) else logBits k a2 b2 (2 * acc)
/-- ⌊log2(a/b)⌋ for positive a and b. -/
def logInt (a b : Nat) : Int :=
  let e : Int := (Nat.log2 a : Int) - Nat.log2 b
  if 0 ≤ e then (if a < b * 2 ^ e.toNat then e - 1 else e) else (if a * 2 ^ (-e).toNat < b then e - 1 else e)
/-- ⌊2^k · log2(a/b)⌋ and whether it is exact. -/
def logFix (k a b : Nat) : Int × Bool :=
  let e := logInt a b
  let r := if 0 ≤ e then logBits k a (b * 2 ^ e.toNat) 0 else logBits k (a * 2 ^ (-e).toNat) b 0
  (e * 2 ^ k + r.1, r.2)
/-- log2(a/b) in 1/256, rounded down and up. -/
def log2Down (a b : Nat) : Int := (logFix 8 a b).1
def log2Up (a b : Nat) : Int := let r := logFix 8 a b; if r.2 then r.1 else r.1 + 1
/-- ½·log2(a/b) in 1/256, rounded up. -/
def halfLogUp (a b : Nat) : Int := let r := logFix 7 a b; if r.2 then r.1 else r.1 + 1
/-- ln 2 rounded up, in units of 10^−40. -/
def ln2Num : Nat := 6931471805599453094172321214581765680756
def ln2Den : Nat := 10 ^ 40

/-- Integer square root by bits. -/
def isqrtF (fuel n r : Nat) : Nat :=
  match fuel with
  | 0 => r
  | f + 1 => let c := r + 2 ^ f; isqrtF f n (if c * c ≤ n then c else r)
def isqrt (n : Nat) : Nat := isqrtF (Nat.log2 n / 2 + 1) n 0
/-- Fixed-point unit of the powers below. -/
def fixOne : Nat := 2 ^ 192
/-- 2^(1/2), 2^(1/4), …, in fixed point. -/
def roots (k x : Nat) : List Nat := match k with | 0 => [] | k + 1 => let y := isqrt (x * fixOne); y :: roots k y
/-- 2^(d/256) in fixed point, for d below 256. -/
def pow256 (d : Nat) : Nat :=
  ((roots 8 (2 * fixOne)).zipIdx.foldl (fun acc p => if d.testBit (7 - p.2) then acc * p.1 / fixOne else acc) fixOne)
/-- δ(x) = ⌈256 · log2(1 + 2^−x)⌉, with x in 1/256 (R101): the least m with 2^(m/256) ≥ 1 + 2^(−d/256). -/
def delta (d : Nat) : Nat :=
  if d = 0 then 256 else
  if 256 * 60 < d then 1 else
  let small := if d % 256 = 0 then fixOne / 2 ^ (d / 256) else pow256 (256 - d % 256) / 2 ^ (d / 256 + 1)
  max 1 (((List.range 256).find? (fun m => fixOne + small ≤ pow256 m)).getD 256)
/-- a ⊕ b (R101), in 1/256. -/
def oplus (a b : Int) : Int := max a b + delta (a - b).natAbs
/-- An estimate field: below 0 is 0, above saturates (R101). -/
def clampEst (v : Int) : Nat := if v < 0 then 0 else if 0xFFFF < v then 0xFFFF else v.toNat
/-- An estimate from operand estimates: a saturated operand saturates the result (R32). -/
def estimate (ops : List Nat) (v : Int) : Nat := if ops.contains 0xFFFF then 0xFFFF else clampEst v

/-! IEEE 754 arithmetic (R30) -/

/-- A binary format: exponent bits and fraction bits. -/
structure Fmt where
  eb : Nat
  mb : Nat
deriving DecidableEq, Repr
def fp64 : Fmt := ⟨11, 52⟩
def fp32 : Fmt := ⟨8, 23⟩
def bf16 : Fmt := ⟨8, 7⟩

/-- A decoded value: NaN, infinity, or ± mantissa · 2^exponent. -/
inductive FVal | nan | inf (neg : Bool) | fin (neg : Bool) (m : Nat) (e : Int)
deriving DecidableEq, Repr

/-- Sticky flags: bit 0 invalid, 1 division by zero, 2 overflow, 3 underflow, 4 inexact (Table 7.12). -/
def fInvalid : Nat := 1
def fDivZero : Nat := 2
def fOverflow : Nat := 4
def fUnderflow : Nat := 8
def fInexact : Nat := 16

/-- The value of a bit pattern. -/
def fdec (f : Fmt) (x : Nat) : FVal :=
  let m := x % 2 ^ f.mb
  let e := x / 2 ^ f.mb % 2 ^ f.eb
  let neg := x.testBit (f.eb + f.mb)
  let bias : Int := 2 ^ (f.eb - 1) - 1
  if e = 2 ^ f.eb - 1 then (if m = 0 then .inf neg else .nan)
  else if e = 0 then .fin neg m (1 - bias - f.mb)
  else .fin neg (m + 2 ^ f.mb) (e - bias - f.mb)
/-- The quiet NaN an operation produces: sign and payload are open (R30). -/
def fnan (f : Fmt) (draw : Nat) : Nat :=
  let p := Config.nanPayload draw
  (2 ^ f.eb - 1) * 2 ^ f.mb + 2 ^ (f.mb - 1) + p % 2 ^ (f.mb - 1) + (if p.testBit 63 then 2 ^ (f.eb + f.mb) else 0)
def fsign (f : Fmt) (neg : Bool) : Nat := if neg then 2 ^ (f.eb + f.mb) else 0
def finf (f : Fmt) (neg : Bool) : Nat := fsign f neg + (2 ^ f.eb - 1) * 2 ^ f.mb
/-- A positive ratio over 2^k, as numerator and denominator. -/
def shiftRat (num den : Nat) (k : Int) : Nat × Nat := if 0 ≤ k then (num, den * 2 ^ k.toNat) else (num * 2 ^ (-k).toNat, den)
/-- An exact value num/den rounded once to nearest even, with its flags (R30). -/
def fround (f : Fmt) (neg : Bool) (num den : Nat) : Nat × Nat :=
  if num = 0 then (fsign f neg, 0) else
  let bias : Int := 2 ^ (f.eb - 1) - 1
  let emin : Int := 1 - bias
  let e := logInt num den
  let q := (max e emin) - f.mb
  let r := shiftRat num den q
  let n := roundEven r.1 r.2
  let inexact := decide (n * r.2 ≠ r.1)
  let up := shiftRat num den (e - f.mb)
  let after := decide (e < emin) && !(decide (e = emin - 1) && decide (roundEven up.1 up.2 = 2 ^ (f.mb + 1)))
  let tiny := if Config.tinyBefore then decide (e < emin) else after
  let fl := (if inexact then fInexact else 0) + (if inexact && tiny then fUnderflow else 0)
  let (n, q) := if n = 2 ^ (f.mb + 1) then (2 ^ f.mb, q + 1) else (n, q)
  if bias < q + f.mb then (finf f neg, fOverflow + fInexact)
  else if n < 2 ^ f.mb then (fsign f neg + n, fl)
  else (fsign f neg + (q + f.mb + bias).toNat * 2 ^ f.mb + (n - 2 ^ f.mb), fl)
/-- A signed exact value num/den, its zero positive unless told. -/
def froundI (f : Fmt) (num : Int) (den : Nat) : Nat × Nat := fround f (decide (num < 0)) num.natAbs den
/-- m · 2^e as an integer over a power of two: numerator over 2^k. -/
def scaled (neg : Bool) (m : Nat) (e base : Int) : Int := (if neg then -1 else 1) * (m * 2 ^ (e - base).toNat : Nat)
/-- A signaling NaN raises invalid (IEEE 754). -/
def fsnan (f : Fmt) (x : Nat) : Nat := if fdec f x = .nan ∧ !x.testBit (f.mb - 1) then fInvalid else 0
/-- Addition. -/
def fadd (f : Fmt) (draw x y : Nat) : Nat × Nat :=
  match fdec f x, fdec f y with
  | .nan, _ => (fnan f draw, fsnan f x ||| fsnan f y)
  | _, .nan => (fnan f draw, fsnan f y)
  | .inf a, .inf b => if a = b then (finf f a, 0) else (fnan f draw, fInvalid)
  | .inf a, _ => (finf f a, 0)
  | _, .inf b => (finf f b, 0)
  | .fin na ma ea, .fin nb mb eb =>
    let b := min ea eb
    let s := scaled na ma ea b + scaled nb mb eb b
    if s = 0 then (fsign f (na && nb), 0)
    else if 0 ≤ b then froundI f (s * 2 ^ b.toNat) 1 else froundI f s (2 ^ (-b).toNat)
/-- Negation: the sign bit. -/
def fneg (f : Fmt) (x : Nat) : Nat := x ^^^ 2 ^ (f.eb + f.mb)
/-- Multiplication. -/
def fmul (f : Fmt) (draw x y : Nat) : Nat × Nat :=
  match fdec f x, fdec f y with
  | .nan, _ => (fnan f draw, fsnan f x ||| fsnan f y)
  | _, .nan => (fnan f draw, fsnan f y)
  | .inf a, .inf b => (finf f (a != b), 0)
  | .inf a, .fin b m _ => if m = 0 then (fnan f draw, fInvalid) else (finf f (a != b), 0)
  | .fin a m _, .inf b => if m = 0 then (fnan f draw, fInvalid) else (finf f (a != b), 0)
  | .fin a m e, .fin b k g => let r := shiftRat (m * k) 1 (-(e + g)); fround f (a != b) r.1 r.2
/-- Division by a nonzero integer. -/
def fdivNat (f : Fmt) (draw x k : Nat) : Nat × Nat :=
  match fdec f x with
  | .nan => (fnan f draw, 0)
  | .inf a => (finf f a, 0)
  | .fin a m e =>
    if k = 0 then (if m = 0 then (fnan f draw, fInvalid) else (finf f a, fDivZero))
    else let r := shiftRat m k (-e); fround f a r.1 r.2
/-- A finite value as a ratio with its sign, 0 for what is not finite. -/
def fratio (f : Fmt) (x : Nat) : Bool × Nat × Nat :=
  match fdec f x with
  | .fin n m e => let r := shiftRat m 1 (-e); (n, r.1, r.2)
  | _ => (false, 0, 1)
def fisFinite (f : Fmt) (x : Nat) : Bool := match fdec f x with | .fin _ _ _ => true | _ => false
def fisNan (f : Fmt) (x : Nat) : Bool := match fdec f x with | .nan => true | _ => false
/-- Encode of R31: a product rounded to a 64-bit integer, ties to even, with saturation. -/
def encodeInt (x : Nat) : Int × Nat :=
  match fdec fp64 x with
  | .nan => (0, fInvalid)
  | .inf true => (-(2 ^ 63), fOverflow)
  | .inf false => (2 ^ 63 - 1, fOverflow)
  | .fin neg m e =>
    let r := shiftRat m 1 (-e)
    let n := roundEven r.1 r.2
    let c : Int := if neg then -(n : Int) else n
    let fl := if n * r.2 = r.1 then 0 else fInexact
    if 2 ^ 63 ≤ c then (2 ^ 63 - 1, fl ||| fOverflow)
    else if c < -(2 ^ 63) then (-(2 ^ 63), fl ||| fOverflow)
    else (c, fl)
/-- The scale Δ of R98 lies in [1, 2^62) and is finite. -/
def scaleOk (x : Nat) : Bool :=
  match fdec fp64 x with
  | .fin false m e => let r := shiftRat m 1 (-e); decide (r.2 ≤ r.1 ∧ r.1 < r.2 * 2 ^ 62)
  | _ => false
/-- A scale lies below 1: 0, negative and NaN too; an infinite one does not (R98). -/
def scaleBelow (x : Nat) : Bool :=
  match fdec fp64 x with
  | .inf _ => false
  | .fin false m e => let r := shiftRat m 1 (-e); decide (r.1 < r.2)
  | _ => true
/-- log2 of a scale in 1/256, rounded up or down; an infinite scale counts 0xFFFF (R98); 0 for a scale that is not positive. -/
def scaleLog (up : Bool) (x : Nat) : Int :=
  match fdec fp64 x with
  | .inf _ => 0xFFFF
  | .fin false m e => if m = 0 then 0 else let r := shiftRat m 1 (-e); if up then log2Up r.1 r.2 else log2Down r.1 r.2
  | _ => 0
/-- An estimate term log2 Δ + `rest`: one that uses an infinite scale saturates (R98). -/
def scaleTerm (x : Nat) (rest : Int) : Int := if fdec fp64 x = .inf false then 0xFFFF else scaleLog true x + rest
/-- ⌊log2 of a scale⌋ or ⌈log2 of a scale⌉ in whole bits, in 1/256; an infinite scale counts 0xFFFF (R98). -/
def scaleBits (up : Bool) (x : Nat) : Int :=
  match fdec fp64 x with
  | .inf _ => 0xFFFF
  | .fin false m e =>
    if m = 0 then 0 else
      let r := shiftRat m 1 (-e)
      let f := logInt r.1 r.2
      256 * (if up && logFix 8 r.1 r.2 != (256 * f, true) then f + 1 else f)
  | _ => 0

end Sys2Proof.Machine
end

