-- ==== Sys2Proof/Machine/Cards.lean ====
section
/-! DEFINITION. Cards: their codes and bytes (Tables 7.1 to 7.4), the shape and the positions of their storage (R204 to
R206, R214), and reading and writing their elements (R215 to R217, R225, R226). -/

namespace Sys2Proof.Machine

/-! Codes -/

def CardKind.code : CardKind → Nat
  | .ciphertext => 1 | .plaintext => 2 | .key => 3 | .poly => 4 | .lwe => 5 | .share => 6 | .clear => 7
def CardKind.ofCode (n : Nat) : Option CardKind :=
  [CardKind.ciphertext, .plaintext, .key, .poly, .lwe, .share, .clear].find? (fun k => k.code == n)
def Elem.code : Elem → Nat
  | .res64 => 0 | .res30x2 => 1 | .fp64 => 2 | .fp32 => 3 | .bf16 => 4 | .int32 => 5 | .int64 => 6 | .u64 => 7
def Elem.ofCode (n : Nat) : Option Elem :=
  [Elem.res64, .res30x2, .fp64, .fp32, .bf16, .int32, .int64, .u64].find? (fun k => k.code == n)
/-- Size of an element in bytes (Table 1.5). -/
def Elem.size : Elem → Nat
  | .fp32 => 4 | .int32 => 4 | .bf16 => 2 | _ => 8
/-- Its floating-point format, when it has one. -/
def Elem.fmt : Elem → Option Fmt
  | .fp64 => some Machine.fp64 | .fp32 => some Machine.fp32 | .bf16 => some Machine.bf16 | _ => none
def Layout.code : Layout → Nat
  | .coef => 0 | .limb => 1 | .bitrev => 2 | .tile16 => 3 | .slot => 4 | .lwe => 5
def Layout.ofCode (n : Nat) : Option Layout :=
  [Layout.coef, .limb, .bitrev, .tile16, .slot, .lwe].find? (fun k => k.code == n)
def Place.code : Place → Nat
  | .hbm => 0 | .carrel => 1 | .extents => 2
def Place.ofCode (n : Nat) : Option Place := [Place.hbm, .carrel, .extents].find? (fun k => k.code == n)
def Triple.code : Triple → Nat
  | .fresh => 0 | .opened => 1 | .spent => 2
def Triple.ofCode (n : Nat) : Option Triple := [Triple.fresh, .opened, .spent].find? (fun k => k.code == n)

/-- Share roles (Table 6.2). -/
def roleShare : Nat := 1
def roleOpening : Nat := 2
def roleTriple : Nat := 3
def roleReveal : Nat := 4
def roleCmp : Nat := 5
/-- Components a role requires. -/
def roleComps (r : Nat) : Nat := if r = 2 then 2 else if r = 3 ∨ r = 5 then 3 else 1
/-- A role is secret. -/
def roleSecret (r : Nat) : Bool := r == 1 || r == 3 || r == 5

/-- Key kinds (Table 3.1). -/
def kRelin : Nat := 1
def kGalois : Nat := 2
def kSwitch : Nat := 3
def kBoot : Nat := 4
def kLweks : Nat := 5

/-- The state byte (Table 7.3). -/
def Card.stateByte (c : Card) : Nat :=
  bitmap 5 (fun i => match i with | 0 => c.poison | 1 => c.secret | 2 => c.raised | 3 => c.damaged | _ => c.pending)

/-- Bytes 64 to 127 (Table 7.4). -/
def Card.tail (c : Card) : List Byte :=
  match c.kind with
  | .key => [b8 c.keyKind, 0] ++ leBytes 2 c.keyIndex ++ leBytes 4 c.aux ++ leBytes 8 c.target
      ++ (List.range 4).flatMap (fun i => leBytes 8 (c.extents.getD i 0)) ++ (List.range 4).flatMap (fun i => leBytes 4 (c.pages.getD i 0))
  | .lwe => leBytes 2 c.lweDim ++ zeros 62
  | .share => [b8 c.role, b8 c.frac, b8 c.bound, b8 c.triple.code] ++ leBytes 2 c.opening ++ leBytes 2 c.noiseX
      ++ leBytes 2 c.noiseY ++ [b8 c.fracX] ++ zeros 53
  | .clear => [b8 c.rank, 0, 0, 0] ++ (List.range 4).flatMap (fun i => leBytes 4 (c.dims.getD i 0))
      ++ (List.range 4).flatMap (fun i => leBytes 4 (c.pitch.getD i 0)) ++ zeros 28
  | _ => zeros 64

/-- The 128 bytes of a card (Table 7.1). -/
def Card.bytes (c : Card) : List Byte :=
  [b8 c.kind.code, b8 c.scheme, b8 (c.elem.code + 16 * c.layout.code), b8 c.stateByte] ++ leBytes 4 c.set
    ++ [b8 c.level, b8 c.comps, b8 c.limbs, b8 c.place.code] ++ leBytes 2 c.noise ++ leBytes 2 c.floor ++ leBytes 8 c.scale
    ++ leBytes 8 c.accession ++ leBytes 8 c.base ++ leBytes 8 c.capacity ++ [b8 (c.mode + 4 * c.readers), b8 c.wing]
    ++ leBytes 2 c.polys ++ leBytes 4 c.count ++ leBytes 8 c.fill ++ c.tail

/-- The card that 128 bytes spell, when every code in them is defined. -/
def Card.parse (b : List Byte) : Option Card :=
  match CardKind.ofCode (fld b 0 1), Elem.ofCode (fld b 2 1 % 16), Layout.ofCode (fld b 2 1 / 16), Place.ofCode (fld b 11 1) with
  | some k, some e, some l, some p =>
    let st := fld b 3 1
    let c : Card :=
      { kind := k, scheme := fld b 1 1, elem := e, layout := l, poison := st.testBit 0, secret := st.testBit 1
        raised := st.testBit 2, damaged := st.testBit 3, pending := st.testBit 4, set := fld b 4 4, level := fld b 8 1
        comps := fld b 9 1, limbs := fld b 10 1, place := p, noise := fld b 12 2, floor := fld b 14 2, scale := fld b 16 8
        accession := fld b 24 8, base := fld b 32 8, capacity := fld b 40 8, mode := fld b 48 1 % 4
        readers := fld b 48 1 / 4 % 16, wing := fld b 49 1, polys := fld b 50 2, count := fld b 52 4, fill := fld b 56 8 }
    match k with
    | .key => some { c with
        keyKind := fld b 64 1, keyIndex := fld b 66 2, aux := fld b 68 4, target := fld b 72 8
        extents := (List.range 4).map (fun i => fld b (80 + 8 * i) 8), pages := (List.range 4).map (fun i => fld b (112 + 4 * i) 4) }
    | .lwe => some { c with lweDim := fld b 64 2 }
    | .share =>
      match Triple.ofCode (fld b 67 1) with
      | some t => some { c with
          role := fld b 64 1, frac := fld b 65 1, bound := fld b 66 1, triple := t, opening := fld b 68 2
          noiseX := fld b 70 2, noiseY := fld b 72 2, fracX := fld b 74 1 }
      | none => none
    | .clear => some { c with
        rank := fld b 64 1, dims := (List.range 4).map (fun i => fld b (68 + 4 * i) 4)
        pitch := (List.range 4).map (fun i => fld b (84 + 4 * i) 4) }
    | _ => some c
  | _, _, _, _ => none

/-! Shapes -/

/-- No parameter set: the set of CLEAR cards. -/
def noSet : ParamSet := { scheme := 0, log2n := 0, split := false, packed := false, dnum := 0, t := 0, lweN := 0, qs := [], ps := [] }
/-- Ring dimension. -/
def ParamSet.n (p : ParamSet) : Nat := 2 ^ p.log2n
def ParamSet.L (p : ParamSet) : Nat := p.qs.length
def ParamSet.K (p : ParamSet) : Nat := p.ps.length
/-- Primes by chain index (R18). -/
def ParamSet.prime (p : ParamSet) (i : Nat) : Nat := (p.qs ++ p.ps).getD i 1
/-- CKKS, BGV or BFV. -/
def ParamSet.ring (p : ParamSet) : Bool := p.scheme == 1 || p.scheme == 2 || p.scheme == 3
/-- A context's parameter set. -/
def State.pset (s : State) (c id : Nat) : Option ParamSet := (s.ctx c).sets.get id
/-- A ring card. -/
def CardKind.ring : CardKind → Bool
  | .ciphertext => true | .plaintext => true | .poly => true | _ => false
/-- Words per coefficient per component: W (Table 8.3's symbols). -/
def wordsOf (split : Bool) (limbs : Nat) : Nat := if split then (limbs + 1) / 2 else limbs
/-- Positions of a limb: N, or the element count of a share. -/
def Card.positions (c : Card) (p : ParamSet) : Nat := if c.kind == .share then c.count else p.n
/-- Live limbs: to the level, or all of them (R214). -/
def Card.live (c : Card) : Nat := match c.kind with | .ciphertext => c.level + 1 | .plaintext => c.level + 1 | _ => c.limbs
/-- Bytes of one component's storage. -/
def Card.compBytes (c : Card) (p : ParamSet) : Nat := wordsOf p.split c.limbs * c.positions p * 8
/-- Elements of a SLOT card. -/
def Card.slotCount (c : Card) : Nat := prod (c.dims.take c.rank)
/-- Offset in elements of the flat index f of a SLOT card (R211, Table 8.3). -/
def slotOff : List Nat → List Nat → Nat → Nat
  | d :: ds, p :: ps, f => (f % d) * p + slotOff ds ps (f / d)
  | _, _, _ => 0
def Card.slotOff (c : Card) (f : Nat) : Nat := Machine.slotOff (c.dims.take c.rank) c.pitch f
/-- Bytes that a card's declared shape takes from its base (R204, R206). -/
def Card.span (c : Card) (p : ParamSet) : Nat :=
  match c.kind with
  | .lwe => c.count * (c.lweDim + 1) * 8
  | .clear => if c.slotCount = 0 then 0 else (c.slotOff (c.slotCount - 1) + 1) * c.elem.size
  | .key => 0
  | _ => c.polys * c.comps * c.compBytes p
/-- Position of a word within a component's limb array (Table 8.3): limb or pair `i` of position `k`. -/
def wordOff (l : Layout) (log2n W n i k : Nat) : Nat :=
  match l with
  | .coef => k * W + i
  | .tile16 =>
    let N2 := 2 ^ (log2n / 2)
    let r := k / N2
    let c := k % N2
    i * n + (r / 16 * (N2 / 16) + c / 16) * 256 + (r % 16) * 16 + c % 16
  | _ => i * n + k
/-- Byte address of a word: polynomial, component, limb (or pair), position. -/
def Card.wordAddr (c : Card) (p : ParamSet) (poly comp i k : Nat) : Nat :=
  c.base + (poly * c.comps + comp) * c.compBytes p + 8 * wordOff c.layout p.log2n (wordsOf p.split c.limbs) (c.positions p) i k

/-! Access -/

/-- A range touches a secret region of another context, or one being zero-filled (R165, R167, R171). -/
def State.foreign (s : State) (c a n : Nat) : Bool :=
  let hit (r : Region) : Bool := decide (r.base < a + n ∧ a < r.base + r.len ∧ 0 < n)
  s.ctxs.any (fun x => x.1 != c && x.2.regions.any hit) || s.zeroing a n
/-- An access of a context to a range is counted when it reaches for a secret region that is not the context's (R167). -/
def State.countForeign (s : State) (c a n : Nat) : State := if s.foreign c a n then s.count 2 1 else s
/-- A range lies wholly in one secret region of a context (R164). -/
def State.inSecret (s : State) (c a n : Nat) : Bool :=
  (s.ctx c).regions.any (fun r => decide (r.base ≤ a ∧ a + n ≤ r.base + r.len))
/-- A slot's key from a carrel address (State.slots). -/
def slotKey (a : Nat) : Nat := (a - carrelBase) / 0x80000 * 96 + carrelSlot a
def State.slot (s : State) (k : Nat) : Slot := s.slots.getD k {}
/-- Slots that a carrel range touches. -/
def slotsOf (a n : Nat) : List Nat :=
  if n = 0 then [] else (List.range ((a + n - 1) / 4096 + 1 - a / 4096)).map (fun i => slotKey ((a / 4096 + i) * 4096))
/-- The units that hold a range are READY (R405): every stack of device memory, every bay of carrels. -/
def State.rangeReady (s : State) (a n : Nat) : Bool :=
  if a < 2 ^ 40 then decide (n = 0) || (List.range 16).all (fun i => decide (i < a / 2 ^ 36 ∨ (a + n - 1) / 2 ^ 36 < i) || (s.stk i).ready)
  else (slotsOf a n).all (fun k => (s.bay (k / 96 / 16)).ready)
/-- The units that hold a card's storage are READY (R405). -/
def State.cardReady (s : State) (x : Card) : Bool :=
  if x.place == .extents then (List.range 4).all (fun i => (s.stk (4 * x.wing + i)).ready) else s.rangeReady x.base x.capacity
/-- A bay's partition size k of a placement entry, and its bound owner (Table 11.2). -/
def State.boundK (s : State) (bay : Nat) : Nat :=
  let e := (s.bay bay).entry.toNat
  if e.testBit 20 then 8 * bits e 24 4 else 0
/-- The carrel range lies in the context's bound partition (R67). -/
def State.inBound (s : State) (c a n : Nat) : Bool :=
  isCarrel a && isCarrel (a + n - 1) && decide (0 < n) && (slotsOf a n).all (fun k =>
    let bay := k / 96 / 16
    decide (96 ≤ k % 96 + s.boundK bay) && decide (bits (s.bay bay).entry.toNat 16 4 = c))
/-- Why a command of a context cannot reach a range, or the data in it (R59, R65, R217, R286). -/
def State.deny (s : State) (c a n : Nat) : Option Status :=
  match s.reach a n with
  | some e => some e
  | none => if s.foreign c a n then some .addressFault
            else if isCarrel a && !s.inBound c a n && (slotsOf a n).any (fun k => (s.slot k).secret) then some .addressFault
            else none
/-- Where a command's access to a range first fails, and why: the status and the offset within a card at `base` (R217, Table 7.12 `aux`). -/
def State.denied (s : State) (c base a n : Nat) : Option (Status × Nat) :=
  if (s.deny c a n).isNone then none else
    (List.range ((a + n - 1) / 4096 + 1 - a / 4096)).findSome? (fun i =>
      let lo := max a ((a / 4096 + i) * 4096)
      (s.deny c lo (min (a + n) ((a / 4096 + i + 1) * 4096) - lo)).map (fun e => (e, lo - base)))
/-- A range read by a command: its bytes, or the status and the offset within `base` (Table 7.12 `aux`). -/
def State.get (s : State) (c base a n : Nat) : Except (Status × Nat) (List Byte) :=
  match s.denied c base a n with
  | some e => .error e
  | none => if s.poisoned a n then .error (.uncorrectableMemory, 0) else .ok (s.bytes a n)
/-- A range that a command may write. -/
def State.can (s : State) (c base a n : Nat) : Except (Status × Nat) Unit :=
  match s.denied c base a n with
  | some e => .error e
  | none => .ok ()
/-- Every range of a list is read, in order. -/
def State.getAll (s : State) (c base : Nat) (l : List (Nat × Nat)) : Except (Status × Nat) Unit :=
  l.foldlM (fun _ r => (s.get c base r.1 r.2).map (fun _ => ())) ()
/-- Every range of a list may be written. -/
def State.canAll (s : State) (c base : Nat) (l : List (Nat × Nat)) : Except (Status × Nat) Unit :=
  l.foldlM (fun _ r => s.can c base r.1 r.2) ()
/-- The writes of one command, the later winning (R223 to R226): a poisoned block that they cover whole together is replaced, one that
they cover in part keeps its poison and its bytes. -/
def State.writeMany (s : State) (l : List (Nat × List Byte)) : State :=
  let whole (b : Nat) : Bool := (List.range 64).all (fun i => l.any (fun w => decide (w.1 ≤ 64 * b + i ∧ 64 * b + i < w.1 + w.2.length)))
  let gone := s.poison.filter (fun b => l.any (fun w => decide (64 * b < w.1 + w.2.length ∧ w.1 < 64 * b + 64)) && whole b)
  let s1 := gone.foldl (fun s b => ({ s with poison := s.poison.filter (· != b) } : State).repaired (64 * b) 64) s
  l.foldl (fun s w => s.write w.1 w.2) s1

/-- Half of a split word, or a whole word (Table 1.4). -/
def unpack (split : Bool) (i w : Nat) : Nat := if split then (if i % 2 = 0 then w % 2 ^ 32 else w / 2 ^ 32) else w
/-- The pair index of a limb. -/
def pairOf (split : Bool) (i : Nat) : Nat := if split then i / 2 else i

/-- Chain index of a card's limb (R18). -/
def Card.chain (cd : Card) (i : Nat) : Nat := if cd.kind == .poly then cd.level + i else i
/-- A word as an engine reads it: one that is not canonical gives an unspecified residue (R22); `a` tells the words apart. -/
def State.canon (s : State) (q a v : Nat) : Nat := if v < q then v else Config.free s.draw (2 ^ 60 + a) % q
/-- Residues of one limb as an engine reads them. -/
def State.limbAt (s : State) (cd : Card) (p : ParamSet) (poly comp i : Nat) : List Nat :=
  let q := if cd.kind == .share && p.scheme == 5 then 2 ^ 64 else p.prime (cd.chain i)
  (List.range (cd.positions p)).map (fun k =>
    let a := cd.wordAddr p poly comp (pairOf p.split i) k
    s.canon q (2 * a + i % 2) (unpack p.split i (s.num a 8)))

/-- The byte ranges of a component that hold the words of its first `k` limbs (R205): a run, or a piece at every position in `COEF`. -/
def Card.ranges (cd : Card) (p : ParamSet) (poly comp k : Nat) : List (Nat × Nat) :=
  let a := cd.base + (poly * cd.comps + comp) * cd.compBytes p
  let w := wordsOf p.split (min k cd.limbs)
  let all := wordsOf p.split cd.limbs
  if cd.layout == .coef && w != all then (List.range (cd.positions p)).map (fun i => (a + 8 * i * all, 8 * w))
  else [(a, w * cd.positions p * 8)]
/-- The byte ranges of a card's logical extent (R214). -/
def Card.extent (cd : Card) (p : ParamSet) : List (Nat × Nat) :=
  match cd.kind with
  | .key => []
  | .lwe => [(cd.base, cd.span p)]
  | .clear =>
    let z := cd.elem.size
    let d := max 1 (cd.dims.getD 0 1)
    if cd.pitch.getD 0 1 = 1 then (List.range (cd.slotCount / d)).map (fun r => (cd.base + z * cd.slotOff (r * d), z * d))
    else (List.range cd.slotCount).map (fun f => (cd.base + z * cd.slotOff f, z))
  | _ => (List.range cd.polys).flatMap (fun i => (List.range cd.comps).flatMap (fun j => cd.ranges p i j cd.live))

/-- The seeded c1 of an image, regenerated in coefficient form (R36). -/
def expandWords (fuel q need : Nat) (bs : List Byte) : List Nat :=
  match fuel, need with
  | 0, _ => []
  | _, 0 => []
  | f + 1, m + 1 =>
    let w := leNat (bs.take 8)
    if w < 2 ^ 64 / q * q then w % q :: expandWords f q m (bs.drop 8) else expandWords f q (m + 1) (bs.drop 8)

/-- The first `k` live limbs of one polynomial's component: residues by limb. No other limb is read (R97, R205). -/
def State.component (s : State) (c : Nat) (cd : Card) (p : ParamSet) (poly comp k : Nat) : Except (Status × Nat) (List (List Nat)) :=
  match s.getAll c cd.base (cd.ranges p poly comp (min k cd.live)) with
  | .error e => .error e
  | .ok _ => .ok ((List.range (min k cd.live)).map (fun i => s.limbAt cd p poly comp i))

/-- Every component of a ring or share card, its first `k` limbs. -/
def State.comps (s : State) (c : Nat) (cd : Card) (p : ParamSet) (poly k : Nat) : Except (Status × Nat) (List (List (List Nat))) :=
  (List.range cd.comps).mapM (fun j => s.component c cd p poly j k)

/-- A ciphertext's value at a level (R97): its limbs above are not read. -/
def State.ctOf (s : State) (c : Nat) (cd : Card) (p : ParamSet) (level : Nat) : Except (Status × Nat) Ct :=
  (s.comps c cd p 0 (level + 1)).map (fun v => { level := level, comps := v })

/-- The words of limbs packed for storage: by pair under SPLIT, else by limb. -/
def packLimbs (split : Bool) (limbs : List (List Nat)) : List (List Nat) :=
  if split then
    (List.range ((limbs.length + 1) / 2)).map (fun j =>
      let lo := limbs.getD (2 * j) []
      let hi := limbs.getD (2 * j + 1) []
      lo.zipIdx.map (fun x => x.1 + hi.getD x.2 0 * 2 ^ 32))
  else limbs

/-- One component is written: the words of its limbs at their positions (R205: no other word is touched). -/
def State.putComponent (s : State) (cd : Card) (p : ParamSet) (poly comp : Nat) (limbs : List (List Nat)) : State :=
  (packLimbs p.split limbs).zipIdx.foldl (fun s w =>
    match cd.layout with
    | .coef | .tile16 => w.1.zipIdx.foldl (fun s x => s.write (cd.wordAddr p poly comp w.2 x.2) (leBytes 8 x.1)) s
    | _ => s.write (cd.wordAddr p poly comp w.2 0) (w.1.flatMap (leBytes 8))) s

/-- One limb is written; under SPLIT the other half of its words stays, and is 0 where no limb has it (R20). -/
def State.putLimb (s : State) (cd : Card) (p : ParamSet) (poly comp i : Nat) (limb : List Nat) : State :=
  limb.zipIdx.foldl (fun s x =>
    let a := cd.wordAddr p poly comp (pairOf p.split i) x.2
    let old := s.num a 8
    let w := if p.split then (if i % 2 = 1 then old % 2 ^ 32 + x.1 * 2 ^ 32 else if i + 1 < cd.live then old / 2 ^ 32 * 2 ^ 32 + x.1 else x.1)
      else x.1
    s.write a (leBytes 8 w)) s

/-- Components are written into a card's polynomial. -/
def State.putComps (s : State) (c : Nat) (cd : Card) (p : ParamSet) (poly : Nat) (v : List (List (List Nat))) : Except (Status × Nat) State :=
  match s.canAll c cd.base (v.zipIdx.flatMap (fun x => cd.ranges p poly x.2 x.1.length)) with
  | .error e => .error e
  | .ok _ => .ok (v.zipIdx.foldl (fun s x => s.putComponent cd p poly x.2 x.1) s)

/-! SLOT elements -/

/-- Element f of a SLOT card as a bit pattern. -/
def State.slotElem (s : State) (c : Nat) (cd : Card) (f : Nat) : Except (Status × Nat) Nat :=
  (s.get c cd.base (cd.base + cd.elem.size * cd.slotOff f) cd.elem.size).map leNat
/-- Every element of a SLOT card in flat order, as bit patterns. -/
def State.slotElems (s : State) (c : Nat) (cd : Card) : Except (Status × Nat) (List Nat) := (List.range cd.slotCount).mapM (s.slotElem c cd)

/-- Padding positions of a row that starts at flat index f: element offsets with the fill (R223). -/
def Card.padding (cd : Card) (f : Nat) : List Nat :=
  let d := cd.dims.getD 0 1
  ((List.range ((d + 15) / 16 * 16 - d)).map (fun i => cd.slotOff f + (d + i) * cd.pitch.getD 0 1)).filter
    (fun o => decide ((o + 1) * cd.elem.size ≤ cd.capacity))

/-- LWE samples: a[0 … dim − 1], b. -/
def State.samples (s : State) (c : Nat) (cd : Card) : Except (Status × Nat) (List (List Nat)) :=
  let w := cd.lweDim + 1
  match s.get c cd.base cd.base (cd.count * w * 8) with
  | .error e => .error e
  | .ok _ => .ok ((List.range cd.count).map (fun m => (List.range w).map (fun e => s.num (cd.base + 8 * (m * w + e)) 8)))
def State.putSamples (s : State) (c : Nat) (cd : Card) (v : List (List Nat)) : Except (Status × Nat) State :=
  match s.can c cd.base cd.base (cd.count * (cd.lweDim + 1) * 8) with
  | .error e => .error e
  | .ok _ => .ok (s.write cd.base (v.flatMap (fun x => x.flatMap (leBytes 8))))

/-- The fill is canonical for every limb the card can hold (R216). -/
def fillOk (p : Option ParamSet) (cd : Card) : Bool :=
  match p with
  | none => decide (cd.fill < 2 ^ (8 * cd.elem.size)) && (cd.elem != .res30x2 || decide (cd.fill % 2 ^ 32 < 2 ^ 30 ∧ cd.fill / 2 ^ 32 < 2 ^ 30))
  | some p =>
    if cd.kind == .share && p.scheme == 5 then true else
    let m := ((List.range (max 1 cd.limbs)).map (fun i => p.prime (cd.chain i))).foldl min (2 ^ 62)
    if cd.elem == .res30x2 then
      decide (cd.fill % 2 ^ 32 < 2 ^ 30 ∧ cd.fill / 2 ^ 32 < 2 ^ 30 ∧ cd.fill % 2 ^ 32 < m ∧ cd.fill / 2 ^ 32 < m)
    else decide (cd.fill < m)

end Sys2Proof.Machine
end

