-- ==== Sys2Proof/Machine/Carrel.lean ====
section
/-! DEFINITION. Carrel slots: their tags, the requests for them, their grants and their ends (R64 to R66). -/

namespace Sys2Proof.Machine

/-- Bytes whose content an ending leaves open (Table 4.7: memory unspecified). -/
def State.scramble (s : State) (a n : Nat) : State :=
  if n = 0 ∨ (s.reach a n).isSome then s
  else ({ s with draw := s.draw + 1 }).write a (fit n (Config.freeBytes s.draw 1 n))
/-- Storage of a card: base and length. -/
def State.storageOf (s : State) (c : Nat) (cd : Card) : Nat × Nat :=
  match s.pset c cd.set with
  | some p => (cd.base, cd.span p)
  | none => (cd.base, if cd.kind == .clear then cd.span noSet else 0)
/-- A slot becomes empty: a secret one is zeroed first (R65). -/
def State.emptySlot (s : State) (k : Nat) : State :=
  let t := s.slot k
  let a := carrelBase + k / 96 * 0x80000 + k % 96 * 0x1000
  let s1 := if t.secret then s.clear a 4096 else s
  { s1 with slots := s1.slots.put k { t with full := false, n := 0, secret := false } }
/-- A stalled request can be granted now (R64): the slot's state and what others hold. -/
def Slot.grants (t : Slot) (r : SlotReq) : Bool :=
  match r.mode with
  | 1 => !t.full && t.granted.all (fun g => g.mode != 1)
  | 2 => t.full
  | 3 => t.full && decide ((t.granted.filter (fun g => g.mode == 3)).length < t.n)
  | _ => true
/-- The oldest stalled request that the slot's state allows is granted (R64). DEDUCED: requests that wait for the slot to be
full do not hold back the PUT that fills it. Log entry 61. -/
def State.grantNext (s : State) (k : Nat) : State :=
  let t := s.slot k
  match t.waiting.find? t.grants with
  | some r => { s with slots := s.slots.put k { t with granted := t.granted ++ [r], waiting := t.waiting.erase r } }
  | none => s
/-- A request reaches a slot (R64): granted at once when the slot allows it and no earlier one waits for the same grant. -/
def State.request (s : State) (k : Nat) (r : SlotReq) : State :=
  let t := s.slot k
  if t.grants r && (r.mode == 0 || !t.waiting.any t.grants) then
    { s with slots := s.slots.put k { t with granted := t.granted ++ [r] } }
  else { s with slots := s.slots.put k { t with waiting := t.waiting ++ [r] } }
/-- An owner's requests are all granted. -/
def State.allGranted (s : State) (who : Nat × Nat × Nat) : Bool := s.slots.all (fun p => p.2.waiting.all (fun r => r.who != who))
/-- An access of a slot ends (R64): a PUT sets it full, a TAKE counts down, and the last of a fill empties it. -/
def State.endAccess (s : State) (k : Nat) (r : SlotReq) : State :=
  let t := s.slot k
  if !t.granted.contains r then s else
  let t1 := { t with granted := t.granted.erase r }
  let s1 : State :=
    match r.mode with
    | 1 => { s with slots := s.slots.put k { t1 with full := true, n := max 1 r.n, secret := t1.secret || r.secret } }
    | 3 => { s with slots := s.slots.put k { t1 with n := t1.n - 1 } }
    | _ => { s with slots := s.slots.put k t1 }
  let t2 := s1.slot k
  if t2.full && t2.n == 0 && t2.granted.isEmpty then s1.emptySlot k else s1
/-- Every access an owner has ends (R64). -/
def State.endAccesses (s : State) (who : Nat × Nat × Nat) : State :=
  s.slots.foldl (fun s p => (p.2.granted.filter (fun r => r.who == who)).foldl (fun s r => s.endAccess p.1 r) s) s
/-- Accesses of an owner are withdrawn (R66): a TAKE leaves the count unchanged, an unfinished PUT leaves the slot empty with
unspecified words. -/
def State.dropAccess (s : State) (who : Nat × Nat × Nat) : State :=
  (s.slots.filter (fun p => p.2.granted.any (fun r => r.who == who) || p.2.waiting.any (fun r => r.who == who))).foldl
    (fun s p =>
      let t := s.slot p.1
      let put := t.granted.any (fun r => r.who == who && r.mode == 1)
      let a := carrelBase + p.1 / 96 * 0x80000 + p.1 % 96 * 0x1000
      let t1 := { t with granted := t.granted.filter (fun r => r.who != who), waiting := t.waiting.filter (fun r => r.who != who) }
      let s1 : State := { s with slots := s.slots.put p.1 t1 }
      if put then s1.scramble a 4096
      else if t1.full && t1.n == 0 && t1.granted.isEmpty && !t.granted.isEmpty then s1.emptySlot p.1 else s1) s

/-- Slot accesses of a stream entry carry this number. -/
def entryKey (n k : Nat) : Nat := n * 2 ^ 40 + k
def entryWho (c n k : Nat) : Nat × Nat × Nat := (c, 0, entryKey n k)


end Sys2Proof.Machine
end

