-- ==== Sys2Proof/Machine/Keys.lean ====
section
/-! DEFINITION. The geometry of keys and of their passes (R76 to R93): digits, stored blocks, subscription. -/

namespace Sys2Proof.Machine

/-- α = ⌈L/dnum⌉ (R77). -/
def ParamSet.alpha (p : ParamSet) : Nat := (p.L + p.dnum - 1) / p.dnum
/-- Chain indices of digit d that are present at a level (R77). -/
def ParamSet.digit (p : ParamSet) (level d : Nat) : List Nat :=
  (List.range (min ((d + 1) * p.alpha) (level + 1) - d * p.alpha)).map (· + d * p.alpha)
/-- Digits in use at a level: d′ (Table 4.3). -/
def ParamSet.digits (p : ParamSet) (level : Nat) : Nat := level / p.alpha + 1
/-- Bytes of a scratch slot: 12 × L × 8N, half that under SPLIT (R127, R133). -/
def scratchBytes (q : ParamSet) : Nat := 12 * q.L * (if q.split then 4 else 8) * q.n
/-- Gadget base exponent log2 B_g and length ℓ_g (Table 3.2). -/
def gadgetLog (aux : Nat) : Nat := bits aux 0 8
def gadgetLen (aux : Nat) : Nat := bits aux 8 8
/-- A hybrid key kind (R76). -/
def hybrid (k : Nat) : Bool := k == kRelin || k == kGalois || k == kSwitch
/-- A block of a key, in stream order (Table 3.3): digit, chain index or pair (row index for BOOT, m for LWEKS), component. -/
def blockOrder (p : ParamSet) (kind aux : Nat) : List (Nat × Nat × Nat) :=
  if hybrid kind then
    let w := wordsOf p.split (p.L + p.K)
    (List.range p.dnum).flatMap (fun d => (List.range w).flatMap (fun i => [(d, i, 0), (d, i, 1)]))
  else if kind = kBoot then
    (List.range (p.lweN * 2 * gadgetLen aux)).flatMap (fun r => [(r, 0, 0), (r, 0, 1)])
  else (List.range (2 ^ bits aux 16 8)).map (fun m => (m, 0, 0))
/-- Stored blocks in stream order: a seeded key stores no a block (R85). -/
def storedBlocks (p : ParamSet) (c : Card) : List (Nat × Nat × Nat) :=
  (blockOrder p c.keyKind c.aux).filter (fun b => !(c.seeded && b.2.2 == 1))
/-- Block size in bytes (Table 3.3). -/
def blockBytes (p : ParamSet) (kind aux : Nat) : Nat :=
  if kind = kLweks then gadgetLen aux * (p.lweN + 1) * 8 else p.n * 8
/-- Bytes between blocks of an extent (R85). -/
def blockStride (n : Nat) : Nat := (n + 255) / 256 * 256
/-- DPA of stored block k of a key card (R85). -/
def blockAddr (p : ParamSet) (c : Card) (k : Nat) : Nat :=
  c.extents.getD (k % 4) 0 + 0x10000 + k / 4 * blockStride (blockBytes p c.keyKind c.aux)
/-- A write from outside has changed stored block k (R86). -/
def Card.altersBlock (c : Card) (p : ParamSet) (k : Nat) : Bool :=
  let a := blockAddr p c k
  c.altered.any (fun w => decide (a ≤ 8 * w ∧ 8 * w < a + blockBytes p c.keyKind c.aux))
/-- Length that each extent must have (R85). -/
def extentBytes (p : ParamSet) (kind aux nb : Nat) : Nat :=
  0x10000 + (nb + 3) / 4 * blockStride (blockBytes p kind aux)
/-- A block takes part in a pass at a level (R77; with SPLIT a pair is read whole). -/
def takesPart (p : ParamSet) (kind level : Nat) (b : Nat × Nat × Nat) : Bool :=
  if hybrid kind then
    let ok (i : Nat) : Bool := decide (i ≤ level ∨ p.L ≤ i)
    decide (b.1 ≤ level / p.alpha) && (if p.split then ok (2 * b.2.1) || (ok (2 * b.2.1 + 1) && decide (2 * b.2.1 + 1 < p.L + p.K)) else ok b.2.1)
  else true
/-- Stored block numbers that a pass at a level reads, in stream order. -/
def passBlocks (p : ParamSet) (c : Card) (level : Nat) : List Nat :=
  ((storedBlocks p c).zipIdx.filter (fun x => takesPart p c.keyKind level x.1)).map (fun x => x.2)

/-- The replica group of a context on a wing (R268): serving bays whose entry admits it. -/
def State.group (s : State) (w c : Nat) : List Nat :=
  ((List.range 22).map (· + w * 22)).filter (fun i => s.bayUp i && (s.bay i).entry.getLsbD c)
/-- The bays of a wing that admit the context, in service or not. -/
def State.admitting (s : State) (w c : Nat) : List Nat :=
  ((List.range 22).map (· + w * 22)).filter (fun i => (s.bay i).entry.getLsbD c && (s.bay i).kind == .enabled)

/-- Every window entry of the module that is issued and not done on a wing, as context, stream, number. -/
def State.entriesOn (s : State) (w : Nat) : List (Nat × Nat × Nat × Entry) :=
  s.ctxs.flatMap (fun c => c.2.streams.flatMap (fun x =>
    if x.2.wing = w then x.2.window.map (fun e => (c.1, x.1, e.1, e.2)) else []))
/-- A command subscribes to a pass already. -/
def State.subscribed (s : State) (w c n k : Nat) : Bool :=
  (s.wing w).passes.any (fun p => p.2.subs.any (fun x => x.1 == c && x.2.1 == n && x.2.2.1 == k))
/-- A pass of a context closes early when every bay of the group that the context has there has joined (R92). -/
def State.closeEarly (s : State) (w c : Nat) (p : Pass) : Pass :=
  { p with closed := p.closed || (s.group w c).all (fun b => p.subs.any (fun x => x.2.2.2 == b)) }
/-- The passes of a wing are held against its groups again: a bay has left service, or the map has changed (R92). -/
def State.recheckPasses (s : State) (w : Nat) : State :=
  let x := s.wing w
  s.setWing w { x with passes := x.passes.map (fun q => (q.1, s.closeEarly w q.2.key.1 q.2)) }
/-- A refresh has primitives to run: they run on every bay of the group (R133). -/
def Entry.refreshing (e : Entry) : Bool := e.job.any (fun j => !j.prims.isEmpty)
/-- A command joins an open pass of its next key within the gather window, or opens one when fewer than 8 run (R91, R92). -/
def State.wantPass (s : State) (w c n k : Nat) (e : Entry) : State :=
  match e.keys, s.card c (e.keys.headD 0) with
  | h :: _, some cd =>
    if s.subscribed w c n k then s else
    match s.pset c cd.set with
    | none => s
    | some p =>
      let x := s.wing w
      let lvl := if hybrid cd.keyKind then e.level else 0
      let subs := (if e.refreshing then s.group w c else e.bay.toList).map (fun b => (c, n, k, b))
      match x.passes.find? (fun q => q.2.key == (c, h) && q.2.level == lvl && !q.2.closed && q.2.next == 0
          && decide (s.time.now < q.2.opened + q.2.window)) with
      | some q => (s.setWing w { x with passes := x.passes.put q.1 (s.closeEarly w c { q.2 with subs := q.2.subs ++ subs }) }).tallyWing w 15
      | none =>
        if 8 ≤ x.passes.length then s else
        let q : Pass :=
          { key := (c, h), level := lvl, opened := s.time.now, window := (s.ctx c).gather, closed := false, checked := false
            retried := false, next := 0, blocks := passBlocks p cd lvl, subs := subs }
        ((s.setWing w { x with passes := x.passes.put x.nextPass (s.closeEarly w c q), nextPass := x.nextPass + 1 }).tallyWing w 14).tallyWing w 15
  | _, _ => s
/-- Commands of a wing that wait for a pass take the places that are free. -/
def State.wantPasses (s : State) (w : Nat) : State :=
  (s.entriesOn w).foldl (fun s e =>
    if e.2.2.2.phase == .issued && e.2.2.2.fate.isNone then s.wantPass w e.1 e.2.1 e.2.2.1 e.2.2.2 else s) s
/-- A command leaves its passes; a pass without subscribers ends at once (Table 3.5). -/
def State.leavePasses (s : State) (w c n k : Nat) : State :=
  let x := s.wing w
  let ps := (x.passes.map (fun q => (q.1, { q.2 with subs := q.2.subs.filter (fun y => !(y.1 == c && y.2.1 == n && y.2.2.1 == k)) }))).filter
    (fun q => !q.2.subs.isEmpty)
  if s.subscribed w c n k then (s.setWing w { x with passes := ps }).wantPasses w else s

end Sys2Proof.Machine
end

