-- ==== Sys2Proof/Machine/Pieces.lean ====
section
/-! DEFINITION. How a bay runs a command: its division into pieces (R69), the engines' queues (R42), the accumulator tiles (R44 to R48),
the transposer (R49), working slots (R66, R67), LU's store (R72, R73), and the change of context (R70). -/

namespace Sys2Proof.Machine

/-- Commands that a bay runs (Table 7.9). -/
def bayOp (op : Nat) : Bool :=
  decide ((0x100 ≤ op ∧ op ≤ 0x110) ∨ (0x200 ≤ op ∧ op ≤ 0x202) ∨ (0x300 ≤ op ∧ op ≤ 0x304) ∨ (0x400 ≤ op ∧ op ≤ 0x403)
    ∨ op = 0x500 ∨ op = 0x501)
/-- Number of an engine; LU is none of a core's six (Table 2.1). -/
def engineCode : Engine → Nat
  | .mx => 0 | .nt => 1 | .px => 2 | .vc => 3 | .dm => 4 | .sa => 5 | .lu => 6

/-! Engines -/

def State.core (s : State) (i : Nat) : CoreUnit := s.cores.getD i {}
def State.setCore (s : State) (i : Nat) (x : CoreUnit) : State := { s with cores := s.cores.put i x }
def CoreUnit.eng (x : CoreUnit) (j : Nat) : Eng := x.engines.getD j {}
def CoreUnit.setEng (x : CoreUnit) (j : Nat) (g : Eng) : CoreUnit := { x with engines := x.engines.put j g }
/-- An engine takes a piece: it works on none, or its queue has room (R42). -/
def Eng.room (g : Eng) : Bool := g.now.isNone || decide (g.queue.length < 4)
def Eng.give (g : Eng) (p : Piece) : Eng := if g.now.isNone then { g with now := some p } else { g with queue := g.queue ++ [p] }
/-- Its piece is finished, and the next one of the queue begins. -/
def Eng.next (g : Eng) : Eng := { now := g.queue.head?, queue := g.queue.drop 1 }
/-- A command's pieces leave an engine. -/
def Eng.drop (g : Eng) (p : Piece) : Eng :=
  let q := { g with queue := g.queue.filter (· != p) }
  if g.now = some p then q.next else q
def Eng.pieces (g : Eng) : List Piece := g.now.toList ++ g.queue
/-- A command has a piece in an engine. -/
def State.hasPieces (s : State) (p : Piece) : Bool := s.cores.any (fun x => x.2.engines.any (fun g => g.2.pieces.contains p))
/-- A bay has a piece in an engine. -/
def State.bayPieces (s : State) (bay : Nat) : Bool :=
  s.cores.any (fun x => x.1 / 16 == bay && x.2.engines.any (fun g => !g.2.pieces.isEmpty))

/-! The transposer (R49) -/

/-- A row is written; none while the bank's columns are not all read: the writer stalls. -/
def Bank.write (b : Bank) (row : List Nat) : Option Bank := if b.rows.length < 16 then some { b with rows := b.rows ++ [row] } else none
/-- The next column of a bank whose 16 rows are written; the last one leaves it empty. -/
def Bank.column (b : Bank) : Option (List Nat × Bank) :=
  if b.rows.length = 16 then
    some (b.rows.map (fun r => r.getD b.read 0), if b.read = 15 then {} else { b with read := b.read + 1 })
  else none
/-- The columns of a full bank, in order. -/
def Bank.columns (fuel : Nat) (b : Bank) : List (List Nat) :=
  match fuel, b.column with
  | f + 1, some (c, r) => c :: Bank.columns f r
  | _, _ => []
/-- A tile of 16 rows through a bank: its 16 columns. -/
def transposer (rows : List (List Nat)) : List (List Nat) :=
  match rows.foldlM Bank.write ({} : Bank) with
  | some b => b.columns 16
  | none => []
/-- PX fills a bank for each of its first two pieces that has none: the other bank accepts rows while one is read. -/
def CoreUnit.fillBanks (x : CoreUnit) (draw : Nat) : CoreUnit :=
  let n := min 2 (x.eng 2).pieces.length
  let tile (j : Nat) : List (List Nat) := (List.range 16).map (fun r => (List.range 16).map (fun t => Config.free draw (2 ^ 50 + j * 256 + r * 16 + t) % 2 ^ 64))
  { x with banks := x.banks ++ ((List.range n).drop x.banks.length).map (fun j => ((tile j).foldlM Bank.write ({} : Bank)).getD {}) }

/-! Tiles (R44 to R48) -/

/-- A command's cards are secret: what it puts into tiles is (R48, R55). -/
def State.holdsSecret (s : State) (c : Nat) (e : Entry) : Bool := (e.reads ++ e.writes).any (fun h => (s.card c h).any (fun x => x.secret))
def freeWords (draw salt bound : Nat) : List Nat := (List.range 256).map (fun i => Config.free draw (2 ^ 51 + salt * 256 + i) % bound)
def CoreUnit.freeTiles (x : CoreUnit) : List Nat := (List.range 16).filter (fun j => (x.tiles.getD j {}).owner.isNone)
def CoreUnit.holds (x : CoreUnit) (p : Piece) : Bool := x.tiles.any (fun t => t.2.owner == some p)
/-- Tiles of a core are assigned to a command with its first MX piece there, their contents undefined; none when too few are free (R44). -/
def State.assignTiles (s : State) (i : Nat) (p : Piece) (want : Nat) (secret : Bool) : Option State :=
  let x := s.core i
  let js := x.freeTiles.take want
  if x.holds p then some s
  else if js.length < want then none
  else some (({ s with draw := s.draw + 1 } : State).setCore i { x with
    tiles := js.foldl (fun t j => t.put j { owner := some p, secret := secret, words := freeWords s.draw j (2 ^ 64) }) x.tiles })
/-- An accumulation sets a tile's tags when it has none, and leaves words of the internal form: below 2q, or a clear partial sum (R45, R46). -/
def Tile.accumulate (t : Tile) (draw j : Nat) (elem : Elem) (limb : Nat) (bound : Nat) : Tile :=
  { t with elem := some (t.elem.getD elem), limb := some (t.limb.getD limb), words := freeWords draw j bound }
/-- Every read out of a tile yields a canonical residue (R45). -/
def Tile.read (t : Tile) (q i : Nat) : Nat := t.words.getD i 0 % q
/-- A tile is released: zeroed when it held a secret value (R48). -/
def Tile.release (t : Tile) : Tile := { words := if t.secret then [] else t.words }
def CoreUnit.release (x : CoreUnit) (p : Piece) : CoreUnit :=
  { x with tiles := x.tiles.map (fun t => if t.2.owner = some p then (t.1, t.2.release) else t) }

/-! Working slots (R66, R67) -/

/-- A slot's partition under a bay entry: the context of a bound slot, or none for a working slot (R67, Table 11.2). -/
def slotOwner (entry : W64) (slot : Nat) : Option Nat :=
  let e := entry.toNat
  if e.testBit 20 ∧ 96 - 8 * bits e 24 4 ≤ slot then some (bits e 16 4) else none
/-- What the division of a command depends on (R69): the command and its cards. -/
def State.divisionKey (s : State) (c : Nat) (e : Entry) (step : Nat) : List Nat :=
  [e.cmd.op, e.cmd.imm, step] ++ (e.reads ++ e.writes).flatMap (fun h => match s.card c h with
    | some x => x.bytes.map (fun b => b.toNat)
    | none => [])
/-- Slots held by commands in flight. -/
def State.heldSlots (s : State) : List Nat :=
  s.ctxs.flatMap (fun c => c.2.streams.flatMap (fun x => x.2.window.flatMap (fun e => e.2.work)))
/-- The slots of the working partition of a bay's enabled cores that nothing uses. -/
def State.workingFree (s : State) (bay : Nat) : List Nat :=
  let held := s.heldSlots
  ((List.range 16).filter (fun j => (s.bay bay).cores.testBit j)).flatMap (fun j =>
    ((List.range (96 - s.boundK bay)).map (fun q => (bay * 16 + j) * 96 + q)).filter (fun k =>
      !held.contains k && !(s.slot k).full && (s.slot k).granted.isEmpty && (s.slot k).waiting.isEmpty))
def slotAddr (k : Nat) : Nat := carrelBase + k / 96 * 0x80000 + k % 96 * 0x1000
/-- Slots of the context's bound partitions on a wing that nothing uses and no card lies in (R134). -/
def State.boundFree (s : State) (w c : Nat) : List Nat :=
  let held := s.heldSlots ++ s.ctxs.flatMap (fun x => x.2.cards.flatMap (fun h =>
    if h.2.place == .carrel && isCarrel h.2.base then slotsOf h.2.base (max 1 h.2.capacity) else []))
  ((s.group w c).flatMap (fun b => ((List.range 16).filter (fun j => (s.bay b).cores.testBit j)).flatMap (fun j =>
    ((List.range 96).filter (fun q => slotOwner (s.bay b).entry q == some c)).map (fun q => (b * 16 + j) * 96 + q)))).filter (fun k =>
      !held.contains k && !(s.slot k).full && (s.slot k).granted.isEmpty && (s.slot k).waiting.isEmpty)
/-- Slots that hold three ciphertexts at level L − 1 (R134). -/
def refreshSlots (q : ParamSet) : Nat := (3 * 2 * wordsOf q.split q.L * 8 * q.n + 4095) / 4096
/-- Slots are taken for a command's own use: their words are open, and secret for a secret command (R65). -/
def State.takeSlotsFor (s : State) (ks : List Nat) (secret : Bool) : State :=
  ks.foldl (fun s k => (({ s with slots := s.slots.put k { s.slot k with secret := secret } } : State)).scramble (slotAddr k) 4096) s
/-- Slots return: empty, and zeroed after a fault or when secret (R65, R66). -/
def State.returnSlots (s : State) (ks : List Nat) (zero : Bool) : State :=
  ks.foldl (fun s k => (if zero && (s.reach (slotAddr k) 4096).isNone then s.clear (slotAddr k) 4096 else s).emptySlot k) s

/-! Giving pieces (R42, R69) -/

/-- The lowest enabled core. LU's queue is kept with it. -/
def Bay.firstCore (b : Bay) : Nat := ((List.range 16).filter (fun j => b.cores.testBit j)).headD 0
/-- The pieces of a command on the cores of some bays. -/
def State.divide (s : State) (bays : List Nat) (key : List Nat) : List Nat :=
  let cs := bays.flatMap (fun b => ((List.range 16).filter (fun j => (s.bay b).cores.testBit j)).map (fun j => b * 16 + j))
  (Config.division key cs.length).filterMap (fun v => (cs[v / 6 % max 1 cs.length]?).map (fun i => i * 8 + v % 6))
/-- Commands in flight on a bay, of every context. -/
def State.inFlight (s : State) (i : Nat) : Nat :=
  (s.entriesOn (i / 22)).countP (fun e => e.2.2.2.bay == some i && (e.2.2.2.phase == .pulled || e.2.2.2.phase == .issued))
/-- Working slots of a bay that a context leaves are emptied, secret ones zeroed (R65, R70). -/
def State.releaseWorking (s : State) (i : Nat) : State :=
  (s.slots.filter (fun p => p.1 / 96 / 16 == i && (slotOwner (s.bay i).entry (p.1 % 96)).isNone && (p.2.full || p.2.secret))).foldl
    (fun s p => s.emptySlot p.1) s
/-- Every tile of a bay, LU's store and the key buffer are zeroed (R48, R70). -/
def State.clearBay (s : State) (i : Nat) : State :=
  { s.setBay i { s.bay i with luStore := [], keyBuf := [] } with cores := s.cores.filter (fun x => x.1 / 16 != i) }
/-- A bay turns to a context: between contexts it releases working slots and zeroes its tiles and LU's store; none while work of another
one is left on it (R70). -/
def State.turnTo (s : State) (i c : Nat) : Option State :=
  if (s.bay i).ctx = some c then some s
  else if 0 < s.inFlight i ∨ s.bayPieces i then none
  else
    let t := ((s.releaseWorking i).clearBay i).tallyBay i 94
    some (t.setBay i { t.bay i with ctx := some c })
/-- The dimension of a lookup command's ring: that of its samples' set (R138). -/
def State.luRing (s : State) (p : Piece) : Nat :=
  match (s.entry p.ctx p.stream p.entry).bind (fun e => ((e.cmd.h.getD 0 none).bind (fun h => s.card p.ctx h)).bind (fun a => s.pset p.ctx a.set)) with
  | some q => q.n
  | none => 0
/-- Words of LU's accumulators, residues below 2^62 (R72): 2 · N_g of them for a command over a ring of N_g. -/
def freeStore (draw n : Nat) : List Nat := (List.range (2 * n)).map (fun i => Config.free draw (2 ^ 52 + i) % 2 ^ 62)
/-- One piece is given to its engine; none while the engine, its tiles or its bay do not take it. -/
def State.givePiece (s : State) (p : Piece) (want : Nat) (secret : Bool) (v : Nat) : Option State :=
  let i := v / 8
  if !((s.core i).eng (v % 8)).room then none else
  match s.turnTo (i / 16) p.ctx with
  | none => none
  | some t =>
    match if v % 8 = 0 then t.assignTiles i p want secret else some t with
    | none => none
    | some u =>
      let x := u.core i
      let u1 := ({ u with draw := u.draw + 1 } : State).setCore i ((x.setEng (v % 8) ((x.eng (v % 8)).give p)).fillBanks u.draw)
      some (if v % 8 = 6 then u1.setBay (i / 16) { u1.bay (i / 16) with luStore := freeStore u.draw (u.luRing p) } else u1)
/-- A command's pieces are given in order until one is not taken, or would pass an earlier command's on its bay. -/
def State.giveAll (s : State) (p : Piece) (want : Nat) (secret : Bool) (held : List Nat) : List Nat → State × List Nat
  | [] => (s, [])
  | v :: r =>
    if held.contains (v / 128) then (s, v :: r) else
    match s.givePiece p want secret v with
    | some t => t.giveAll p want secret held r
    | none => (s, v :: r)
/-- A command gives what it can; the bays that its other pieces wait for serve no later one before. -/
def State.servePiece (x : State × List Nat) (p : Piece) : State × List Nat :=
  match x.1.entry p.ctx p.stream p.entry with
  | none => x
  | some e =>
    if e.todo.isEmpty ∨ e.fate.isSome then x else
    let want := 1 + Config.share (x.1.divisionKey p.ctx e 0) 0 % 16
    let r := x.1.giveAll p want (x.1.holdsSecret p.ctx e) x.2 e.todo
    (r.1.setEntry p.ctx p.stream p.entry { e with todo := r.2 }, x.2 ++ r.2.map (· / 128))
/-- The sequencers of a wing fill the engines' queues in the order of issue (R42). -/
def State.serveWing (s : State) (w : Nat) : State := ((s.wing w).order.foldl State.servePiece (s, [])).1
/-- A command issues to its bay, or a refresh's primitive to every bay of its group (R133): it takes working slots, and its pieces. -/
def State.startPieces (s : State) (w c n k : Nat) (e : Entry) : State :=
  let p : Piece := ⟨c, n, k⟩
  let bays := if e.refreshing then s.group w c else e.bay.toList
  let key := s.divisionKey c e ((e.job.map (fun j => j.prims.length)).getD 0)
  let own := match e.bay with
    | some b => if e.work.isEmpty then (s.workingFree b).take (Config.share key 1 % ((s.workingFree b).length + 1)) else []
    | none => []
  let s1 := s.takeSlotsFor own (s.holdsSecret c e)
  let lu := if e.cmd.op = 0x201 then (e.bay.map (fun b => (b * 16 + (s1.bay b).firstCore) * 8 + 6)).toList else []
  let s2 := s1.setEntry c n k { e with todo := lu ++ s1.divide bays key, work := e.work ++ own }
  let x := s2.wing w
  (s2.setWing w { x with order := x.order.filter (· != p) ++ [p] }).serveWing w

/-! Ends -/

/-- The words that an MX piece leaves in its command's tiles. -/
def State.accumulated (s : State) (i : Nat) (p : Piece) : CoreUnit :=
  let x := s.core i
  match s.entry p.ctx p.stream p.entry, (s.entry p.ctx p.stream p.entry).bind (fun e => ((e.reads ++ e.writes).head?).bind (s.card p.ctx)) with
  | some _, some cd =>
    let limb := Config.free s.draw (2 ^ 49) % max 1 cd.live
    let q := ((s.pset p.ctx cd.set).map (fun z => 2 * z.prime (cd.chain limb))).getD (2 ^ 64)
    let bound := if cd.elem = .res64 ∨ cd.elem = .res30x2 then q else 2 ^ 64
    { x with tiles := x.tiles.map (fun t => if t.2.owner = some p then (t.1, t.2.accumulate s.draw t.1 cd.elem limb bound) else t) }
  | _, _ => x
/-- An engine's piece is finished (R69): tiles hold its accumulation, a transposer bank has been read, and the queues move on. -/
def State.pieceDone (s : State) (i j : Nat) (p : Piece) : State :=
  let x := if j = 0 then s.accumulated i p else s.core i
  let y := if j = 2 then { x with banks := x.banks.drop 1 } else x
  (({ s with draw := s.draw + 1 } : State).setCore i ((y.setEng j (y.eng j).next).fillBanks s.draw)).serveWing (i / 16 / 22)
/-- The pieces in an engine of a withdrawn core go back to their commands, for another core of the bay (R71). DESIGN CHOICE, log entry
74: R71 says that the bay continues, not where those pieces run. -/
def State.dropCore (s : State) (i : Nat) : State :=
  let heir := ((List.range 16).filter (fun j => (s.bay (i / 16)).cores.testBit j && i % 16 != j)).headD 0
  let ps := (s.core i).engines.flatMap (fun g => g.2.pieces.map (fun p => (g.1, p)))
  let s1 := ps.reverse.foldl (fun s q => match s.entry q.2.ctx q.2.stream q.2.entry with
    | some e => s.setEntry q.2.ctx q.2.stream q.2.entry { e with todo := ((i / 16 * 16 + heir) * 8 + q.1) :: e.todo.map (fun v =>
        if v / 8 = i then (i / 16 * 16 + heir) * 8 + v % 8 else v) }
    | none => s) s
  let moved (h : Channel) : Channel := match h.chain with
    | some x => if x.core = some i then { h with chain := some { x with core := some (i / 16 * 16 + heir) } } else h
    | none => h
  ({ s1 with
    cores := s1.cores.filter (fun x => x.1 != i)
    wings := s1.wings.map (fun w => (w.1, { w.2 with chans := w.2.chans.map (fun h => (h.1, moved h.2)) })) } : State).serveWing (i / 16 / 22)
/-- A command leaves its bay: its pieces, tiles and working slots are released (R44, R48, R66, R67), and LU's store is zeroed (R73). -/
def State.endPieces (s : State) (w c n k : Nat) (e : Entry) (ok : Bool) : State :=
  let p : Piece := ⟨c, n, k⟩
  let s1 : State := { s with cores := s.cores.map (fun x => (x.1, { (x.2.release p) with
    engines := x.2.engines.map (fun g => (g.1, g.2.drop p)), banks := if (x.2.eng 2).pieces.contains p then [] else x.2.banks })) }
  let s2 := s1.returnSlots e.work (!ok || s.holdsSecret c e)
  let s3 := match e.bay with
    | some b => if e.cmd.op = 0x201 then s2.setBay b { s2.bay b with luStore := [] } else s2
    | none => s2
  let s4 := match s3.entry c n k with
    | some e1 => s3.setEntry c n k { e1 with todo := [], work := [] }
    | none => s3
  let x := s4.wing w
  (s4.setWing w { x with order := x.order.filter (· != p) }).serveWing w

end Sys2Proof.Machine
end

