-- ==== Sys2Proof/Machine/Finish.lean ====
section
/-! DEFINITION. How commands end: counters and conditions (R244 to R263), signals (R254), completion records (R198, R199),
what a command leaves behind (Table 4.7), hazards and the layer rule (R196, R242), and stops (R200). -/

namespace Sys2Proof.Machine

/-! Counters -/

/-- A condition holds (Table 10.3). -/
def condHolds (cond : Nat) (c v : W64) : Bool :=
  match cond with
  | 0 => c == v | 1 => c != v | 2 => decide (c < v) | 3 => decide (c ≤ v) | 4 => decide (v < c) | 5 => decide (v ≤ c)
  | 6 => (c &&& v) != 0 | _ => false
def State.vsync (s : State) (c id : Nat) : Option VSync := (s.ctx c).sync.get id
def State.setVsync (s : State) (c id : Nat) (v : VSync) : State :=
  s.setCtx c { s.ctx c with sync := (s.ctx c).sync.mod id (fun _ => v) }
/-- A home is lost: its bay has left service, or its wing is lost (R248). -/
def State.homeLost (s : State) (home : Nat) : Bool :=
  let w := bits home 13 2
  (s.wing w).lost || (!home.testBit 15 && ((s.bay (w * 22 + bits home 8 5)).gone || (s.bay (w * 22 + bits home 8 5)).kind != .enabled))
/-- A mapped counter is lost: its home is, or was since it was mapped (R248). -/
def State.counterLost (s : State) (v : VSync) : Bool := v.lost || s.homeLost v.home
/-- An ID of a context names a lost counter. -/
def State.lostId (s : State) (c id : Nat) : Bool := (s.vsync c id).any s.counterLost
/-- The value a counter reads as (Table 10.5 for arrivals; G for a generation counter). -/
def State.syncValue (s : State) (c id : Nat) : W64 :=
  match s.vsync c id with
  | none => 0
  | some v =>
    match v.kind with
    | 1 => BitVec.ofNat 64 (v.a + v.h * 2 ^ 16 + v.e * 2 ^ 32 + if v.broken then 2 ^ 63 else 0)
    | 2 => ((s.vsync c (id - 1)).map (fun x => x.value)).getD 0
    | _ => v.value
/-- A watch ends: its command completes (R253). -/
def State.endWatch (s : State) (c : Nat) (w : Watch) (st : Status) (res : List Byte) : State :=
  (s.setCtx c { s.ctx c with watches := (s.ctx c).watches.erase w }).completeAs w.owed st res
/-- Waits and watches on an ID are evaluated (R250). -/
def State.wake (s : State) (c id : Nat) : State :=
  let v := s.syncValue c id
  let x := s.ctx c
  let s1 := s.setCtx c { x with
    streams := x.streams.map (fun t => (t.1, match t.2.wait with
      | some w => if w.id = id ∧ condHolds w.cond v w.value then { t.2 with wait := some { w with satisfied := true } } else t.2
      | none => t.2)) }
  (x.watches.filter (fun w => w.id == id && condHolds w.cond v w.value)).foldl
    (fun s w => s.endWatch c w .ok (leBytes 8 v.toNat)) s1
/-- One update at a counter's home (R249); a signal to an unmapped, lost or barrier ID is dropped and counted (R248, R258). -/
def State.update (s : State) (c id : Nat) (set : Bool) (v : W64) : State :=
  match s.vsync c id with
  | some x =>
    if x.kind ≠ 0 ∨ s.counterLost x then s.count 3 1
    else (s.setVsync c id { x with value := if set then v else x.value + v }).wake c id
  | none => s.count 3 1

/-! What a command leaves behind -/

/-- A card of the context is changed where it stands. -/
def State.modCard (s : State) (c h : Nat) (f : Card → Card) : State :=
  match s.card c h with
  | some x => s.setCard c h (f x)
  | none => s
/-- Every card that a command writes is PENDING from its issue until it completes (R178). -/
def State.markPending (s : State) (c : Nat) (e : Entry) (on : Bool) : State :=
  e.writes.foldl (fun s h => s.modCard c h (fun x => { x with pending := on })) s
/-- Destinations become poisoned (R121). -/
def State.poisonCards (s : State) (c : Nat) (hs : List Nat) : State :=
  hs.foldl (fun s h => s.modCard c h (fun x => { x with poison := true })) s
/-- Triples whose state a command changed at issue are spent and zeroed when it aborts or faults (R162). -/
def tripleOf (e : Entry) : List Nat :=
  let ph := e.cmd.imm % 4
  if e.cmd.op = 0x301 then ((e.cmd.h.getD 3 none).toList)
  else if e.cmd.op = 0x303 ∧ ph = 0 then (e.cmd.h.getD 1 none).toList
  else if e.cmd.op = 0x303 ∧ ph = 1 then (e.cmd.h.getD 3 none).toList
  else []
/-- A card's storage is zeroed. -/
def State.wipeCard (s : State) (c h : Nat) : State :=
  match s.card c h with
  | some x => let r := s.storageOf c x
              if (s.reach r.1 r.2).isSome then s else s.write r.1 (zeros r.2)
  | none => s
/-- The fault row of Table 4.7 with R162's additions: the positions of the destinations' logical extents hold open values (R205, R214). -/
def State.faultRow (s : State) (c : Nat) (e : Entry) : State :=
  let s1 := e.dests.foldl (fun s h => match s.card c h with
    | some x => (x.extent ((s.pset c x.set).getD noSet)).foldl (fun s r => s.scramble r.1 r.2) s
    | none => s) s
  (tripleOf e).foldl (fun s h => (s.wipeCard c h).modCard c h (fun x => { x with triple := .spent })) (s1.poisonCards c e.dests)

/-! Records -/

/-- A completion record's first 31 bytes (Table 7.12). -/
def recordBytes (tag : Nat) (st : Status) (isEnd : Bool) (stream op iter noise level : Nat) (r : Rec) : List Byte :=
  leBytes 2 tag ++ [b8 st.code, b8 (1 + (if isEnd then 2 else 0) + (if r.fpValid then 4 else 0) + (if r.cValid then 8 else 0)
      + if r.aValid then 16 else 0), b8 stream, 0] ++ leBytes 2 op ++ leBytes 4 iter ++ leBytes 2 noise
    ++ [b8 level, b8 r.fpflags] ++ leBytes 6 (min r.count (2 ^ 48 - 1)) ++ leBytes 6 r.aux ++ leBytes 3 (min r.dropped (2 ^ 24 - 1))
/-- Noise and level of the card at handle 2 (Table 7.12). -/
def State.recordCard (s : State) (c : Nat) (h : Option Nat) : Nat × Nat :=
  match h.bind (fun x => s.card c x) with
  | some x => if x.kind == .ciphertext || x.kind == .lwe || x.kind == .share then (x.noise, x.level) else (0, 0xFF)
  | none => (0, 0xFF)
/-- A record is handed to the stream's mailbox (R198); none when the mailbox was reset, or the context is being wiped (R171). -/
def State.record (s : State) (c n : Nat) (x : Stream) (body : List Byte) (frees : Option (Nat × Nat × Option Nat)) : State :=
  let m := portIx x.port
  if (s.mb m).epoch ≠ x.epoch ∨ (s.ctx c).wiping then s.freed frees else s.post m { body := body, frees := frees }
/-- A command's record at a stream: its status, the card at handle 2, its own fields. -/
def State.cmdRecord (s : State) (c n : Nat) (x : Stream) (cmd : SCmd) (iter : Nat) (st : Status) (r : Rec)
    (frees : Option (Nat × Nat × Option Nat)) : State :=
  let nl := s.recordCard c (cmd.h.getD 2 none)
  s.record c n x (recordBytes cmd.tag st false n cmd.op iter nl.1 nl.2 r) frees
/-- The signal of a command is an attached one: a `dm.go` on a channel of the context with a Golat port (R257). -/
def State.attached (s : State) (c w : Nat) (cmd : SCmd) : Bool :=
  cmd.op == 0x502 && (s.chan w (bits cmd.imm 48 8)).any (fun h => h.ctx == c && h.port.isSome)
/-- A signal spec is delivered (R199, R254); an attached one travels with its transfer or not at all (R257). -/
def State.signal (s : State) (c w : Nat) (cmd : SCmd) : State :=
  if cmd.signal ∧ !s.attached c w cmd then s.update c cmd.sigId false (BitVec.ofNat 64 cmd.delta) else s

/-! Hazards -/

/-- Two commands conflict (R196). -/
def conflicts (a b : Entry) : Bool :=
  a.writes.any (fun h => b.reads.contains h || b.writes.contains h) || b.writes.any (fun h => a.reads.contains h)
/-- A command's last piece has been given to an engine queue (R242, R42): no key and no primitive of a refresh is to come, and no piece. -/
def Entry.given (e : Entry) : Bool := e.phase == .issued && e.keys.isEmpty && !e.refreshing && e.todo.isEmpty
/-- Entry k of a stream may issue (R194, R196, R242, R260). -/
def Stream.ready (x : Stream) (k : Nat) (e : Entry) : Bool :=
  let earlier := x.window.filter (fun p => decide (p.1 < k) && p.2.phase != .done)
  earlier.all (fun p => !conflicts p.2 e)
    && (!(e.cmd.fence || e.cmd.op == 0x012) || earlier.isEmpty)
    && (if e.prologue then
          earlier.all (fun p => decide (e.layer ≤ p.2.layer) || (decide (p.2.layer + 1 = e.layer) && p.2.given))
        else earlier.all (fun p => decide (e.layer ≤ p.2.layer)))
/-- Commands of a stream whose hazards have cleared enter the wing's issue queue of the context (R273). -/
def State.enqueue (s : State) (c n : Nat) : State :=
  match s.stream c n with
  | none => s
  | some x =>
    let ks := (x.window.filter (fun p => p.2.phase == .waiting && bayOp p.2.cmd.op && x.ready p.1 p.2)).map (fun p => p.1)
    let w := s.wing x.wing
    let s1 := s.setStream c n { x with window := x.window.map (fun p => if ks.contains p.1 then (p.1, { p.2 with phase := .queued }) else p) }
    s1.setWing x.wing { w with queues := w.queues.put c (w.queues.getD c [] ++ ks.map (fun k => (n, k))) }
/-- A command leaves the issue queue. -/
def State.unqueue (s : State) (w c n k : Nat) : State :=
  let x := s.wing w
  s.setWing w { x with queues := x.queues.put c ((x.queues.getD c []).filter (fun q => q != (n, k))) }

/-! Ends -/

/-- A command's completion as such: its place, passes, slots, pieces, record and window place (R195, R199). -/
def State.close (s : State) (c n k : Nat) (e : Entry) (st : Status) : State :=
  match s.stream c n with
  | none => s
  | some x =>
    let s1 := (((s.unqueue x.wing c n k).setEntry c n k { e with phase := .done, keys := [] }).leavePasses x.wing c n k).dropAccess (entryWho c n k)
    let s1 := if e.phase == .issued then (s1.markPending c e false).endPieces x.wing c n k e (st == .ok) else s1
    let s1 := if st == .stopped ∨ e.phase ≠ .issued then s1
      else let s3 := s1.tallyWing x.wing 12; match e.bay with | some b => s3.tallyBay b 92 | none => s3
    let s2 := if st == .stopped then s1 else s1.signal c x.wing e.cmd
    if e.cmd.complete || (st != .ok && st != .skipped) then s2.cmdRecord c n x e.cmd e.iter st e.out (some (c, n, some k))
    else s2.freed (some (c, n, some k))
/-- A draining stream whose last command has completed posts its end record (R182, R198). -/
def State.endStream (s : State) (c n : Nat) : State :=
  match s.stream c n with
  | none => s
  | some x =>
    if x.state == .draining && !x.ended && x.window.all (fun p => p.2.phase == .done) then
      let s1 := s.setStream c n { x with ended := true }
      s1.record c n x (recordBytes 0 (x.stop.getD .ok) true n 0 0 0 0xFF {}) (some (c, n, none))
    else s
/-- Commands that have not issued complete with STOPPED (R200). -/
def State.dropUnissued (s : State) (c n : Nat) : State :=
  match s.stream c n with
  | none => s
  | some x => (x.window.filter (fun p => p.2.phase != .issued && p.2.phase != .done)).foldl (fun s p => s.close c n p.1 p.2 .stopped) s
/-- A stream stops (R200): the first stop decides the status of its end record. -/
def State.stopStream (s : State) (c n : Nat) (st : Status) : State :=
  match s.stream c n with
  | none => s
  | some x =>
    let s1 := s.setStream c n { x with state := .draining, stop := some (x.stop.getD st), wait := none, loops := [], releases := [] }
    (s1.dropUnissued c n).endStream c n
/-- A command completes with a status (R199), HALT stops its stream (R200), and what waited for it moves on. -/
def State.finish (s : State) (c n k : Nat) (e : Entry) (st : Status) : State :=
  let s1 := s.close c n k e st
  let s2 := if e.cmd.halt && st != .ok && st != .skipped then s1.stopStream c n st else s1
  (s2.enqueue c n).endStream c n
/-- A stage-issued command ends by a fault of its own: the fault row, then its completion. -/
def State.failEntry (s : State) (c n k : Nat) (e : Entry) (st : Status) : State :=
  (s.faultRow c e).finish c n k e st
/-- The first event that ends a command decides its status; it leaves its passes. -/
def State.setFate (s : State) (c n k : Nat) (st : Status) : State :=
  match s.entry c n k, s.stream c n with
  | some e, some x =>
    if e.phase == .issued && e.fate.isNone then (s.setEntry c n k { e with fate := some st }).leavePasses x.wing c n k else s
  | _, _ => s

/-! Barriers -/

/-- A barrier breaks: an event, and every stream of its context stops (R262). -/
def State.breakBarrier (s : State) (c b : Nat) (v : VSync) : State :=
  let s1 := (s.setVsync c b { v with broken := true }).wake c b
  let s2 := s1.event .barrierOverrun 0x0E c (leBytes 2 b ++ leBytes 4 (v.value.toNat % 2 ^ 32))
  ((s2.ctx c).streams.map (fun t => t.1)).foldl (fun s n => s.stopStream c n .barrierOverrun) s2
/-- A full generation advances, and again while the held arrivals fill the next (R261): a wait on the generation sees each one, a wait
on the arrivals only the A that is left, since Table 10.4 leaves no A = E (DEDUCED, log entry 67). -/
def State.advance (s : State) (c b fuel : Nat) : State :=
  match fuel, s.vsync c b with
  | f + 1, some v =>
    if v.a = v.e then
      let s1 := s.setVsync c b { v with value := v.value + 1, a := v.h, h := 0 }
      (s1.wake c (b + 1)).advance c b f
    else s
  | _, _ => s
/-- An arrival is applied by generation distance (Table 10.4). -/
def State.arrive (s : State) (c b g : Nat) : State × Status :=
  match s.vsync c b with
  | none => (s, .badParameter)
  | some v =>
    if s.counterLost v then (s, .unitAbsent) else
    let d := (g + 2 ^ 32 - v.value.toNat % 2 ^ 32) % 2 ^ 32
    if v.broken then (s, .barrierOverrun)
    else if d = 0 then ((((s.setVsync c b { v with a := v.a + 1 }).advance c b 2).wake c b), .ok)
    else if d = 1 ∧ v.h + 1 ≤ v.e then (((s.setVsync c b { v with h := v.h + 1 }).wake c b), .ok)
    else (s.breakBarrier c b v, .barrierOverrun)

end Sys2Proof.Machine
end

