-- ==== Sys2Proof/Machine/Flits.lean ====
section
/-! DEFINITION. Golat flits as a port puts them in slots (R314 to R317): encoding, credits, sequence numbers, link control. -/

namespace Sys2Proof.Machine

/-- Credit class of a flit type (R315): 0 posted, 1 request, 2 response. -/
def flitClass (t : Nat) : Nat := if t = 3 then 1 else if t = 4 ∨ t = 8 then 2 else 0
/-- `NULL` and `LCTRL` are unsequenced (R314). -/
def unsequenced (t : Nat) : Bool := t == 0 || t == 0xB
/-- A flit of a transfer's data or signal, as its sender hands it over. -/
def flitOf (t : Nat) (poison : Bool) (window transfer index : Nat) (payload : List Byte) : Flit :=
  { ftype := t, poison := poison, window := window, transfer := transfer, index := index, ndesc := 0, payload := payload, seq := 0 }
/-- The 272 bytes of a flit (Tables 13.5, 13.6), with the acknowledgement and the credits it returns. -/
def flitBytes (f : Flit) (ack cls n : Nat) : List Byte :=
  let head := f.ftype % 16 + (if f.poison then 16 else 0) + f.window % 256 * 2 ^ 8 + f.transfer % 2 ^ 16 * 2 ^ 16 + f.index % 2 ^ 32 * 2 ^ 32
  let b := leBytes 8 head ++ fit 256 f.payload ++ leBytes 4 (f.seq % 4096 + ack % 4096 * 2 ^ 12 + cls % 4 * 2 ^ 24 + n % 64 * 2 ^ 26)
  b ++ leBytes 4 (crc32c b)
/-- The class whose credits the next flit returns. -/
def Port.dueClass (x : Port) : Nat := ((List.range 3).find? (fun c => decide (0 < x.due.getD c 0))).getD 0
/-- A flit goes out in the next slot with `ack` and up to 63 credits (Table 13.5). -/
def Port.emit (x : Port) (f : Flit) : Port :=
  let c := x.dueClass
  let n := min 63 (x.due.getD c 0)
  let y := { x with out := x.out ++ [flitBytes f (x.rxSeq + 4095) c n], due := x.due.put c (x.due.getD c 0 - n) }
  let y := if f.ftype = 0 then y else y.tally 0
  if f.ftype = 8 then y.tally 10 else if f.ftype = 9 then y.tally 11 else y
/-- Link control goes out (R317). -/
def Port.control (x : Port) (payload : List Byte) : Port := x.emit (flitOf 0xB false 0 0 0 payload)
/-- A `NULL` goes out, carrying `ack` and credits (R314). -/
def Port.null (x : Port) : Port := x.emit (flitOf 0 false 0 0 0 [])
/-- `NULL`s go out until every credit due has been returned. -/
def Port.returnAll (fuel : Nat) (x : Port) : Port :=
  match fuel with
  | 0 => x
  | f + 1 => if (List.range 3).all (fun c => x.due.getD c 0 == 0) then x else Port.returnAll f x.null
/-- Waiting flits go out while their class has credit and the retry buffer has room; classes do not wait on one another (R315, R316).
`held` lists the classes that are blocked. -/
def Port.drain (x : Port) (held : List Nat) : List Flit → Port
  | [] => x
  | f :: rest =>
    let c := flitClass f.ftype
    if held.contains c || x.credits.getD c 0 == 0 || decide (2048 ≤ x.sent.length) then
      let y := x.drain (c :: held) rest
      { y with queue := f :: y.queue }
    else
      let g := { f with seq := x.txSeq }
      let x1 := ({ x with credits := x.credits.put c (x.credits.getD c 0 - 1), txSeq := (x.txSeq + 1) % 4096, sent := x.sent ++ [(g, 0)] }).emit g
      x1.drain held rest
/-- The transmitter of an ACTIVE port sends what it can. -/
def Port.pump (x : Port) : Port :=
  if x.st ≠ .active then x else ({ x with queue := [] }).drain [] x.queue
/-- Flits are handed to a port, in order. -/
def State.send (s : State) (p : Nat) (fs : List Flit) : State :=
  let x := s.port p
  s.setPort p ({ x with queue := x.queue ++ fs }).pump
/-- A port has a flit of a transfer of its own that the partner has not acknowledged. -/
def Port.owes (x : Port) (window transfer : Nat) : Bool :=
  let mine (f : Flit) : Bool := [1, 2, 5, 6, 7].contains f.ftype && f.window == window && f.transfer == transfer
  x.queue.any mine || x.sent.any (fun e => mine e.1)

end Sys2Proof.Machine
end

