-- ==== Sys2Proof/Machine/Adders.lean ====
section
/-! DEFINITION. The near-memory adders (R331) and a bucket's storage (R334): blocks, side entries, the tally granule, torn
contributions (R339). -/

namespace Sys2Proof.Machine

/-- 64-bit words of bytes. -/
def words64 (bs : List Byte) : List Nat := (List.range (bs.length / 8)).map (fun i => fld bs (8 * i) 8)
/-- res(x): the sum of a block's words mod 8,191 (R334). -/
def res8191 (bs : List Byte) : Nat := (words64 bs).sum % 8191

/-- Address of block j of a bucket, and of its side entry (R334). -/
def Bucket.block (b : Bucket) (j : Nat) : Nat := b.base + 256 * j
def Bucket.side (b : Bucket) (j : Nat) : Nat := b.base + 256 * (b.blocks + 1) + 8 * j
/-- A side entry (Table 14.3). -/
structure Side where
  racc : Nat
  rho : Nat
  cb : Nat
  poison : Bool
deriving DecidableEq, Repr
def State.sideOf (s : State) (b : Bucket) (j : Nat) : Side :=
  let w := s.num (b.side j) 8
  { racc := bits w 0 13, rho := bits w 13 13, cb := bits w 26 24, poison := w.testBit 63 }
def State.setSide (s : State) (b : Bucket) (j : Nat) (x : Side) : State :=
  s.write (b.side j) (leBytes 8 (x.racc % 8191 + x.rho % 8191 * 2 ^ 13 + x.cb % 2 ^ 24 * 2 ^ 26 + if x.poison then 2 ^ 63 else 0))
/-- Word i of the tally granule (Table 14.2). -/
def State.tallyWord (s : State) (b : Bucket) (i : Nat) : Nat := s.num (b.block b.blocks + 8 * i) 8
/-- A bucket's storage can be reached: its stack is neither halted nor lost. -/
def State.bucketUp (s : State) (b : Bucket) : Bool :=
  !b.ended && decide ((s.stk (dpaStack b.base)).step < 4) && !(s.stk (dpaStack b.base)).lost
/-- The module adds to a word of the tally granule, and to its side entry, so that its residue still checks (R334, R340). -/
def State.bump (s : State) (b : Bucket) (i n : Nat) : State :=
  if !s.bucketUp b then s else
  let x := s.sideOf b b.blocks
  let v := s.tallyWord b i + n
  (s.write (b.block b.blocks + 8 * i) (leBytes 8 v)).setSide b b.blocks
    { x with racc := x.racc + n, rho := x.rho + v / 2 ^ 64 }

/-- Operations of a descriptor and of `red.accum`: 0 modular, 1 u64, 2 FP32, 3 FP64. -/
def opFmt (op : Nat) : Option Fmt := match op with | 2 => some fp32 | 3 => some fp64 | _ => none
/-- Non-finite elements of a block of an FP operation. -/
def nonFinite (f : Fmt) (bs : List Byte) : Nat :=
  let k := (f.eb + f.mb + 1) / 8
  (List.range (bs.length / k)).countP (fun i => match fdec f (fld bs (k * i) k) with | .nan => true | .inf _ => true | _ => false)
/-- What an application leaves: the block, the reductions, the FP flags, the non-finite elements not added. -/
structure Applied where
  data : List Byte
  reds : Nat
  flags : Nat
  dropped : Nat
/-- One element added modulo m: the sum, and whether it was reduced; words that are not canonical leave a free value (R331). -/
def addModular (draw j m a b : Nat) : Nat × Nat :=
  if a < m ∧ b < m then (if a + b < m then (a + b, 0) else (a + b - m, 1))
  else (Config.free draw (2 ^ 62 + 2 * j) % 2 ^ 64, Config.free draw (2 ^ 62 + 2 * j + 1) % 2)
/-- A block applied to a block (R331, R341). -/
def applyBlock (op m draw : Nat) (quarantine : Bool) (old new : List Byte) : Applied :=
  match opFmt op with
  | some f =>
    let k := (f.eb + f.mb + 1) / 8
    let rs := (List.range (256 / k)).map (fun i =>
      let x := fld new (k * i) k
      let skip := quarantine && (match fdec f x with | .nan => true | .inf _ => true | _ => false)
      let r := fadd f (Config.free draw (2 ^ 62 + i)) (fld old (k * i) k) x
      if skip then (leBytes k (fld old (k * i) k), 0, 1) else (leBytes k r.1, r.2, 0))
    { data := rs.flatMap (fun r => r.1), reds := 0, flags := rs.foldl (fun a r => a ||| r.2.1) 0, dropped := (rs.map (fun r => r.2.2)).sum }
  | none =>
    let rs := (List.range 32).map (fun i =>
      let a := fld old (8 * i) 8
      let b := fld new (8 * i) 8
      if op = 0 then addModular draw i m a b else ((a + b) % 2 ^ 64, (a + b) / 2 ^ 64))
    { data := rs.flatMap (fun r => leBytes 8 r.1), reds := (rs.map (fun r => r.2)).sum, flags := 0, dropped := 0 }

/-- One block as a descriptor and its flit give it: operation, modulus, residue field, reduction count, poison, data. -/
structure Block where
  op : Nat
  modulus : Nat
  residue : Nat
  count : Nat
  poison : Bool
  data : List Byte
deriving DecidableEq, Repr

/-- A block is applied to block j of a bucket by the NMA units, with its side entry (R331, R338, R341). -/
def State.applyTo (s : State) (tag : Nat) (b : Bucket) (j : Nat) (x : Block) : State :=
  let a := b.block j
  let r := applyBlock x.op x.modulus s.draw (b.quarantine && decide (j < b.blocks)) (s.bytes a 256) x.data
  let m := if x.op = 1 then 4096 else x.modulus % 8191
  let bad := decide (x.residue % 8191 ≠ (res8191 x.data + x.count * m) % 8191)
  let lost := s.poisoned a 256
  let e := s.sideOf b j
  let s1 := ({ s with draw := s.draw + 1 }).write a r.data
  let s2 := s1.setSide b j
    { racc := e.racc + x.residue, rho := e.rho + r.reds + x.count, cb := e.cb + 1, poison := e.poison || bad || x.poison || lost }
  let b1 := { b with fpflags := b.fpflags ||| r.flags, residue := b.residue || bad, tainted := b.tainted || decide (0 < r.dropped) }
  let s3 := s2.setBucket tag b1
  if 0 < r.dropped then s3.bump b1 6 r.dropped else s3

/-- A contribution is torn with a status (R339); word 5 counts it. -/
def State.tear (s : State) (tag : Nat) (x : Contribution) (st : Status) : State :=
  match s.bucket tag with
  | none => s
  | some b =>
    if !b.openC.contains x then s else
    (s.setBucket tag { b with openC := b.openC.erase x, tornSet := b.tornSet ++ [x], torn := some (b.torn.getD st) }).bump b 5 1
/-- Every open contribution of a bucket is torn. -/
def State.tearAll (s : State) (tag : Nat) (st : Status) : State :=
  match s.bucket tag with
  | none => s
  | some b => b.openC.foldl (fun s x => s.tear tag x st) s
/-- A transfer that is refused after some of its blocks were applied tears its contribution (R339). The tear leaves its bucket as
`closing` then says. -/
def State.tornTransfer (s : State) (x : Contribution) (st : Status) (after : State → Nat → State) : State :=
  s.buckets.foldl (fun s b => if b.2.openC.contains x then after (s.tear b.1 x st) b.1 else s) s
/-- A bucket in CLOSING with no open contribution moves to VERIFYING; one that has what it expects moves to CLOSING (Table 14.5). -/
def State.closing (s : State) (tag : Nat) : State :=
  match s.bucket tag with
  | none => s
  | some b =>
    let full := b.state == .accepting && decide (b.expected ≤ s.tallyWord b 1 + s.tallyWord b 3)
    if full || b.state == .closing then
      s.setBucket tag { b with state := if b.openC.isEmpty then .verifying else .closing }
    else s

/-! A port leaves ACTIVE -/

/-- Chains on a port end with `LINK_DOWN` (R229, R330). -/
def State.downChains (s : State) (p : Nat) : State :=
  { s with wings := s.wings.map (fun w => (w.1, { w.2 with
      chans := w.2.chans.map (fun h => (h.1,
        match h.2.port, h.2.chain with
        | some q, some c =>
          if q = p ∧ c.fault.isNone then { h.2 with chain := some { c with fault := some .linkDown, faultAt := c.moved } } else h.2
        | _, _ => h.2)) })) }
/-- The follower's measurements when its port leaves ACTIVE: none counts towards an acquisition, and on the port's return one beyond 1 µs
acquires again (Table 19.3). -/
def Time.portDown (t : Time) (p : Nat) : Time :=
  match t.follow with
  | some (q, w) => if q = p then { t with follow := some (p, { w with recent := [], far := 3 }) } else t
  | none => t
/-- What a port leaves behind when it leaves ACTIVE (R330): the flits, tallies and accesses of its transfers are discarded, and the
contributions on it are torn. -/
def State.leaveActive (s : State) (p : Nat) (st : PState) : State :=
  let x := s.port p
  if x.st ≠ .active then s else
  let s1 := ({ s with time := s.time.portDown p } : State).setPort p { x with
    st := st, rx := [], queue := [], sent := [], credits := [], due := [], txSeq := 0, rxSeq := 0, retrying := false
    swapping := none, tallies := [], mask := none, acch := none, refused := [], refusedAt := [], puts := []
    failedAt := if st = .failed then s.time.now else x.failedAt }
  let s2 := s1.count 4 x.tallies.length
  let s3 := x.puts.foldl (fun s u => s.dropAccess (p, 2, u.1 * 2 ^ 16 + u.2.1)) s2
  let s4 := s3.buckets.foldl (fun s b =>
    ((b.2.openC.filter (fun c => c.port == p)).foldl (fun s c => s.tear b.1 c .linkDown) s).closing b.1) s3
  (s4.downChains p).event .linkDown 8 0xFF [b8 p, b8 st.code]
/-- A port tells its partner DOWN with a reason (Table 13.7), and retrains without DETECT (Table 13.3). -/
def State.portDown (s : State) (p reason : Nat) : State :=
  if (s.port p).st ≠ .active then s
  else (s.setPort p ((s.port p).control [0x05, b8 reason])).leaveActive p .recover

end Sys2Proof.Machine
end

