-- ==== Sys2Proof/Machine/HashSig.lean ====
section
/-! DEFINITION. SHAKE256, and SLH-DSA-SHAKE-256s and -256f, pure mode, which sign images, endorsements and quotes (R379, R386, R387).
PRESUMED: Keccak and SLH-DSA are those of FIPS 202 and FIPS 205, which the spec names and does not restate. -/

namespace Sys2Proof.Machine

/-- Rotation offset of each lane x + 5y. -/
def keccakRot : List Nat :=
  [0, 1, 62, 28, 27, 36, 44, 6, 55, 20, 3, 10, 43, 25, 39, 41, 45, 15, 21, 8, 18, 2, 61, 56, 14]

/-- Round constants, from the degree-8 feedback register over the bit positions 2^j - 1. -/
def keccakRc : Nat → Nat → List W64
  | 0, _ => []
  | n + 1, r =>
    let step (p : Nat × Nat) (j : Nat) : Nat × Nat :=
      let (r, c) := p
      let c := if r.testBit 0 then c ^^^ 2 ^ (2 ^ j - 1) else c
      let r := r * 2
      (if r.testBit 8 then r ^^^ 0x171 else r, c)
    let (r', c) := (List.range 7).foldl step (r, 0)
    BitVec.ofNat 64 c :: keccakRc n r'

/-- One round on 25 lanes. -/
def keccakRound (a : List W64) (rc : W64) : List W64 :=
  let g (l : List W64) (i : Nat) : W64 := l.getD i 0
  let c := (List.range 5).map fun x => g a x ^^^ g a (x + 5) ^^^ g a (x + 10) ^^^ g a (x + 15) ^^^ g a (x + 20)
  let d := (List.range 5).map fun x => g c ((x + 4) % 5) ^^^ (g c ((x + 1) % 5)).rotateLeft 1
  let a1 := (List.range 25).map fun i => g a i ^^^ g d (i % 5)
  -- lane (x, y) moves to (y, 2x + 3y)
  let b := (List.range 25).map fun i =>
    let x := i % 5
    let y := i / 5
    let x0 := (x + 3 * y) % 5
    (g a1 (x0 + 5 * x)).rotateLeft (keccakRot.getD (x0 + 5 * x) 0)
  let e := (List.range 25).map fun i =>
    let y := i / 5
    g b i ^^^ (~~~(g b ((i + 1) % 5 + 5 * y)) &&& g b ((i + 2) % 5 + 5 * y))
  match e with
  | [] => []
  | h :: t => (h ^^^ rc) :: t

/-- Keccak-f[1600]. -/
def keccakF (a : List W64) : List W64 := (keccakRc 24 1).foldl keccakRound a

/-- The 17 lanes of a 136-byte block, added into the state. -/
def absorb (a : List W64) (blk : List Byte) : List W64 :=
  keccakF ((List.range 25).map fun i => a.getD i 0 ^^^ (if i < 17 then BitVec.ofNat 64 (fld blk (8 * i) 8) else 0))

/-- Absorb a padded message. -/
def absorbAll : Nat → List W64 → List Byte → List W64
  | 0, a, _ => a
  | n + 1, a, m => if m.isEmpty then a else absorbAll n (absorb a (m.take 136)) (m.drop 136)

/-- Squeeze `k` blocks. -/
def squeeze : Nat → List W64 → List Byte
  | 0, _ => []
  | n + 1, a => (a.take 17).flatMap (fun l => leBytes 8 l.toNat) ++ squeeze n (keccakF a)

/-- SHAKE256 with an output length in bytes. -/
def shake256 (m : List Byte) (n : Nat) : List Byte :=
  let pad := 136 - m.length % 136
  let m' := if pad = 1 then m ++ [0x9F] else m ++ [0x1F] ++ zeros (pad - 2) ++ [0x80]
  (squeeze (n / 136 + 1) (absorbAll (m'.length / 136 + 1) (List.replicate 25 0) m')).take n

/-- What distinguishes the two parameter sets: tree heights and counts, and the bytes of a message digest. -/
structure Slh where
  h : Nat
  d : Nat
  hp : Nat
  a : Nat
  k : Nat
  m : Nat
deriving DecidableEq, Repr
def slh256s : Slh := ⟨64, 8, 8, 14, 22, 47⟩
def slh256f : Slh := ⟨68, 17, 4, 9, 35, 49⟩
/-- A key: its secret seeds and its public seed. -/
structure SlhKey where
  sk : List Byte
  prf : List Byte
  pk : List Byte
deriving DecidableEq, Repr
def SlhKey.ofSeed (b : List Byte) : SlhKey := ⟨b.take 32, (b.drop 32).take 32, (b.drop 64).take 32⟩
/-- A number as big-endian bytes, and back. -/
def toBytesBe (n v : Nat) : List Byte := (leBytes n v).reverse
def toNatBe (b : List Byte) : Nat := leNat b.reverse
/-- A hash address: layer, tree, type, and three words. -/
def slhAdrs (layer tree ty x y z : Nat) : List Byte :=
  toBytesBe 4 layer ++ toBytesBe 12 tree ++ toBytesBe 4 ty ++ toBytesBe 4 x ++ toBytesBe 4 y ++ toBytesBe 4 z
/-- The tweakable hash under a public seed: F, H, T and PRF alike. -/
def slhHash (pk adrs m : List Byte) : List Byte := shake256 (pk ++ adrs ++ m) 32

/-! One-time signatures -/

/-- `n` steps of chain `c` from step `i`. -/
def slhChain (pk : List Byte) (layer tree kp c : Nat) : Nat → Nat → List Byte → List Byte
  | _, 0, x => x
  | i, n + 1, x => slhChain pk layer tree kp c (i + 1) n (slhHash pk (slhAdrs layer tree 0 kp c i) x)
/-- The 67 base-16 digits of a value with its checksum. -/
def wotsDigits (m : List Byte) : List Nat :=
  let l := m.flatMap (fun b => [b.toNat / 16, b.toNat % 16])
  let s := (l.map (fun x => 15 - x)).sum
  l ++ [s / 256, s / 16 % 16, s % 16]
def wotsSecret (k : SlhKey) (layer tree kp c : Nat) : List Byte := slhHash k.pk (slhAdrs layer tree 5 kp c 0) k.sk
def wotsRoot (pk : List Byte) (layer tree kp : Nat) (tops : List (List Byte)) : List Byte :=
  slhHash pk (slhAdrs layer tree 1 kp 0 0) tops.flatten
def wotsPublic (k : SlhKey) (layer tree kp : Nat) : List Byte :=
  wotsRoot k.pk layer tree kp ((List.range 67).map (fun c => slhChain k.pk layer tree kp c 0 15 (wotsSecret k layer tree kp c)))
def wotsSign (k : SlhKey) (layer tree kp : Nat) (m : List Byte) : List Byte :=
  (wotsDigits m).zipIdx.flatMap (fun x => slhChain k.pk layer tree kp x.2 0 x.1 (wotsSecret k layer tree kp x.2))
def wotsFrom (pk : List Byte) (layer tree kp : Nat) (m sig : List Byte) : List Byte :=
  wotsRoot pk layer tree kp ((wotsDigits m).zipIdx.map (fun x =>
    slhChain pk layer tree kp x.2 x.1 (15 - x.1) ((sig.drop (32 * x.2)).take 32)))

/-! Trees -/

/-- Node i at height z of a tree of one-time keys. -/
def xmssNode (k : SlhKey) (layer tree : Nat) : Nat → Nat → List Byte
  | i, 0 => wotsPublic k layer tree i
  | i, z + 1 => slhHash k.pk (slhAdrs layer tree 2 0 (z + 1) i) (xmssNode k layer tree (2 * i) z ++ xmssNode k layer tree (2 * i + 1) z)
/-- The neighbour of a node's ancestor at height j. -/
def sibling (i j : Nat) : Nat := i / 2 ^ j ^^^ 1
/-- The root above a node, from its authentication path; `node j i` is the address of node i at height j. -/
def climb (pk : List Byte) (node : Nat → Nat → List Byte) (i : Nat) (path : List (List Byte)) (leaf : List Byte) : List Byte :=
  path.zipIdx.foldl (fun x p =>
    slhHash pk (node (p.2 + 1) (i / 2 ^ (p.2 + 1))) (if (i / 2 ^ p.2) % 2 = 0 then x ++ p.1 else p.1 ++ x)) leaf
/-- Bytes in pieces of 32. -/
def pieces32 (n : Nat) (b : List Byte) : List (List Byte) := (List.range n).map (fun i => (b.drop (32 * i)).take 32)
def xmssSign (s : Slh) (k : SlhKey) (layer tree i : Nat) (m : List Byte) : List Byte :=
  wotsSign k layer tree i m ++ (List.range s.hp).flatMap (fun j => xmssNode k layer tree (sibling i j) j)
def xmssFrom (s : Slh) (pk : List Byte) (layer tree i : Nat) (m sig : List Byte) : List Byte :=
  climb pk (fun z n => slhAdrs layer tree 2 0 z n) i (pieces32 s.hp (sig.drop 2144)) (wotsFrom pk layer tree i m (sig.take 2144))
/-- The hypertree: each layer signs the root of the one below. -/
def hyperSign (s : Slh) (k : SlhKey) (tree leaf : Nat) (m : List Byte) : List Byte :=
  ((List.range s.d).foldl (fun (p : List Byte × List Byte) j =>
    let t := tree / 2 ^ (s.hp * j)
    let l := if j = 0 then leaf else tree / 2 ^ (s.hp * (j - 1)) % 2 ^ s.hp
    (p.1 ++ xmssSign s k j t l p.2, xmssNode k j t 0 s.hp)) ([], m)).1
def hyperRoot (s : Slh) (pk : List Byte) (tree leaf : Nat) (m sig : List Byte) : List Byte :=
  (List.range s.d).foldl (fun x j =>
    let t := tree / 2 ^ (s.hp * j)
    let l := if j = 0 then leaf else tree / 2 ^ (s.hp * (j - 1)) % 2 ^ s.hp
    let z := 2144 + 32 * s.hp
    xmssFrom s pk j t l x ((sig.drop (z * j)).take z)) m

/-! Few-time signatures -/

def forsSecret (k : SlhKey) (tree kp i : Nat) : List Byte := slhHash k.pk (slhAdrs 0 tree 6 kp 0 i) k.sk
def forsNode (k : SlhKey) (tree kp : Nat) : Nat → Nat → List Byte
  | i, 0 => slhHash k.pk (slhAdrs 0 tree 3 kp 0 i) (forsSecret k tree kp i)
  | i, z + 1 => slhHash k.pk (slhAdrs 0 tree 3 kp (z + 1) i) (forsNode k tree kp (2 * i) z ++ forsNode k tree kp (2 * i + 1) z)
/-- The leaf of each of the k trees that a digest names. -/
def forsLeaves (s : Slh) (md : List Byte) : List Nat :=
  let v := toNatBe md
  (List.range s.k).map (fun i => v / 2 ^ (8 * md.length - s.a * (i + 1)) % 2 ^ s.a)
def forsSign (s : Slh) (k : SlhKey) (tree kp : Nat) (md : List Byte) : List Byte :=
  (forsLeaves s md).zipIdx.flatMap (fun x =>
    forsSecret k tree kp (x.2 * 2 ^ s.a + x.1)
      ++ (List.range s.a).flatMap (fun j => forsNode k tree kp (x.2 * 2 ^ (s.a - j) + sibling x.1 j) j))
def forsFrom (s : Slh) (pk : List Byte) (tree kp : Nat) (md sig : List Byte) : List Byte :=
  slhHash pk (slhAdrs 0 tree 4 kp 0 0) ((forsLeaves s md).zipIdx.flatMap (fun x =>
    let b := (sig.drop (32 * (s.a + 1) * x.2)).take (32 * (s.a + 1))
    let i := x.2 * 2 ^ s.a + x.1
    climb pk (fun z n => slhAdrs 0 tree 3 kp z n) i (pieces32 s.a (b.drop 32)) (slhHash pk (slhAdrs 0 tree 3 kp 0 i) (b.take 32))))

/-! Keys, signing, verification -/

/-- The public key of a seed: the public seed and the root of the top tree. -/
def slhPublic (s : Slh) (seed : List Byte) : List Byte :=
  let k := SlhKey.ofSeed seed
  k.pk ++ xmssNode k (s.d - 1) 0 0 s.hp
/-- A message under a context string, pure mode. -/
def slhMessage (ctx m : List Byte) : List Byte := [0, b8 ctx.length] ++ ctx ++ m
/-- What a digest names: the few-time digest, the tree and the leaf. -/
def slhSplit (s : Slh) (dg : List Byte) : List Byte × Nat × Nat :=
  let x := (s.k * s.a + 7) / 8
  let y := (s.h - s.hp + 7) / 8
  let z := (s.hp + 7) / 8
  (dg.take x, toNatBe ((dg.drop x).take y) % 2 ^ (s.h - s.hp), toNatBe ((dg.drop (x + y)).take z) % 2 ^ s.hp)
/-- A signature under a key's seed; `rand` is the 32 bytes of `opt_rand`. -/
def slhSign (s : Slh) (seed m ctx rand : List Byte) : List Byte :=
  let k := SlhKey.ofSeed seed
  let m1 := slhMessage ctx m
  let r := shake256 (k.prf ++ rand ++ m1) 32
  let t := slhSplit s (shake256 (r ++ slhPublic s seed ++ m1) s.m)
  let f := forsSign s k t.2.1 t.2.2 t.1
  r ++ f ++ hyperSign s k t.2.1 t.2.2 (forsFrom s k.pk t.2.1 t.2.2 t.1 f)
/-- A signature verifies under a public key. -/
def slhVerify (s : Slh) (pub m ctx sig : List Byte) : Bool :=
  let n := 32 * s.k * (s.a + 1)
  let t := slhSplit s (shake256 (sig.take 32 ++ pub ++ slhMessage ctx m) s.m)
  let x := forsFrom s (pub.take 32) t.2.1 t.2.2 t.1 ((sig.drop 32).take n)
  sig.length == 32 + n + s.d * (2144 + 32 * s.hp) && pub.length == 64
    && hyperRoot s (pub.take 32) t.2.1 t.2.2 x (sig.drop (32 + n)) == pub.drop 32

end Sys2Proof.Machine
end

