-- ==== Sys2Proof/Machine/Crypto.lean ====
section
/-! DEFINITION. Firmware images, endorsements and quotes (R379, R380, R386, R387), and the contexts' DRBG instances (R168). -/

namespace Sys2Proof.Machine

/-- ASCII bytes. -/
def ascii (t : String) : List Byte := t.toList.map (fun c => b8 c.toNat)

/-- Colophon length (R379). -/
def colophonLen : Nat := 30048

/-- Checks of Table 16.4 on a whole image, in order; the first failure decides. -/
def checkImage (s : State) (img : List Byte) : Except Status Image :=
  let n := img.length
  let body := img.take (n - colophonLen)
  let c := img.drop (n - colophonLen)
  let bodyLen := fld c 16 8
  let o := s.hex.otp
  let slot := fld c 14 1
  let grades := fld c 24 4
  let bad1 := decide (n < colophonLen) || decide (0x2000000 < n) || decide (bodyLen + colophonLen ≠ n) || decide (bodyLen % 64 ≠ 0)
    || decide (fld c 0 4 ≠ 0x31434C4F) || decide (fld c 4 2 ≠ 0x0100) || decide (fld c 252 4 ≠ crc32c (c.take 252))
    || decide (1 < fld c 6 2) || decide (256 < fld c 12 2) || decide (3 < slot) || decide (15 < fld c 15 1) || decide (3 < grades)
    || !zeroAt c 36 28 || !zeroAt c 192 60 || decide (bodyLen ≤ fld c 28 4) || decide (bodyLen ≤ fld c 32 4)
    || (fld c 15 1).testBit slot
  if bad1 then .error .badParameter
  else if !grades.testBit (match s.grade with | .ax => 0 | .bx => 1) then .error .badParameter
  else if o.revoked.testBit slot || shake256 ((c.drop 128).take 64) 32 != fit 32 (o.rootkeys.getD slot []) then
    .error .signatureInvalid
  else if shake256 body 64 != (c.drop 64).take 64 then .error .signatureInvalid
  else if !slhVerify slh256s ((c.drop 128).take 64) (c.take 256) (ascii "OLT-FW") (c.drop 256) then .error .signatureInvalid
  else if fld c 12 2 < o.arb then .error .rollbackRefused
  else .ok { body := body, colophon := c }

/-- Fuse requests of an image (R385), and the image made active (R384). -/
def State.activate (s : State) (img : Image) : State :=
  let c := img.colophon
  let o := s.hex.otp
  let arb := if (fld c 6 2).testBit 0 then max o.arb (fld c 12 2) else o.arb
  { s with hex := { s.hex with
      otp := { o with arb := arb, revoked := o.revoked ||| (fld c 15 1 % 16) }
      active := some { fwver := fld c 8 4, slot := fld c 14 1, measure := (c.drop 64).take 64
                       colophonDigest := shake256 (c.take 256) 64 } } }

/-! The contexts' DRBG instances (R168) -/

/-- An instance is due to reseed: after 2^20 requests, or 1 s. -/
def Drbg.due (d : Drbg) (now : Nat) : Bool := decide (2 ^ 20 ≤ d.requests ∨ d.since + 1000000000 ≤ now)
/-- A context's instance on a wing is seeded from the entropy source. -/
def State.reseed (s : State) (c w : Nat) : State :=
  { s with
    draw := s.draw + 1
    ctxs := s.ctxs.mod c (fun x => { x with drbg := x.drbg.put w { seed := s.draw, requests := 0, since := s.time.now } }) }
/-- A context's instance on a wing serves a draw of `n` numbers, in requests of at most 64 KiB; one that is due reseeds first. A number
takes 8 bytes: DESIGN CHOICE, log entry 78, R168 gives no size. -/
def State.drew (s : State) (c w n : Nat) : State :=
  let t := if ((s.ctx c).drbg.get w).any (fun d => d.due s.time.now) then s.reseed c w else s
  t.setCtx c { t.ctx c with drbg := (t.ctx c).drbg.mod w (fun d => { d with requests := d.requests + (8 * n + 65535) / 65536 }) }

/-- The attestation key's seed (R386). -/
def attestSeed (idseed : List Byte) : List Byte := shake256 (fit 96 idseed ++ ascii "OLT-QK") 96

/-- A fresh endorsement (R386). -/
def endorsementOf (s : State) : List Byte :=
  let o := s.hex.otp
  let rec0 := leBytes 4 0x31454C4F ++ leBytes 4 0x0100 ++ fit 8 o.serial ++ slhPublic slh256s (fit 96 o.idseed)
    ++ slhPublic slh256f (attestSeed o.idseed)
  let rec1 := fit 188 rec0
  let r := rec1 ++ leBytes 4 (crc32c rec1)
  r ++ slhSign slh256s (fit 96 o.idseed) r (ascii "OLT-EN") (fit 32 (Config.signRandom r))

/-- The ledger's endorsement passes its CRC and its signature (R386). -/
def endorsementGood (s : State) (e : List Byte) : Bool :=
  fld e 188 4 == crc32c (e.take 188)
    && slhVerify slh256s (slhPublic slh256s (fit 96 s.hex.otp.idseed)) (e.take 192) (ascii "OLT-EN") (e.drop 192)

/-- The endorsement in force: the ledger's, or a new one (R386). -/
def State.endorse (s : State) : State :=
  match s.ledger.endorsement with
  | some e => if endorsementGood s e then s else { s with ledger := { s.ledger with endorsement := some (endorsementOf s) } }
  | none => { s with ledger := { s.ledger with endorsement := some (endorsementOf s) } }

end Sys2Proof.Machine
end

