-- ==== Sys2Proof/Machine/Work.lean ====
section
/-! DEFINITION. What happens to contexts' work when a unit leaves service: bays, wings and stacks (R94, R275, R276, R248,
R300, R301, R346), and what counts as using a bay, a wing or a page (R289, R430). -/

namespace Sys2Proof.Machine

/-- A pass ends with a status for every subscriber (Table 3.5). -/
def State.endPass (s : State) (w q : Nat) (st : Status) : State :=
  match (s.wing w).passes.get q with
  | none => s
  | some p =>
    let s1 := p.subs.foldl (fun s x => s.setFate x.1 x.2.1 x.2.2.1 st) s
    (s1.setWing w { s1.wing w with passes := (s1.wing w).passes.del q }).wantPasses w
/-- A key card is marked damaged (R94). -/
def State.damage (s : State) (c h : Nat) : State := s.modCard c h (fun x => { x with damaged := true })

/-- Runs of consecutive numbers in a rising list: first and length. -/
def runsOf : List Nat → List (Nat × Nat)
  | [] => []
  | a :: r =>
    match runsOf r with
    | (b, n) :: t => if b = a + 1 then (a, n + 1) :: t else (a, 1) :: (b, n) :: t
    | [] => [(a, 1)]
/-- Homes are lost (R248): one event per run of IDs, streams stalled on them stop, watches on them end. -/
def State.loseHomes (s : State) (p : Nat → Bool) : State :=
  s.ctxs.foldl (fun s c =>
    let x := s.ctx c.1
    let ids := (x.sync.filter (fun v => p v.2.home)).map (fun v => v.1)
    let s := s.setCtx c.1 { x with sync := x.sync.map (fun v => (v.1, { v.2 with lost := v.2.lost || p v.2.home })) }
    let s1 := (runsOf ids).foldl (fun s r => s.event .unitAbsent 0x0D c.1 (leBytes 2 r.1 ++ leBytes 2 r.2)) s
    let s2 := (x.streams.filter (fun t => match t.2.wait with | some w => ids.contains w.id | none => false)).foldl
      (fun s t => s.stopStream c.1 t.1 .unitAbsent) s1
    (x.watches.filter (fun w => ids.contains w.id)).foldl (fun s w => s.endWatch c.1 w .unitAbsent []) s2) s
/-- Every card that a predicate selects is poisoned. -/
def State.poisonWhere (s : State) (p : Card → Bool) : State :=
  { s with ctxs := s.ctxs.map (fun c => (c.1, { c.2 with
      cards := c.2.cards.map (fun h => if p h.2 then (h.1, { h.2 with poison := true }) else h) })) }
/-- A bay's command that has not issued returns to the front of its queue. -/
def State.returnPulled (s : State) (w c n k : Nat) (e : Entry) : State :=
  let s1 := s.setEntry c n k { e with phase := .queued, bay := none }
  let x := s1.wing w
  s1.setWing w { x with queues := x.queues.put c ((n, k) :: x.queues.getD c []) }
/-- A bay leaves service (R275): its commands end with the failure's status, refreshes of its group end, cards bound in its
carrels are poisoned, and its sync homes are lost. -/
def State.endBayWork (s : State) (i : Nat) (st : Status) : State :=
  let w := i / 22
  let s1 := (s.entriesOn w).foldl (fun s e =>
    let x := e.2.2.2
    if x.bay = some i ∧ x.phase = .issued then s.setFate e.1 e.2.1 e.2.2.1 st
    else if x.bay = some i ∧ x.phase = .pulled then s.returnPulled w e.1 e.2.1 e.2.2.1 x
    else if x.job.isSome ∧ x.phase = .issued ∧ (s.bay i).entry.getLsbD e.1 then s.setFate e.1 e.2.1 e.2.2.1 st
    else s) s
  let s2 := s1.poisonWhere (fun c => c.place == .carrel && isCarrel c.base && carrelBay c.base == i)
  s2.loseHomes (fun h => !h.testBit 15 && bits h 13 2 * 22 + bits h 8 5 == i)

/-- Storage of a card touches a stack. -/
def Card.inStack (c : Card) (k : Nat) : Bool :=
  c.place == .hbm && decide (c.base < (k + 1) * 2 ^ 36 ∧ k * 2 ^ 36 < c.base + c.capacity)
/-- A key has an extent in a stack. -/
def Card.keyIn (c : Card) (k : Nat) : Bool := c.kind == .key && c.extents.any (fun a => dpaStack a == k)
/-- Bytes of a bucket's storage (R334). -/
def bucketBytes (b : Nat) : Nat := 256 * (b + 1) + 256 * ((b + 32) / 32)
/-- The bucket's other card. -/
def State.otherBase (s : State) (b : Bucket) : Option Nat :=
  if b.inAlt then (s.card b.ctx b.result).map (fun x => x.base) else (b.alt.bind (fun h => s.card b.ctx h)).map (fun x => x.base)
/-- An open bucket of a stack that halts is copied to its other card, or is ended (R346). -/
def State.drainBucket (s : State) (tag : Nat) (copy : Bool) : State :=
  match s.bucket tag with
  | none => s
  | some b =>
    match s.otherBase b with
    | some a =>
      if copy && decide ((s.stk (dpaStack a)).step < 4) && !(s.stk (dpaStack a)).lost then
        (s.write a (s.bytes b.base (bucketBytes b.blocks))).setBucket tag { b with base := a, inAlt := !b.inAlt, drained := true }
      else s.setBucket tag { b with ended := true }
    | none => s.setBucket tag { b with ended := true }
/-- The open buckets of a stack, in ascending tag order. -/
def State.bucketsIn (s : State) (k : Nat) : List Nat :=
  (s.buckets.filter (fun b => b.2.state != .closed && dpaStack b.2.base == k)).map (fun b => b.1)
/-- Passes with an extent in a stack end with THERMAL_HALT (Table 3.5). -/
def State.haltPasses (s : State) (k : Nat) : State :=
  ((s.wing (k / 4)).passes.filter (fun q => match s.card q.2.key.1 q.2.key.2 with
    | some x => x.keyIn k | none => false)).foldl (fun s q => s.endPass (k / 4) q.1 .thermalHalt) s
/-- A stack enters T4 (R300): passes end, open buckets move. -/
def State.haltStackWork (s : State) (k : Nat) : State :=
  (s.bucketsIn k).foldl (fun s t => s.drainBucket t true) (s.haltPasses k)
/-- A stack's contents are lost (R301): cards poisoned, keys damaged, passes and buckets ended. -/
def State.endStackWork (s : State) (k : Nat) : State :=
  let s1 := s.haltPasses k
  let s2 := (s1.bucketsIn k).foldl (fun s t => s.drainBucket t false) s1
  { s2 with ctxs := s2.ctxs.map (fun c => (c.1, { c.2 with cards := c.2.cards.map (fun h =>
      (h.1, { h.2 with poison := h.2.poison || h.2.inStack k, damaged := h.2.damaged || h.2.keyIn k })) })) }
/-- A wing is lost (R276): its streams stop, its issued commands end with UNIT_ABSENT, its wing unit's counters are lost. -/
def State.endWingWork (s : State) (w : Nat) : State :=
  let s1 := s.ctxs.foldl (fun s c => (c.2.streams.filter (fun t => t.2.wing == w)).foldl (fun s t =>
    let s2 := t.2.window.foldl (fun s e => s.setFate c.1 t.1 e.1 .unitAbsent) s
    s2.stopStream c.1 t.1 .unitAbsent) s) s
  s1.loseHomes (fun h => h.testBit 15 && bits h 13 2 == w)

/-- A bay holds commands that are pulled or issued. -/
def State.bayBusy (s : State) (i : Nat) : Bool :=
  (s.entriesOn (i / 22)).any (fun e => e.2.2.2.bay == some i && (e.2.2.2.phase == .pulled || e.2.2.2.phase == .issued))
/-- A wing holds commands in its windows. -/
def State.wingBusy (s : State) (w : Nat) : Bool := (s.entriesOn w).any (fun e => e.2.2.2.phase != .done)
/-- Context and slot (within its core) of every card bound in a bay's carrels. -/
def State.carrelCards (s : State) (i : Nat) : List (Nat × Nat) :=
  s.ctxs.flatMap (fun c => c.2.cards.flatMap (fun h =>
    if h.2.place == .carrel && isCarrel h.2.base && carrelBay h.2.base == i then
      (slotsOf h.2.base (max 1 h.2.capacity)).map (fun k => (c.1, k % 96)) else []))
/-- What a page holds that keeps it from being weeded (Table 12.2): a card's storage, a key extent, a refresh scratch extent, a
folio of a running or parked stream, a channel's status address, or an open loan window. -/
def State.pageBusy (s : State) (a : Nat) : Bool :=
  let hit (b n : Nat) : Bool := decide (b < a + 65536 ∧ a < b + n)
  s.ctxs.any (fun c =>
    c.2.cards.any (fun h => (h.2.place == .hbm && hit h.2.base h.2.capacity)
      || (h.2.kind == .key && (h.2.extents.zip h.2.pages).any (fun e => hit e.1 (e.2 * 65536))))
    || c.2.plans.any (fun p => match c.2.sets.get p.2.set with
        | some q => hit p.2.scratch (p.2.scratchSlots * scratchBytes q)
        | none => false)
    || c.2.streams.any (fun t => t.2.state != .draining && hit t.2.folio 4096))
  || s.wings.any (fun w => w.2.chans.any (fun h => hit h.2.status 64))
  || s.ports.any (fun p => p.2.windows.any (fun w => hit w.2.base w.2.len))
end Sys2Proof.Machine
end

