-- ==== Sys2Proof/Machine/Loss.lean ====
section
/-! DEFINITION. Units that leave service: suspicion, cores, bays, wings, stacks and ports (R71, R275, R276, R301, R302,
R450 to R456), thermal shutdown and desk failure (R426, R459), and the resets (R407, R408). -/

namespace Sys2Proof.Machine

/-- A day in ticks. -/
def dayTicks : Nat := 86400000000000

/-- A bay is out of service whole (R275): IDN_BAYGONE, and its work ends with the failure's status. -/
def State.dropBay (s : State) (i : Nat) (st : Status) : State :=
  let b := s.bay i
  if b.gone || b.kind != .enabled then s else
  let s1 := (s.setBay i { b with gone := true, cores := 0, ready := false, applying := false, ctx := none }).endBayWork i st
  (s1.clearBay i).recheckPasses (i / 22)
/-- A port is lost (R456). -/
def State.losePort (s : State) (p : Nat) : State :=
  let x := s.port p
  if x.lost || !x.present then s else
  let s1 := s.leaveActive p .failed
  (s1.setPort p { s1.port p with lost := true, st := .failed }).errRec 0xA (p / 2) p []

/-- A wing is lost (R276): its bays, streams, stacks and ports, with its cause for the record (Table 20.10 type 0x07). -/
def State.loseWing (s : State) (w cause : Nat) : State :=
  if (s.wing w).lost then s else
  let s1 := s.setWing w { s.wing w with lost := true, ready := false, passes := [] }
  let s2 := ((s1.event .unitAbsent 0x0C 0xFF [b8 w]).errRec 7 w 0xFF [b8 cause]).degrade
  let s3 := (List.range 22).foldl (fun s b => s.dropBay (w * 22 + b) .unitAbsent) s2
  let s4 := s3.endWingWork w
  let s5 := (List.range 4).foldl (fun s i =>
    let x := s.stk (4 * w + i)
    if x.lost then s else (s.setStk (4 * w + i) { x with lost := true, ready := false, queues := [] }).endStackWork (4 * w + i)) s4
  let s6 := (List.range 2).foldl (fun s i => s.losePort (2 * w + i)) s5
  if cause = 3 ∨ cause = 5 then
    (List.range 18).foldl (fun s j => s.setDom (18 * w + j) { s.dom (18 * w + j) with on := false }) s6
  else s6

/-- A wing without an enabled bay, or without a stack in service, is lost (Table 20.5). -/
def State.checkWing (s : State) (w : Nat) : State :=
  if !(s.wing w).ready then s
  else if (List.range 22).all (fun b => let x := s.bay (w * 22 + b); x.kind != .enabled || x.gone) then s.loseWing w 1
  else if (List.range 4).all (fun i => (s.stk (4 * w + i)).lost) then s.loseWing w 2
  else s

/-- A bay is withdrawn whole (R71, R275): event 0x000B and a record; the wing's last one takes the wing with it (Table 20.5). -/
def State.withdrawBay (s : State) (i : Nat) (st : Status) : State :=
  let b := s.bay i
  if b.gone || b.kind != .enabled then s else
  ((((s.event .integrityFault 0x0B 0xFF [b8 (i / 22), b8 (i % 22)]).errRec 6 (i / 22) (i % 22) [b8 (popcount 16 b.cores)]).degrade).dropBay i st).checkWing (i / 22)

/-- A core is withdrawn (R71): event 0x000A and a record; below 14 the bay is withdrawn whole. -/
def State.withdrawCore (s : State) (i c : Nat) (st : Status) : State :=
  let b := s.bay i
  if !b.cores.testBit c then s else
  let s1 := s.setBay i { b with cores := b.cores - 2 ^ c, good := b.good &&& (0xFFFF - 2 ^ c) }
  let s2 := ((s1.event .integrityFault 0x0A 0xFF [b8 (i / 22), b8 (i % 22), b8 c]).errRec 5 (i / 22) (i % 22) [b8 c]).degrade
  if popcount 16 (s2.bay i).cores < 14 then s2.withdrawBay i st else s2.dropCore (i * 16 + c)

/-- A unit is marked suspect: event 0x0013 (Table 20.3). -/
def State.suspectEvent (s : State) (d0 d1 d2 : Nat) : State := s.event .integrityFault 0x13 0xFF [b8 d0, b8 d1, b8 d2]

/-- The record of an integrity fault after its retry (Table 20.10 type 0x03), its unit as Table 20.3 names it. -/
def State.faultRec (s : State) (d0 d1 d2 stage lane : Nat) : State := s.errRec 3 d0 d1 [b8 stage, b8 d2, b8 lane]
/-- A transient (R449): at most one record a second for a unit, which counts those since the unit's last (R462). -/
def State.transientRec (s : State) (d0 d1 d2 stage : Nat) : State :=
  let key := (d0 * 256 + d1) * 256 + d2
  let old := s.ledger.transients.get key
  let n := ((old.map (fun p => p.1)).getD 0) + 1
  if old.any (fun p => decide (s.time.now < p.2 + 1000000000)) then
    { s with ledger := { s.ledger with transients := s.ledger.transients.put key (n, (old.map (fun p => p.2)).getD 0) } }
  else
    ({ s with ledger := { s.ledger with transients := s.ledger.transients.put key (0, s.time.now) } }).errRec 2 d0 d1
      ([b8 stage, b8 d2] ++ leBytes 4 n)

/-- A core is marked suspect (R450, R451). -/
def State.markCore (s : State) (i c : Nat) : State :=
  (s.setBay i { s.bay i with suspect := (s.bay i).suspect.put c s.time.now }).suspectEvent (i / 22) (i % 22) c
/-- A retry has failed on a core (R450, R451): it is marked suspect, and withdrawn when it is already suspect within 24 h. -/
def State.suspectCore (s : State) (i c : Nat) : State :=
  let again := match (s.bay i).suspect.get c with
    | some t => decide (s.time.now ≤ t + dayTicks)
    | none => false
  let s1 := s.markCore i c
  if again then s1.withdrawCore i c .integrityFault else s1
/-- A core's transient; the third within 24 h marks it suspect (R451). -/
def State.transientCore (s : State) (i c : Nat) : State :=
  let b := s.bay i
  let l := s.time.now :: (b.trans.getD c []).filter (fun t => decide (s.time.now ≤ t + dayTicks))
  let s1 := (((s.setBay i { b with trans := b.trans.put c l }).tallyBay i 95).tallyBay i (128 + c)).transientRec (i / 22) (i % 22) c 3
  if 3 ≤ l.length then s1.markCore i c else s1
/-- A stage 2 transfer of a wing to or from a DPA has failed its retry (R450, R451): the wing's fabric is suspect, or the crossbar when
the path leaves the wing; a second mark within 24 h sets EVT_DEGRADED. -/
def State.suspectPath (s : State) (w a : Nat) : State :=
  let near := decide (a < 2 ^ 40 ∧ dpaStack a / 4 = w ∨ isCarrel a = true ∧ carrelBay a / 22 = w)
  let old := if near then (s.wing w).suspect else s.xbSuspect
  let l := s.time.now :: old.filter (fun t => decide (s.time.now ≤ t + dayTicks))
  let s1 : State := if near then s.setWing w { s.wing w with suspect := l } else { s with xbSuspect := l }
  let s2 := if near then (s1.suspectEvent w 0xFF 0xFF).faultRec w 0xFF 0xFF 2 0xFF
    else (s1.suspectEvent 0xFF 0xFF 0xFE).faultRec 0xFF 0xFF 0xFE 2 0xFF
  if 2 ≤ l.length then s2.degrade else s2
/-- The same transfer has passed on its retry (R449). -/
def State.transientPath (s : State) (w a : Nat) : State :=
  if a < 2 ^ 40 ∧ dpaStack a / 4 = w ∨ isCarrel a = true ∧ carrelBay a / 22 = w then s.transientRec w 0xFF 0xFF 2 else s.transientRec 0xFF 0xFF 0xFE 2
/-- A checked transfer's outcome is recorded (R449, R450). -/
def State.checked (s : State) (w a : Nat) (chk : Check) : State :=
  match chk with | .pass => s | .transient => s.transientPath w a | .fail => s.suspectPath w a

/-- The open buckets of a stack whose adders are disabled (Table 20.11). -/
def State.nmaBucket (s : State) (tag : Nat) : State :=
  let s1 := s.drainBucket tag true
  match s1.bucket tag with
  | some b => if b.ended then s1.setBucket tag { b with endedNma := true } else s1
  | none => s1
/-- The adders of a stack's controller have failed a check (R450, R451): suspect, and disabled at the second within 24 h. -/
def State.suspectAdders (s : State) (k : Nat) : State :=
  let x := s.stk k
  let l := s.time.now :: x.nmaSuspect.filter (fun t => decide (s.time.now ≤ t + dayTicks))
  let s1 := (((s.setStk k { x with nmaSuspect := l }).suspectEvent (k / 4) 0xFF (k % 4)).faultRec (k / 4) 0xFF (k % 4) 4 0xFF)
  if 2 ≤ l.length ∧ !x.nmaOff then
    let s2 := ((s1.setStk k { s1.stk k with nmaOff := true }).errRec 0xD (k / 4) (k % 4) []).degrade
    (s2.bucketsIn k).foldl (fun s t => s.nmaBucket t) s2
  else s1

/-- A stack is lost (R301, R302): cause 1 training, 2 T5; the wing's last one takes the wing with it (Table 20.5). -/
def State.loseStack (s : State) (k cause : Nat) : State :=
  let x := s.stk k
  if x.lost then s else
  (((s.setStk k { x with lost := true, ready := false, draining := false, selfRefresh := false, queues := [] }).errRec 8 (k / 4) k
    [b8 cause]).endStackWork k).checkWing (k / 4)

/-! Resets -/

/-- A bay as a reset leaves it: its kind and test results stay; a withdrawn bay is tested again unless a spare bay takes
its place (R403, R453). -/
def Bay.afterReset (b : Bay) : Bay :=
  { kind := b.kind, gone := b.gone, good := b.good, lu := b.lu, laneSpares := b.laneSpares
    cores := if b.kind == .enabled && !b.gone then b.cores else 0 }

/-- Withdrawn enabled bays of a wing, and its spare bays. -/
def lostBays (bays : Tbl Bay) (w : Nat) : List Nat :=
  ((List.range 22).map (· + w * 22)).filter (fun i => (bays.getD i {}).kind == .enabled && (bays.getD i {}).gone)
def spareBays (bays : Tbl Bay) (w : Nat) : List Nat :=
  ((List.range 22).map (· + w * 22)).filter (fun i => (bays.getD i {}).kind == .spare)
/-- Spare bays of a wing take the place of withdrawn ones (R453). -/
def fitSpares (bays : Tbl Bay) (w : Nat) : Tbl Bay :=
  ((lostBays bays w).zip (spareBays bays w)).foldl (fun t p =>
    (t.mod p.2 (fun b => { b with kind := .enabled, cores := 0x7FFF &&& b.good })).mod p.1 (fun b => { b with kind := .absent })) bays
/-- A reset fits the spares, and the withdrawn bays left over are tested again (R403, R453). -/
def refitBays (bays : Tbl Bay) (w : Nat) : Tbl Bay :=
  let t := fitSpares bays w
  (lostBays t w).foldl (fun t i => t.mod i (fun b => { b with gone := false })) t

/-- The entries of a stack as the ledger holds them (R294, R295, Table 20.8). -/
def shelvesOf (l : List LRec) (stack : Nat) : Tbl Shelf :=
  (l.filter (fun r => r.unit == stack && !r.torn)).foldl (fun t r =>
    let d := r.detail
    t.put (rowKey (fld d 0 1) (fld d 1 1) (fld d 2 2))
      { spare := fld d 6 2, count := fld d 5 1, hard := fld d 4 1 == 1, recorded := true }) []
/-- A stack as a reset leaves it: its temperature, its rows' failure counts and the number of its hard repairs stay, and the reshelving
entries are the ledger's (R294, R295, R297). -/
def Stack.afterReset (k : Stack) (shelves : Tbl Shelf) : Stack :=
  { temp := k.temp, shelves := shelves, rowFails := k.rowFails, hardDone := k.hardDone }

/-- A domain as a reset leaves it: age, ceiling and temperature stay (R427, R428). -/
def Domain.afterReset (d : Domain) (up : Bool) : Domain :=
  { age := d.age, ceiling := d.ceiling, tj := d.tj, tjMax := d.tjMax, on := up }

/-- A mailbox as a reset leaves it; commands fetched before post nothing (Table 15.15). -/
def Mailbox.afterReset (m : Mailbox) : Mailbox := { epoch := m.epoch + 1 }

/-- Everything volatile at its reset value; ledger, OTP and what is fixed at test stay (Table 17.4). -/
def State.fresh (s : State) : State :=
  let r := State.reset
  { r with
    grade := s.grade
    pending := s.pending
    draw := s.draw
    power := { r.power with
      st := s.power.st, feedA := s.power.feedA, feedB := s.power.feedB, feedLimit := s.power.feedLimit
      curLimit := s.power.curLimit, limit := min 3600 (min s.power.feedLimit (s.power.curLimit / 1000))
      inputMw := s.power.inputMw, inlet := s.power.inlet, outlet := s.power.outlet, perst := s.power.perst
      cooling := s.power.cooling, prsnt := s.power.prsnt, vio := s.power.vio, sdaOpenDrain := s.power.sdaOpenDrain
      i3c := s.power.i3c, reply := s.power.reply, nack := s.power.nack
      domains := s.power.domains.map (fun d => (d.1, d.2.afterReset ([72, 76, 79].contains d.1 && s.power.st != .off))) }
    hex := { r.hex with otp := s.hex.otp }
    ledger := { s.ledger with ready := false, transients := [] }
    mbx := s.mbx.map (fun m => (m.1, m.2.afterReset))
    bays := (List.range 4).foldl refitBays (s.bays.map (fun b => (b.1, b.2.afterReset)))
    stks := s.stks.map (fun k => (k.1, k.2.afterReset (shelvesOf s.ledger.reshelves k.1)))
    ports := s.ports.map (fun p => (p.1, { present := p.2.present }))
    host := { r.host with mem := s.host.mem } }

/-- Bring-up begins at the release of PERST_N (Table 17.1): TIM_NOW starts at 0 from the oscillator; all domains power up. -/
def State.bringUp (s : State) : State :=
  { s with
    power := { s.power with
      st := .run, earlyRelease := false, cooling := false, softReset := false, ckoDriven := true
      domains := s.power.domains.map (fun d => (d.1, { d.2 with on := true })) }
    time := { running := true } }

/-- Bring-up begins unless the module still cools after a thermal shutdown (R426). -/
def State.tryBringUp (s : State) : State :=
  if s.power.cooling && !(decide (s.power.outlet < 450) && s.power.domains.all (fun d => decide (d.2.tj < 85))) then
    { s with power := { s.power with earlyRelease := true } }
  else s.bringUp

/-- A cold reset (both feeds lost) or warm reset (PERST_N): all that is volatile is cleared (Table 17.4). -/
def State.resetTo (s : State) (st : PowerState) : State :=
  ({ s with power := { s.power with st := st } }).fresh

/-- A module reset (R408): the timebase and the host port are kept, and bring-up runs from the ledger scan on. -/
def State.moduleReset (s : State) : State :=
  let f := s.fresh
  { f with
    time := { s.time with follow := none }
    host := { f.host with msgs := s.host.msgs, pba := s.host.pba, msix := s.host.msix }
    power := { f.power with
      st := .run, softReset := true, ckoDriven := true
      domains := f.power.domains.map (fun d => (d.1, { d.2 with on := true })) } }

/-- Every domain but D.AON, D.MAINT and D.LEDGER is switched off, with the contexts and results they held. -/
def State.switchOff (s : State) (st : PowerState) : State :=
  let f := s.resetTo st
  { f with
    time := { s.time with running := true, hostLocked := false, follow := none, lockedSince := none }
    ledger := s.ledger
    power := { f.power with alert := true, ckoDriven := false }
    host := { f.host with health := s.host.health } }

/-- Module thermal shutdown (R426). -/
def State.thermalShutdown (s : State) : State :=
  let s1 := s.lifeRec 2 0xFF
  let f := s1.switchOff .thermal
  { f with power := { f.power with cooling := true } }

/-- Desk failure (R459), with the failed domain; D.LEDGER (79) failed writes no record, D.AON (72) leaves nothing answering. -/
def State.deskFailure (s : State) (dom : Nat) : State :=
  let s1 := if dom = 79 then s else s.lifeRec 3 dom
  let f := (s1.switchOff .deskFailed).setHealth 0 true
  if dom = 72 then { f with power := { f.power with st := .off, prsnt := false, alert := false, i3c := none } } else f

end Sys2Proof.Machine
end

