-- ==== Sys2Proof/Machine/Memory.lean ====
section
/-! DEFINITION. The stacks: requests, check code and poison, patrol scrub, reshelving, thermal steps and retraining
(R281 to R304). -/

namespace Sys2Proof.Machine

/-- A count of a stack record (Table 21.2). -/
def State.stkCount (s : State) (k j n : Nat) : State :=
  s.setStk k { s.stk k with cnt := bumpCnt (s.stk k).cnt j n }

/-- An earlier event of a page still held has its count raised (R287). -/
def bumpHeld (l : List Evt) (page : Nat) : List Evt :=
  l.map (fun e => if e.code = 1 ∧ fld e.detail 0 6 / 65536 = page then { e with repeat_ := satAdd 255 e.repeat_ 1 } else e)

/-- The event and the record of a detection with no event of its page within 1 ms (R287). -/
def State.detectNew (s1 : State) (st page : Nat) (k1 : Stack) (loc : List Byte) (a : Nat) : State :=
  let s2 := s1.setStk st { k1 with pageEvents := k1.pageEvents.put page (s1.time.now, 0) }
  (s2.event .uncorrectableMemory 1 0xFF (loc ++ [b8 st, b8 (dpaPc a), b8 (dpaBank a)] ++ leBytes 2 (dpaRow a))).errRec 1
    (st / 4) st (loc ++ [b8 (dpaPc a), b8 (dpaBank a)] ++ leBytes 2 (dpaRow a))

/-- Uncorrectable data is detected at a DPA: the granule is poisoned, and an event and a record follow unless one for the page
is within 1 ms, whose count is raised instead (R284, R285, R287). -/
def State.detect (s : State) (a : Nat) : State :=
  let g := a / 256
  let st := dpaStack a
  let page := a / 65536
  let s1 := (s.poisonRange (256 * g) 256).stkCount st 3 1
  let k := s1.stk st
  let loc := leBytes 6 (256 * g)
  let k1 := { k with detected := k.detected.put g 0 }
  match k.pageEvents.get page with
  | some (t, n) =>
    if s.time.now < t + 1000000 then
      ({ s1 with evt := { s1.evt with held := bumpHeld s1.evt.held page } }).setStk st
        { k1 with pageEvents := k1.pageEvents.put page (t, n + 1) }
    else s1.detectNew st page k1 loc a
  | none => s1.detectNew st page k1 loc a

/-- One failed symbol is corrected: it is counted, and the row's tally advances; the third within 24 h fails the row (R284, R293). -/
def State.corrected (s : State) (a : Nat) : State :=
  let st := dpaStack a
  let pc := dpaPc a
  let key := rowKey pc (dpaBank a) (dpaRow a)
  let s1 := s.stkCount st 2 1
  let k := s1.stk st
  let tab := k.tallies.getD pc []
  let now := s.time.now
  let old := (tab.find? (fun t => t.row == key)).map (fun t => t.times)
  let recent := (old.getD []).filter (fun t => decide (now ≤ t + 86400000000000))
  let rest := tab.filter (fun t => t.row != key)
  if 2 ≤ recent.length then
    (s1.setStk st { k with tallies := k.tallies.put pc rest }).rowFails st key
  else
    let room := if rest.length < 64 then rest else rest.drop 1
    s1.setStk st { k with tallies := k.tallies.put pc (room ++ [{ row := key, times := (now :: recent).take 2 }]) }

/-- A read of a 64-byte block with its number of failed symbols: corrected, detected, or, beyond two, detected or not
(R284 leaves the frequency open: a free draw). The flag says that wrong data is returned undetected. -/
def State.checkBlock (s : State) (a failed : Nat) : State × Bool :=
  if failed = 0 then (s, false)
  else if failed = 1 then (s.corrected a, false)
  else if failed = 2 then (s.detect a, false)
  else if Config.free s.draw 1 % 2 = 0 then (({ s with draw := s.draw + 1 }).detect a, false)
  else ({ s with draw := s.draw + 1 }, true)

/-- A request is served (R282 to R286, R167): reads return data or poison, a write lands; a request from outside a secret
region's context reads 0xFF and writes nothing. -/
def State.serve (s : State) (st failed : Nat) (r : MemReq) : State :=
  let s0 := s.setStk st { s.stk st with
    openRows := (s.stk st).openRows.put (dpaPc r.addr * 16 + dpaBank r.addr) (dpaRow r.addr), served := some s.time.now }
  let foreign := s0.ctxs.any (fun c => r.owner != some c.1 &&
    c.2.regions.any (fun g => decide (g.base < r.addr + r.len ∧ r.addr < g.base + g.len)))
  let give (s : State) (d : List Byte) (p : Bool) : State := s.setStk st { s.stk st with out := d, outPoison := p }
  if foreign then
    (if r.write.isSome then s0.count 2 1 else give (s0.count 2 1) (List.replicate r.len 0xFF) false)
  else match r.write with
  | some d =>
    let s1 := s0.stkCount st 1 r.len
    if r.poison then s1.writePoison r.addr r.len else s1.write r.addr (d.take r.len)
  | none =>
    let (s1, wrong) := (s0.stkCount st 0 r.len).checkBlock r.addr failed
    if s1.poisoned r.addr r.len then give s1 [] true
    else if wrong then give { s1 with draw := s1.draw + 1 } (Config.freeBytes s1.draw 2 r.len) false
    else give s1 (s1.bytes r.addr r.len) false

/-- The entry that a queue serves next: the oldest when it has waited 1 µs, else the first whose row is open, else the oldest (R281). -/
def nextEntry (k : Stack) (now : Nat) (q : List (MemReq × Nat)) : Option (MemReq × Nat) :=
  let opened (e : MemReq × Nat) : Bool := k.openRows.get (dpaPc e.1.addr * 16 + dpaBank e.1.addr) == some (dpaRow e.1.addr)
  match q.head? with
  | some e => if e.2 + 1000 ≤ now then some e else some ((q.find? opened).getD e)
  | none => none

/-- MEMORY_REQUEST: a request enters its pseudo-channel's queue when there is room and the stack takes requests, and the
queue serves one entry (R281). -/
def execMemoryRequest (r : Option MemReq) (stack pc failedSymbols : Nat) (s : State) : Res :=
  act s fun s =>
    let k := s.stk stack
    let q := k.queues.getD pc []
    let fits (r : MemReq) : Bool :=
      decide (dpaStack r.addr = stack ∧ dpaPc r.addr = pc ∧ 0 < r.len ∧ r.len ≤ 256 ∧ r.addr % 256 + r.len ≤ 256 ∧ r.addr < 2 ^ 40)
        && (s.reachAt r.addr).isNone && !k.drained
    let q1 := match r with
      | some r => if fits r && decide (q.length < 32) then q ++ [(r, s.time.now)] else q
      | none => q
    let s1 := if decide (q.length = 32) && r.isSome then s.stkCount stack 11 1 else s
    if k.lost || 5 ≤ k.step || k.selfRefresh then s else
    match nextEntry k s.time.now q1 with
    | none => s1.setStk stack { s1.stk stack with queues := (s1.stk stack).queues.put pc q1 }
    | some e => (s1.setStk stack { s1.stk stack with queues := (s1.stk stack).queues.put pc (q1.erase e) }).serve stack failedSymbols e.1

/-- PATROL_SCRUB: a patrol read corrects and detects as a request does (R288). -/
def execPatrolScrub (stack pc bank row block failedSymbols : Nat) (s : State) : Res :=
  act s fun s =>
    let a := rowDpa stack pc bank row (block / 4 % 4) + block % 4 * 64
    let k := s.stk stack
    if k.ready = false ∨ 64 ≤ pc ∨ 16 ≤ bank ∨ s.grade.stackBytes ≤ a % 2 ^ 36 ∨ 16 ≤ stack then s
    else ((s.stkCount stack 4 1).checkBlock a failedSymbols).1

/-! Reshelving -/

/-- The good spares of a bank. -/
def State.sparesOf (s : State) (st pc bank : Nat) : List Nat :=
  ((List.range 64).map (· + bank * 64)).filter (fun r => s.spareFree st pc r)

/-- The spare that a copy takes: in the bank with the most good spares (R294). -/
def State.pickSpare (s : State) (st pc : Nat) : Option Nat :=
  let best := (List.range 16).foldl (fun b i => if (s.sparesOf st pc b).length < (s.sparesOf st pc i).length then i else b) 0
  (s.sparesOf st pc best).head?

/-- The page of a row. -/
def rowPage (st bank row : Nat) : Nat := st * 2 ^ 36 + row * 2 ^ 20 + bank * 2 ^ 16

/-- A weeding advisory (R296): cause 1 third failure, 2 weed-only. -/
def State.advise (s : State) (st bank row cause : Nat) : State :=
  s.event .ok 2 0xFF (leBytes 6 (rowPage st bank row) ++ [b8 cause])

/-- The first weed-only pseudo-channel of a stack is reported (R296, Table 20.5). -/
def State.weedOnlyCheck (s : State) (before : Bool) (st pc : Nat) : State :=
  if !before && s.weedOnly st pc then (s.event .ok 4 0xFF [b8 st, b8 pc]).degrade else s

/-- RESHELVE_ROW: a failing row is copied to a spare and remapped (R294, R295, Table 12.4). The copy keeps every byte and every poisoned
block at its address; `row.reads` gives the blocks of the row, 0 to 15, in which the copy's reads find failed symbols, with their numbers: it
corrects under R284, and what it cannot correct is copied as poison, with an event (R294, Table 12.7). -/
def execReshelveRow (stack pc bank : Nat) (row : RowCopy) (s : State) : Res :=
  act s fun s =>
    let reads := row.reads
    let row := row.row
    let key := rowKey pc bank row
    if !(s.stk stack).failing.contains key then s else
    let s := reads.foldl (fun (s : State) q => (s.checkBlock (rowDpa stack pc bank row (q.1 / 4 % 4) + q.1 % 4 * 64) q.2).1) s
    let k := s.stk stack
    let anyWeed := (List.range 64).any (fun p => s.weedOnly stack p)
    let k1 := { k with failing := k.failing.filter (· != key)
                       tallies := k.tallies.put pc ((k.tallies.getD pc []).filter (fun t => t.row != key)) }
    let s1 := s.setStk stack k1
    let remap (s : State) (count : Nat) (spare : Nat) : State :=
      let x := s.stk stack
      let s2 := (s.setStk stack { x with
        shelves := x.shelves.put key { spare := spare, count := count, hard := false, recorded := false } }).stkCount stack 12 1
      let s3 := if 3 ≤ count then s2.advise stack bank row 1 else s2
      s3.weedOnlyCheck anyWeed stack pc
    match k.shelves.get key with
    | some e =>
      if e.hard then
        match s1.pickSpare stack pc with
        | some sp => if (k.entriesOf pc).length < 256 then remap s1 (e.count + 1) sp else s1.advise stack bank row 2
        | none => s1.advise stack bank row 2
      else
        match s1.pickSpare stack pc with
        | some sp =>
          remap { s1 with ledger := { s1.ledger with
            badSpares := addBlocks s1.ledger.badSpares [stack * 65536 + pc * 1024 + e.spare] } } (e.count + 1) sp
        | none => s1.advise stack bank row 2
    | none =>
      match s1.pickSpare stack pc with
      | some sp => if (k.entriesOf pc).length < 256 then remap s1 (k.rowFails.getD key 0 + 1) sp else s1.advise stack bank row 2
      | none => s1.advise stack bank row 2

/-- A row's entry in the ledger's reshelving list, one record per row (R460, R461, Table 20.8). -/
def State.shelfRecord (s : State) (stack pc bank row : Nat) (e : Shelf) : State :=
  let where_ := [b8 pc, b8 bank] ++ leBytes 2 row
  let rest := s.ledger.reshelves.filter (fun r => !(r.unit == stack && r.detail.take 4 == where_))
  let r := s.lrec 2 1 (stack / 4) stack (where_ ++ [if e.hard then 1 else 0, b8 e.count] ++ leBytes 2 e.spare)
  { s with ledger := { s.ledger with reshelves := rest ++ [r] } }
/-- RESHELVE_LEDGER_RECORD: the entry is durable (R294). -/
def execReshelveLedgerRecord (stack pc bank row : Nat) (s : State) : Res :=
  act s fun s =>
    let key := rowKey pc bank row
    let k := s.stk stack
    match k.shelves.get key with
    | none => s
    | some e =>
      (s.setStk stack { k with shelves := k.shelves.put key { e with recorded := true } }).shelfRecord stack pc bank row e

/-! Thermal steps -/

/-- The highest step whose entry threshold a reading meets (Table 12.5). -/
def stepMet (t : Int) : Nat :=
  if 110 ≤ t then 5 else if 105 ≤ t then 4 else if 100 ≤ t then 3 else if 95 ≤ t then 2 else if 85 ≤ t then 1 else 0

/-- A step of 1 to 3 is left only below its exit threshold. -/
def stepHeld (st : Nat) (t : Int) : Bool :=
  match st with
  | 1 => decide (82 ≤ t)
  | 2 => decide (92 ≤ t)
  | 3 => decide (97 ≤ t)
  | _ => false

/-- The step after a reading (R298); T4 is left only by the resume of R300, T5 never. -/
def nextStep (old : Nat) (t : Int) : Nat :=
  if 5 ≤ old then 5
  else if old = 4 then (if 110 ≤ t then 5 else 4)
  else
    let held := ([3, 2, 1].find? (fun r => decide (r ≤ old) && stepHeld r t)).getD 0
    max (stepMet t) held

/-- A change of step posts an event (R298). -/
def State.stepEvent (s : State) (k old new : Nat) : State :=
  s.event (if 4 ≤ new then .thermalHalt else .ok) 5 0xFF [b8 k, b8 old, b8 new]

/-- A stack's self-test is abandoned at T4 with THERMAL_HALT (Table 18.7). -/
def State.abandonStackTest (s : State) (k : Nat) : State :=
  match s.tests.find? (fun t => t.cls == 1 && t.idx == k) with
  | none => s
  | some t => ({ s with tests := s.tests.erase t }).complete t.owed .thermalHalt []

/-- The snapshot buffer is usable (R470). -/
def State.bufUsable (s : State) : Bool :=
  let a := s.stamps.bufBase.toNat
  let n := s.stamps.bufLen.toNat
  a % 4096 == 0 && n % 4096 == 0 && decide (0 < n ∧ a + n ≤ 2 ^ 40) && dpaStack a == dpaStack (a + n - 1)
    && (pagesOf a n).all (fun p => (s.reachAt (65536 * p)).isNone) && !s.foreign 16 a n
/-- The directory's own words (Table 21.3), and the words of a range, are written by the module. -/
def State.writeDir (s : State) : State :=
  if s.bufUsable then s.write (s.stamps.bufBase.toNat + 64) (leBytes 8 s.stamps.next ++ leBytes 8 s.stamps.written) else s
/-- A write of a buffer register takes effect (R471). -/
def State.bufWrite (s : State) (len : Bool) (v : W64) : State :=
  let t := s.stamps
  let t1 : Stamps := if len then { t with bufLen := v } else { t with bufBase := v }
  ({ s with stamps := { t1 with next := 0x1000, written := 0 } }).writeDir
/-- A snapshot whose buffer lies in a stack that halts ends unfinished (Table 21.7). -/
def State.abandonSnapshot (s : State) (k : Nat) : State :=
  if s.stamps.busy && dpaStack s.stamps.bufBase.toNat == k then
    s.stamps.pendingBuf.foldl (fun s w => s.bufWrite w.1 w.2)
      { s with stamps := { s.stamps with busy := false, overrun := true, latched := none, pendingBuf := [] } }
  else s

/-- STACK_THERMAL_READING (R298, R300, R301). -/
def execStackThermalReading (stack : Nat) (t : Int) (s : State) : Res :=
  act s fun s =>
    let k := s.stk stack
    if 16 ≤ stack ∨ s.power.st ≠ .run then s
    else if k.lost then s.setStk stack { k with temp := t }
    else
      let new := nextStep k.step t
      let s1 := s.setStk stack { k with temp := t, step := new }
      if new = k.step then s1
      else
        let s2 := s1.stepEvent stack k.step new
        if new = 4 then
          let s3 := (s2.abandonStackTest stack).abandonSnapshot stack
          (s3.setStk stack { s3.stk stack with ready := false, draining := true }).haltStackWork stack
        else if new = 5 then
          let s3 := (s2.abandonStackTest stack).abandonSnapshot stack
          let s4 := s3.loseStack stack 2
          s4.setDom (stack / 4 * 18 + 12 + stack % 4) { s4.dom (stack / 4 * 18 + 12 + stack % 4) with on := false }
        else s2

/-- STACK_DRAIN_END: what is queued has been served, and the stack enters self-refresh (R300). -/
def execStackDrainEnd (stack : Nat) (s : State) : Res :=
  act s fun s =>
    let k := s.stk stack
    if k.step = 4 ∧ k.draining then
      let reqs := k.queues.flatMap (fun q => q.2)
      let s1 := reqs.foldl (fun s r => s.serve stack 0 r.1) (s.setStk stack { k with queues := [] })
      s1.setStk stack { s1.stk stack with draining := false, selfRefresh := true }
    else s

/-- STACK_RESUME: at 95 °C or lower the stack leaves self-refresh, retrains and serves in the step of the reading (R300, R303). -/
def execStackResume (stack : Nat) (t : Int) (s : State) : Res :=
  act s fun s =>
    let k := s.stk stack
    if k.step = 4 ∧ k.selfRefresh ∧ t ≤ 95 then
      (s.setStk stack { k with
        step := stepMet t, temp := t, trainTemp := t, selfRefresh := false, ready := true, retrain := [] }).stepEvent stack 4 (stepMet t)
    else s

/-- RETRAIN_SLICE: after three failures in a row on a pseudo-channel an event is posted (R303). -/
def execRetrainSlice (stack pc : Nat) (ok : Bool) (s : State) : Res :=
  act s fun s =>
    let k := s.stk stack
    if k.ready = false ∨ 16 ≤ stack ∨ 64 ≤ pc then s else
    let n := if ok then 0 else k.retrain.getD pc 0 + 1
    let s1 := (s.setStk stack { k with retrain := k.retrain.put pc n, trainTemp := if ok then k.temp else k.trainTemp }).stkCount stack 15 1
    if n = 3 then s1.event .ok 6 0xFF [b8 stack, b8 pc] else s1

end Sys2Proof.Machine
end

