-- ==== Sys2Proof/Machine/Curve.lean ====
section
/-! DEFINITION. P-384 on the big-number engine (R395 to R397): the curve, the blinding of R396, ECDH and ECDSA with SHA-384.
PRESUMED: the curve's constants and SHA-384 are those of FIPS 186 and FIPS 180, which the spec names and does not restate. -/

namespace Sys2Proof.Machine

/-- The field's prime, the curve's b, the group order n, and the base point. -/
def p384Field : Nat := 2 ^ 384 - 2 ^ 128 - 2 ^ 96 + 2 ^ 32 - 1
def p384B : Nat :=
  0xB3312FA7E23EE7E4988E056BE3F82D19181D9C6EFE8141120314088F5013875AC656398D8A2ED19D2A85C8EDD3EC2AEF
def p384Order : Nat :=
  0xFFFFFFFFFFFFFFFFFFFFFFFFFFFFFFFFFFFFFFFFFFFFFFFFC7634D81F4372DDF581A0DB248B0A77AECEC196ACCC52973
/-- A point in projective (Jacobian) coordinates: (x/z², y/z³); at infinity where z is 0. -/
structure Pt where
  x : Nat
  y : Nat
  z : Nat
deriving DecidableEq, Repr
def p384Base : Pt :=
  ⟨0xAA87CA22BE8B05378EB1C71EF320AD746E1D3B628BA79B9859F741E082542A385502F25DBF55296C3A545E3872760AB7,
   0x3617DE4A96262C6F5D9E98BF9292DC29F8F41DBD289A147CE9DA3113B5F0B8C00A60B1CE1D7E819D7A431D7C90EA0E5F, 1⟩
def Pt.inf : Pt := ⟨1, 1, 0⟩
/-- Field arithmetic. -/
def fmulP (a b : Nat) : Nat := a * b % p384Field
def fsubP (a b : Nat) : Nat := (a + (p384Field - b % p384Field)) % p384Field
/-- An affine point satisfies y² = x³ − 3x + b. -/
def onCurve (x y : Nat) : Bool :=
  decide (x < p384Field ∧ y < p384Field) && fmulP y y == fsubP (x * x * x + p384B) (3 * x)
def Pt.dbl (a : Pt) : Pt :=
  if a.z = 0 ∨ a.y = 0 then Pt.inf else
  let d := fmulP a.z a.z
  let g := fmulP a.y a.y
  let b := fmulP a.x g
  let m := fmulP 3 (fmulP (fsubP a.x d) (a.x + d))
  let x := fsubP (fmulP m m) (8 * b)
  ⟨x, fsubP (fmulP m (fsubP (4 * b) x)) (8 * fmulP g g), fmulP 2 (fmulP a.y a.z)⟩
def Pt.add (a b : Pt) : Pt :=
  if a.z = 0 then b else if b.z = 0 then a else
  let za := fmulP a.z a.z
  let zb := fmulP b.z b.z
  let u := fmulP a.x zb
  let s := fmulP a.y (fmulP b.z zb)
  let h := fsubP (fmulP b.x za) u
  let r := fsubP (fmulP b.y (fmulP a.z za)) s
  if h = 0 then (if r = 0 then a.dbl else Pt.inf) else
  let h2 := fmulP h h
  let h3 := fmulP h h2
  let v := fmulP u h2
  let x := fsubP (fmulP r r) (h3 + 2 * v)
  ⟨x, fsubP (fmulP r (fsubP v x)) (fmulP s h3), fmulP h (fmulP a.z b.z)⟩
def Pt.neg (a : Pt) : Pt := { a with y := fsubP 0 a.y }
/-- k·P by double and add, for k below 2^512. -/
def Pt.mul (k : Nat) (a : Pt) : Pt :=
  (List.range 512).reverse.foldl (fun q i => if k.testBit i then q.dbl.add a else q.dbl) Pt.inf
/-- The affine coordinates of a point that is not at infinity. -/
def Pt.affine (a : Pt) : Nat × Nat :=
  let i := powMod p384Field a.z (p384Field - 2)
  (fmulP a.x (fmulP i i), fmulP a.y (fmulP i (fmulP i i)))

/-! Encoding (SEC 1, uncompressed, big-endian; R388) -/

def Pt.encode (a : Pt) : List Byte := [4] ++ toBytesBe 48 a.affine.1 ++ toBytesBe 48 a.affine.2
/-- The point that 97 bytes encode, when it is one of the curve (R389, R397). -/
def Pt.decode (b : List Byte) : Option Pt :=
  let x := toNatBe ((b.drop 1).take 48)
  let y := toNatBe ((b.drop 49).take 48)
  if b.length = 97 ∧ b.head? = some 4 ∧ onCurve x y then some ⟨x, y, 1⟩ else none

/-! Blinding (R396) -/

/-- Fresh values of one secret operation: r for the scalar, Z for the coordinates, and the scalar of the random point R. -/
structure Blind where
  r : Nat
  z : Nat
  t : Nat
deriving DecidableEq, Repr
/-- The values that the keeper's DRBG gives in draw `d` for operation `i`: r of 64 bits, Z not zero, R not at infinity. -/
def Blind.drawn (d i : Nat) : Blind :=
  { r := Config.free d (2 ^ 48 + 4 * i) % 2 ^ 64, z := 1 + Config.free d (2 ^ 48 + 4 * i + 1) % (p384Field - 1)
    t := 1 + Config.free d (2 ^ 48 + 4 * i + 2) % (p384Order - 1) }
/-- Each point is scaled by Z. -/
def Pt.rescale (a : Pt) (z : Nat) : Pt := ⟨fmulP a.x (fmulP z z), fmulP a.y (fmulP z (fmulP z z)), fmulP a.z z⟩
/-- k·P as the keeper computes it: (k + r·n)·(P + R) − (k + r·n)·R, in coordinates scaled by Z. -/
def Pt.blindMul (k : Nat) (a : Pt) (b : Blind) : Pt :=
  let kb := k + b.r * p384Order
  let r := (p384Base.mul b.t).rescale b.z
  (((a.rescale b.z).add r).mul kb).add (r.mul kb).neg

/-! Jobs (Table 16.10) -/

/-- The keeper's fresh secret scalar of a session. -/
def ecdhSecret (d : Nat) : Nat := 1 + Config.free d (2 ^ 48 + 3) % (p384Order - 1)
/-- Key generation: Q_M, on the curve, and equal to itself computed without blinding; none where the invariant fails. -/
def ecdhPublic (d : Nat) : Option (List Byte) :=
  let q := p384Base.blindMul (ecdhSecret d) (Blind.drawn d 0)
  if q.z ≠ 0 ∧ onCurve q.affine.1 q.affine.2 ∧ q.affine = (p384Base.mul (ecdhSecret d)).affine then some q.encode else none
/-- The shared secret: the x-coordinate of the keeper's scalar times a peer point on the curve; on the curve, not at infinity, and equal to
itself under fresh blinding. -/
def ecdhShared (d : Nat) (peer : List Byte) : Option (List Byte) :=
  (Pt.decode peer).bind (fun p =>
    let z := p.blindMul (ecdhSecret d) (Blind.drawn d 1)
    let y := p.blindMul (ecdhSecret d) (Blind.drawn d 2)
    if z.z ≠ 0 ∧ onCurve z.affine.1 z.affine.2 ∧ z.affine = y.affine then some (toBytesBe 48 z.affine.1) else none)

/-! SHA-384 -/

/-- The primes below 410: the first 80. -/
def primes80 : List Nat := (List.range 410).filter (fun n => 2 ≤ n && (List.range 21).all (fun d => d < 2 || n ≤ d || n % d != 0))
/-- ⌊cube root⌋ by bits. -/
def icbrt (n : Nat) : Nat := (List.range 70).reverse.foldl (fun r i => if (r + 2 ^ i) ^ 3 ≤ n then r + 2 ^ i else r) 0
/-- The first 64 bits of the fractional parts of the primes' cube roots, and of square roots. -/
def sha512K : List W64 := primes80.map (fun p => BitVec.ofNat 64 (icbrt (p * 2 ^ 192)))
def sha384H : List W64 := ((primes80.drop 8).take 8).map (fun p => BitVec.ofNat 64 (isqrt (p * 2 ^ 128)))
/-- The 80 words of a block's schedule. -/
def sha512W (blk : List Byte) : List W64 :=
  let w0 : List W64 := (List.range 16).map (fun i => BitVec.ofNat 64 (toNatBe ((blk.drop (8 * i)).take 8)))
  (List.range 64).foldl (fun w i =>
    let g (j : Nat) : W64 := w.getD j 0
    let a := g (i + 1)
    let b := g (i + 14)
    w ++ [g i + g (i + 9) + (a.rotateRight 1 ^^^ a.rotateRight 8 ^^^ (a >>> 7)) + (b.rotateRight 19 ^^^ b.rotateRight 61 ^^^ (b >>> 6))]) w0
/-- One block. -/
def sha512Block (h : List W64) (blk : List Byte) : List W64 :=
  let out := ((sha512K.zip (sha512W blk))).foldl (fun (v : List W64) kw =>
    let g (j : Nat) : W64 := v.getD j 0
    let e := g 4
    let a := g 0
    let t1 := g 7 + (e.rotateRight 14 ^^^ e.rotateRight 18 ^^^ e.rotateRight 41) + ((e &&& g 5) ^^^ (~~~e &&& g 6)) + kw.1 + kw.2
    let t2 := (a.rotateRight 28 ^^^ a.rotateRight 34 ^^^ a.rotateRight 39) + ((a &&& g 1) ^^^ (a &&& g 2) ^^^ (g 1 &&& g 2))
    [t1 + t2, a, g 1, g 2, g 3 + t1, e, g 5, g 6]) h
  (h.zip out).map (fun p => p.1 + p.2)
def sha512Blocks (fuel : Nat) (h : List W64) (m : List Byte) : List W64 :=
  match fuel with
  | 0 => h
  | f + 1 => if m.isEmpty then h else sha512Blocks f (sha512Block h (m.take 128)) (m.drop 128)
def sha384 (m : List Byte) : List Byte :=
  let m1 := m ++ [0x80] ++ zeros ((239 - m.length % 128) % 128) ++ toBytesBe 16 (8 * m.length)
  ((sha512Blocks (m1.length / 128) sha384H m1).flatMap (fun w => toBytesBe 8 w.toNat)).take 48

/-! ECDSA -/

/-- Verification of a signature r ‖ s over a message (R393, Table 16.10): u1·G + u2·Q has r as its x-coordinate modulo n. -/
def ecdsaVerify (key msg sig : List Byte) : Bool :=
  let r := toNatBe (sig.take 48)
  let s := toNatBe ((sig.drop 48).take 48)
  match Pt.decode key with
  | none => false
  | some q =>
    let w := powMod p384Order s (p384Order - 2)
    let u1 := toNatBe (sha384 msg) * w % p384Order
    let u2 := r * w % p384Order
    let x := (p384Base.mul u1).add (q.mul u2)
    decide (1 ≤ r ∧ r < p384Order ∧ 1 ≤ s ∧ s < p384Order) && x.z != 0 && x.affine.1 % p384Order == r

end Sys2Proof.Machine
end

