-- ==== Sys2Proof/Machine/Kem.lean ====
section
/-! DEFINITION. ML-KEM-1024 encapsulation (R388, R389). PRESUMED: SHA-3, SHAKE128 and ML-KEM are those of FIPS 202 and FIPS 203, which the
spec names and does not restate. -/

namespace Sys2Proof.Machine

/-! The sponge of FIPS 202 at any rate -/

def absorbRate (rate : Nat) (a : List W64) (blk : List Byte) : List W64 :=
  keccakF ((List.range 25).map (fun i => a.getD i 0 ^^^ (if 8 * i < rate then BitVec.ofNat 64 (fld blk (8 * i) 8) else 0)))
def squeezeRate (rate : Nat) : Nat → List W64 → List Byte
  | 0, _ => []
  | n + 1, a => (a.take (rate / 8)).flatMap (fun l => leBytes 8 l.toNat) ++ squeezeRate rate n (keccakF a)
/-- Keccak with a rate in bytes, a domain suffix, and an output length. -/
def sponge (rate suffix : Nat) (m : List Byte) (n : Nat) : List Byte :=
  let p := rate - m.length % rate
  let m1 := if p = 1 then m ++ [b8 (suffix + 0x80)] else m ++ [b8 suffix] ++ zeros (p - 2) ++ [0x80]
  let a := (List.range (m1.length / rate)).foldl (fun a i => absorbRate rate a ((m1.drop (rate * i)).take rate)) (List.replicate 25 0)
  (squeezeRate rate (n / rate + 1) a).take n
def sha3x256 (m : List Byte) : List Byte := sponge 136 6 m 32
def sha3x512 (m : List Byte) : List Byte := sponge 72 6 m 64
def shake128 (m : List Byte) (n : Nat) : List Byte := sponge 168 0x1F m n

/-! Polynomials modulo 3,329 -/

def kemQ : Nat := 3329
/-- Reversal of 7 bits, and the root of the i-th quadratic factor X² − γ. -/
def brev7 (i : Nat) : Nat := (List.range 7).foldl (fun a k => a + (if i.testBit k then 2 ^ (6 - k) else 0)) 0
def kemPow (b e : Nat) : Nat := (List.range e).foldl (fun a _ => a * b % kemQ) 1
def kemGamma (i : Nat) : Nat := kemPow 17 (2 * brev7 i + 1)
/-- A sum modulo q. -/
def kemSum (l : List Nat) : Nat := l.foldl (fun a x => (a + x) % kemQ) 0
/-- Powers of a root, constant term first. -/
def kemPowers (g : Nat) : List Nat := ((List.range 128).foldl (fun (p : List Nat × Nat) _ => (p.1 ++ [p.2], p.2 * g % kemQ)) ([], 1)).1
/-- Even and odd coefficients. -/
def evens (f : List Nat) : List Nat := (List.range 128).map (fun j => f.getD (2 * j) 0)
def odds (f : List Nat) : List Nat := (List.range 128).map (fun j => f.getD (2 * j + 1) 0)
/-- The NTT: the remainders modulo the quadratic factors. -/
def kemNtt (f : List Nat) : List Nat :=
  (List.range 128).flatMap (fun i =>
    let w := kemPowers (kemGamma i)
    [kemSum (List.zipWith (· * ·) (evens f) w), kemSum (List.zipWith (· * ·) (odds f) w)])
/-- Its inverse. -/
def kemInv (h : List Nat) : List Nat :=
  let ws := (List.range 128).map (fun i => kemPowers (kemPow (kemGamma i) (kemQ - 2)))
  let half (v : List Nat) (j : Nat) : Nat := kemSum (List.zipWith (fun x w => x * w.getD j 0) v ws) * 3303 % kemQ
  (List.range 128).flatMap (fun j => [half (evens h) j, half (odds h) j])
/-- A product of NTTs. -/
def kemMul (a b : List Nat) : List Nat :=
  (List.range 128).flatMap (fun i =>
    let x (f : List Nat) (k : Nat) : Nat := f.getD (2 * i + k) 0
    [(x a 0 * x b 0 + x a 1 * x b 1 % kemQ * kemGamma i) % kemQ, (x a 0 * x b 1 + x a 1 * x b 0) % kemQ])
def kemAdd (a b : List Nat) : List Nat := List.zipWith (fun x y => (x + y) % kemQ) a b
def kemZero : List Nat := List.replicate 256 0

/-! Sampling and coding -/

/-- Uniform NTT coefficients from a seed of 34 bytes. -/
def sampleNtt (seed : List Byte) : List Nat :=
  let b := shake128 seed 840
  ((List.range 280).flatMap (fun i =>
    let v := fld b (3 * i) 3
    [v % 4096, v / 4096].filter (· < kemQ))).take 256
/-- Centred binomial coefficients with η = 2 from 128 bytes. -/
def sampleCbd (b : List Byte) : List Nat :=
  (List.range 256).map (fun i =>
    let v := fld b (i / 2) 1 / 16 ^ (i % 2) % 16
    (popcount 2 v + kemQ - popcount 2 (v / 4)) % kemQ)
/-- Coefficients of d bits each as bytes, and back. -/
def kemEncode (d : Nat) (f : List Nat) : List Byte := leBytes (32 * d) (f.foldr (fun x a => x + 2 ^ d * a) 0)
def kemDecode (d : Nat) (b : List Byte) : List Nat :=
  let v := leNat b
  (List.range 256).map (fun i => v / 2 ^ (d * i) % 2 ^ d)
def kemCompress (d x : Nat) : Nat := (2 ^ (d + 1) * x + kemQ) / (2 * kemQ) % 2 ^ d

/-- The public vector of an encapsulation key. -/
def kemVector (ek : List Byte) : List (List Nat) := (List.range 4).map (fun i => kemDecode 12 ((ek.drop (384 * i)).take 384))
/-- The modulus check of FIPS 203: every coefficient is below q. -/
def kemCheck (ek : List Byte) : Bool := (kemVector ek).all (fun f => f.all (· < kemQ))
/-- K-PKE encryption of 32 bytes under randomness r. -/
def kemEncrypt (ek m r : List Byte) : List Byte :=
  let rho := (ek.drop 1536).take 32
  let noise (n : Nat) : List Nat := sampleCbd (shake256 (r ++ [b8 n]) 128)
  let y := (List.range 4).map (fun i => kemNtt (noise i))
  let dot (v : List (List Nat)) : List Nat := kemInv ((List.zipWith kemMul v y).foldl kemAdd kemZero)
  let u := (List.range 4).map (fun i =>
    kemAdd (dot ((List.range 4).map (fun j => sampleNtt (rho ++ [b8 i, b8 j])))) (noise (4 + i)))
  let mu := (kemDecode 1 m).map (fun x => x * 1665)
  let v := kemAdd (kemAdd (dot (kemVector ek)) (noise 8)) mu
  u.flatMap (fun f => kemEncode 11 (f.map (kemCompress 11))) ++ kemEncode 5 (v.map (kemCompress 5))
/-- ML-KEM-1024 encapsulation of a fresh message: the shared secret and the ciphertext. -/
def kemEncaps (m ek : List Byte) : List Byte × List Byte :=
  let g := sha3x512 (m ++ sha3x256 ek)
  (g.take 32, kemEncrypt ek m (g.drop 32))

end Sys2Proof.Machine
end

