-- ==== Sys2Proof/Machine/HostPort.lean ====
section
/-! DEFINITION. The host port: mailbox and event-ring registers, read-to-clear and latched reads, the plain register
writes, the staging window and the D-states (R348 to R359). -/

namespace Sys2Proof.Machine

/-- The host port answers: the module runs (R401, R426, R459). -/
def State.hostUp (s : State) : Bool := s.power.st == .run

/-- Held entries are written while the ring takes them: the first of them that it takes, again and again (R359). -/
def State.drainMb (s : State) (n fuel : Nat) : State :=
  match fuel with
  | 0 => s
  | f + 1 =>
    let m := s.mb n
    match m.held.find? m.takes with
    | none => s
    | some p => ((s.setMb n { m with held := m.held.erase p }).cqWrite n p).drainMb n f

/-- Drain with enough fuel for every held entry. -/
def State.drain (s : State) (n : Nat) : State := s.drainMb n (s.mb n).held.length

/-- MBX_READY (Table 15.8): firmware's mailbox service, and for a VF a bound context. -/
def State.mbxReady (s : State) (n : Nat) : Bool :=
  s.hostUp && s.hex.rdyMbx && (n == 0 || s.ctxs.any (fun c => c.2.vf == some n))

/-- The mailbox begins the commands that it has fetched (R355, R348); those of a VF without a context are refused (R365). -/
def State.mbxOn (s : State) (n : Nat) : Bool :=
  let m := s.mb n
  s.hostUp && s.hex.rdyMbx && m.enable && !m.error && !m.d3
/-- The mailbox fetches submission entries (R355). -/
def State.mbxFetches (s : State) (n : Nat) : Bool := s.mbxOn n && s.mbxReady n

/-- MBX_SQ_TAIL: the doorbell is kept, whatever the state of the mailbox (R355, R372). -/
def execMbxSqTail (p : MPort) (v : W32) (s : State) : Res :=
  act s fun s => if s.hostUp then s.setMb (portIx p) { s.mb (portIx p) with sqTail := v.toNat % 4096 } else s

/-- MBX_PHASE_TIMEOUT: the mailbox stops with BAD_COMMAND (R355). -/
def execMbxPhaseTimeout (p : MPort) (s : State) : Res :=
  act s fun s =>
    let n := portIx p
    let m := s.mb n
    if s.mbxFetches n && m.sqHead % m.sqDepth != m.sqTail % m.sqDepth then
      s.setMb n { m with error := true, errCode := Status.badCommand.code } else s

/-- MBX_ENABLE: setting it resets both rings' indices and phases and clears an error; clearing it stops fetching (R355). -/
def execMbxEnable (p : MPort) (v : W32) (s : State) : Res :=
  act s fun s =>
    let n := portIx p
    let m := s.mb n
    if !s.hostUp then s
    else if v.getLsbD 0 then
      if m.enable then s else
        (s.setMb n { m with
          enable := true, error := false, errCode := 0, sqHead := 0, sqTail := 0, cqHead := 0, cqTail := 0
          sqPhase := true, cqPhase := true }).drain n
    else s.setMb n { m with enable := false }

/-- MBX_CQ_HEAD: the host frees entries, and held ones are posted (R359). -/
def execMbxCqHead (p : MPort) (v : W32) (s : State) : Res :=
  act s fun s =>
    let n := portIx p
    if s.hostUp then (s.setMb n { s.mb n with cqHead := v.toNat % 4096 }).drain n else s

/-- EVT_HEAD: the host frees entries, and held events are written (R353). -/
def execEvtHead (v : W32) (s : State) : Res :=
  act s fun s =>
    if s.hostUp then ({ s with evt := { s.evt with head := v.toNat % 4096 } }).evtDrain s.evt.held.length else s

/-- EVT_RING_CTRL: the ring is enabled, at its first pass, or disabled (R353). -/
def execEvtRingCtrl (v : W32) (s : State) : Res :=
  act s fun s =>
    if s.hostUp then
      let rise := v.getLsbD 31 && !s.evt.enabled
      ({ s with evt := { s.evt with ctrl := v &&& 0x8000000F#32, phase := s.evt.phase || rise } }).evtDrain s.evt.held.length
    else s

/-- RC_REGISTER_READ: EVT_LOST or EVT_COUNT[j] is returned and cleared (R351). -/
def execRcRegisterRead (off : Nat) (s : State) : Res :=
  act s fun s =>
    if !s.hostUp then s
    else if off = 0x201C then
      { s with host := { s.host with readData := leBytes 4 s.evt.lost }, evt := { s.evt with lost := 0 } }
    else if 0x2100 ≤ off ∧ off < 0x2140 ∧ off % 4 = 0 then
      let j := (off - 0x2100) / 4
      { s with host := { s.host with readData := leBytes 4 (s.evt.counts.getD j 0) }
               evt := { s.evt with counts := s.evt.counts.put j 0 } }
    else s

/-- A 64-bit register's value, by port and offset (Tables 15.3, 15.7). -/
def State.reg64 (s : State) (p : MPort) (off : Nat) : Option W64 :=
  let m := s.mb (portIx p)
  let rel := if p = .owner then off - 0x10000 else off
  if p = .owner ∧ off < 0x10000 ∨ p = .owner ∧ 0x10031 ≤ off then
    if p ≠ .owner then none
    else if off = 0x2008 then some s.evt.base
    else if off = 0x20000 then some (BitVec.ofNat 64 s.time.now)
    else if off = 0x30008 then some s.stamps.period
    else if off = 0x30010 then some s.stamps.bufBase
    else if off = 0x30018 then some s.stamps.bufLen
    else if off = 0x30020 then some s.stamps.lastTick
    else none
  else if rel = 0 then some m.sqBase
  else if rel = 8 then some m.cqBase
  else if rel = 0x28 then some (if p = .owner then m.stage else 0)
  else none

/-- LOW_HALF_READ: the low half is returned, and the high half latched for the next read of it (R348). -/
def execLowHalfRead (p : MPort) (off : Nat) (s : State) : Res :=
  act s fun s =>
    match s.hostUp, s.reg64 p off with
    | true, some v =>
      let n := portIx p
      let s1 := s.setMb n { s.mb n with latch := some (off + 4, BitVec.ofNat 32 (v.toNat / 2 ^ 32)) }
      { s1 with host := { s1.host with readData := leBytes 4 v.toNat } }
    | true, none => { s with host := { s.host with readData := zeros 4 } }
    | false, _ => s

/-- BAD_WIDTH_ACCESS: all ones, or dropped; counted in EVT_COUNT1 (R348). -/
def execBadWidthAccess (_p : MPort) (write : Bool) (s : State) : Res :=
  act s fun s =>
    if !s.hostUp then s
    else if write then s.count 1 1
    else { s.count 1 1 with host := { (s.count 1 1).host with readData := List.replicate 8 0xFF } }

/-- IRQ_CAUSE: a written 1 clears (R354). -/
def execIrqCause (v : W32) (s : State) : Res :=
  act s fun s => if s.hostUp then { s with host := { s.host with irqCause := s.host.irqCause &&& ~~~v } } else s

/-- A CLKOUT selection is refused (R356, R443): a reserved clock, a divider below the lowest, a domain above 79, or a
strobe of a domain without monitor rings. -/
def ckoRefused (v : Nat) : Bool :=
  if v.testBit 5 then decide (79 < bits v 6 7) || [72, 75, 76, 78, 79].contains (bits v 6 7)
  else decide (18 ≤ bits v 0 5) || decide (bits v 16 4 < (if bits v 0 5 < 2 then 3 else 4))

/-- CKO_CTRL: the selection is taken, or refused with CKO_ERR and the pin low (R356, R443). -/
def execCkoCtrl (v : W32) (s : State) : Res :=
  act s fun s =>
    if !s.hostUp then s else
    let w := v &&& 0x800F1FFF#32
    { s with host := { s.host with cko := if ckoRefused v.toNat then w ||| 0x40000000#32 else w } }

/-- A write of a 64-bit register at its offset, or of its high half at the offset plus 4. -/
def put64 (old : W64) (hi : Bool) (v : W64) : W64 :=
  if hi then (old &&& 0xFFFFFFFF#64) ||| (v <<< 32) else v

/-- STP_CTRL bits 1 and 2; setting STP_PERIODIC starts its period (R468). -/
def State.stpCtrl (s : State) (v : W32) : State :=
  let t := s.stamps
  { s with stamps := { t with
      periodic := v.getLsbD 1
      forward := v.getLsbD 2
      periodStart := if v.getLsbD 1 && !t.periodic then s.time.now else t.periodStart } }

/-- An MSI-X table write: an unmasked vector that pends is sent (R357). -/
def State.msixWrite (s : State) (fn ix : Nat) (v : W32) : State :=
  let s1 := { s with host := { s.host with msix := s.host.msix.put (fn * 256 + ix) v } }
  let key := fn * 64 + ix / 4
  if ix % 4 = 3 ∧ v.getLsbD 0 = false ∧ s.host.pba.contains key then
    ({ s1 with host := { s1.host with pba := s1.host.pba.filter (· != key) } }).msi fn (ix / 4)
  else s1

/-- A mailbox register write at an offset of the MBX_ block: bases and size only while MBX_ENABLE is 0 (R354, R355). -/
def State.mbxWrite (s : State) (n rel : Nat) (v : W64) : State :=
  let m := s.mb n
  let hi := rel % 8 == 4
  if rel = 0 ∨ rel = 4 then if m.enable then s else s.setMb n { m with sqBase := put64 m.sqBase hi v &&& ~~~0xFFF#64 }
  else if rel = 8 ∨ rel = 12 then if m.enable then s else s.setMb n { m with cqBase := put64 m.cqBase hi v &&& ~~~0xFFF#64 }
  else if rel = 0x10 then if m.enable then s else s.setMb n { m with size := v.truncate 32 &&& 0xF0F#32 }
  else if (rel = 0x28 ∨ rel = 0x2C) ∧ n = 0 then s.setMb n { m with stage := put64 m.stage hi v &&& 0xFFFFF0000001#64 }
  else s

/-- REGISTER_WRITE: a RW register takes its writable bits; reserved bits and other offsets are ignored (R10, R348). -/
def execRegisterWrite (p : MPort) (off : Nat) (v : W64) (s : State) : Res :=
  act s fun s =>
    if !s.hostUp then s else
    let t := s.stamps
    match p with
    | .vf n =>
      if off < 0x1000 then s.mbxWrite n off v
      else if 0x8000 ≤ off ∧ off < 0x8400 ∧ off % 4 = 0 then s.msixWrite n ((off - 0x8000) / 4) (v.truncate 32)
      else s
    | .owner =>
      if off = 0x2008 ∨ off = 0x200C then
        { s with evt := { s.evt with base := put64 s.evt.base (off == 0x200C) v &&& ~~~0xFFF#64 } }
      else if 0x10000 ≤ off ∧ off < 0x10040 then s.mbxWrite 0 (off - 0x10000) v
      else if off = 0x30000 then s.stpCtrl (v.truncate 32)
      else if off = 0x30004 then { s with stamps := { t with nextId := v.truncate 32 } }
      else if off = 0x30008 ∨ off = 0x3000C then
        { s with stamps := { t with period := put64 t.period (off == 0x3000C) v &&& 0xFFFFFFFFFF#64 } }
      else if off = 0x40004 then { s with host := { s.host with irqMask := v.truncate 32 &&& 0x1F#32 } }
      else if 0xF00000 ≤ off ∧ off < 0xF00400 ∧ off % 4 = 0 then s.msixWrite 0 ((off - 0xF00000) / 4) (v.truncate 32)
      else s

/-! The staging window (R349) -/

/-- The DPA of a window offset, when the window is mapped. -/
def State.stageDpa (s : State) (off len : Nat) : Option Nat :=
  let st := (s.mb 0).stage
  if st.getLsbD 0 ∧ off + len ≤ 2 ^ 28 then some ((st.toNat / 2 ^ 28) % 2 ^ 20 * 2 ^ 28 + off) else none

/-- A range touches a secret region of any context, or one whose zero-fill runs (R165, R167). -/
def State.secretHit (s : State) (a n : Nat) : Bool :=
  s.ctxs.any (fun c => c.2.regions.any (fun r => decide (r.base < a + n ∧ a < r.base + r.len ∧ 0 < n))) || s.zeroing a n

/-- A range that the window serves: populated, and on ready stacks (R349). -/
def State.stageServes (s : State) (a n : Nat) : Bool :=
  (s.reach a n).isNone && (pagesOf a n).all (fun p => decide (2 ^ 24 ≤ p) || (s.stk (dpaStack (65536 * p))).ready)

/-- A range touches a secret carrel slot. -/
def State.secretSlotHit (s : State) (a n : Nat) : Bool :=
  isCarrel a && (List.range (n / 4096 + 2)).any (fun i =>
    let x := (a / 4096 + i) * 4096
    decide (x < a + n) && (s.slot (slotKey x)).secret)
/-- STAGING_READ: device memory; all ones where the window does not serve; a poisoned TLP on poison (R349). A secret carrel slot, which
R65 shows to commands of its context only, reads as ones too: DESIGN CHOICE, log entry 87. -/
def execStagingRead (off len : Nat) (s : State) : Res :=
  act s fun s =>
    if !s.hostUp then s else
    let ones := List.replicate len (0xFF : Byte)
    let give (s : State) (d : List Byte) (p : Bool) : State :=
      { s with host := { s.host with readData := d, readPoison := p } }
    match s.stageDpa off len with
    | none => give s ones false
    | some a =>
      if !s.stageServes a len ∨ s.secretSlotHit a len then give s ones false
      else if s.secretHit a len then give (s.count 2 1) ones false
      else if s.poisoned a len then give s ones true
      else give s (s.bytes a len) false

/-- STAGING_WRITE: reaches device memory, or is dropped (R349, R167). -/
def execStagingWrite (off : Nat) (data : List Byte) (s : State) : Res :=
  act s fun s =>
    if !s.hostUp then s else
    match s.stageDpa off data.length with
    | none => s
    | some a =>
      if !s.stageServes a data.length then s
      else if s.secretHit a data.length then s.count 2 1
      else s.outWrite a data

/-- D3HOT_ENTRY: the function behaves as with MBX_ENABLE clear (R348). -/
def execD3hotEntry (p : MPort) (s : State) : Res :=
  act s fun s => if s.hostUp then s.setMb (portIx p) { s.mb (portIx p) with d3 := true } else s

/-- D0_ENTRY: the function resumes with its registers as they stood, and held entries are posted (R348). -/
def execD0Entry (p : MPort) (s : State) : Res :=
  act s fun s => if s.hostUp then (s.setMb (portIx p) { s.mb (portIx p) with d3 := false }).drain (portIx p) else s

end Sys2Proof.Machine
end

