-- ==== Sys2Proof/Machine/Power.lean ====
section
/-! DEFINITION. Feeds, inrush, resets by contact, the power governor, voltage loops, thermal limits, ageing, and the
maintenance port (R401, R411, R415 to R428, R371, R486 to R489). -/

namespace Sys2Proof.Machine

/-- Feed 0 is A, any other number B. -/
def State.feed (s : State) (i : Nat) : Feed := if i = 0 then s.power.feedA else s.power.feedB
def State.setFeed (s : State) (i : Nat) (f : Feed) : State :=
  { s with power := if i = 0 then { s.power with feedA := f } else { s.power with feedB := f } }

/-- A feed becomes present at this voltage (R415): 40 to 60 V, and again from 41 V rising or 59 V falling. -/
def Feed.inRange (f : Feed) (mv : Nat) : Bool :=
  match f.was with
  | 0 => decide (40000 ≤ mv ∧ mv ≤ 60000)
  | 1 => decide (41000 ≤ mv ∧ mv ≤ 60000)
  | _ => decide (40000 ≤ mv ∧ mv ≤ 59000)

/-- Current limit, mW: 40 A times the voltage of each present feed (R416). -/
def State.curLimitNow (s : State) : Nat :=
  (if s.power.feedA.present then 40 * s.power.feedA.mv else 0) + (if s.power.feedB.present then 40 * s.power.feedB.mv else 0)

/-- The limit in force from its three parts (R416). -/
def State.relimit (s : State) : State :=
  { s with power := { s.power with limit := min s.power.setLimit (min s.power.feedLimit (s.power.curLimit / 1000)) } }

/-- Feed limit with the feeds as they are (R416). -/
def State.feedLimitNow (s : State) : Nat := match s.feeds with | 3 => 3600 | 0 => 0 | _ => 2000

/-- IDN_FEEDS has changed: event 0x0010 once the module runs, and a ledger record while D.LEDGER is powered (R416). -/
def State.feedEvent (s : State) : State :=
  let s1 := if s.power.st == .run then s.event .ok 0x10 0xFF ([b8 s.feeds] ++ leBytes 2 s.power.limit) else s
  if s.power.st == .run || s.power.st == .standby then s1.errRec 0xE 0xFF 0xFF [b8 s.feeds] else s1

/-- A feed becomes present: its limiter charges; the converters start on the first (R401, R486). The feed limit rises to
that of two feeds only at the next governor update (R418). -/
def State.feedIn (s : State) (i mv : Nat) : State :=
  let f := s.feed i
  let s1 := s.setFeed i { f with mv := mv, present := true, limiter := .charging }
  let s2 := ({ s1 with power := { s1.power with
      curLimit := s1.curLimitNow
      feedLimit := if s.feeds = 0 then 2000 else s.power.feedLimit
      st := if s.power.st = PowerState.off then PowerState.starting else s.power.st } }).relimit
  s2.feedEvent

/-- A feed stops being present (R415, R418): with the other present the wings and controllers are paced to the one-feed
limit; with neither, a cold reset follows. -/
def State.feedOut (s : State) (i : Nat) (f : Feed) : State :=
  let s1 := s.setFeed i f
  if s1.feeds = 0 then
    let c := s1.resetTo .off
    { c with
      power := { c.power with prsnt := false, i3c := none, cooling := s1.power.cooling, perst := s1.power.perst }
      time := {} }
  else
    let s2 := ({ s1 with power := { s1.power with
        feedLimit := s1.feedLimitNow, curLimit := s1.curLimitNow, pacing := true } }).relimit
    let s3 := (List.range 72).foldl (fun s d => s.setDom d { s.dom d with paced := true }) s2
    s3.feedEvent

/-- Beyond the absolute maximum ratings of a feed (Table 22.3). -/
def feedStress (mv : Nat) : Bool := decide (64000 < mv)

/-- FEED_PRESENT (R415, R401). -/
def execFeedPresent (feed mv : Nat) (s : State) : Res :=
  if feedStress mv then .fault .stressBeyondRatings else
  act s fun s =>
    let f := s.feed feed
    if feed < 2 ∧ f.present = false ∧ f.limiter ≠ .waitRetry ∧ f.inRange mv then s.feedIn feed mv
    else if feed < 2 then s.setFeed feed { f with mv := mv } else s

/-- FEED_LOST (R418). -/
def execFeedLost (feed mv : Nat) (s : State) : Res :=
  if feedStress mv then .fault .stressBeyondRatings else
  act s fun s =>
    let f := s.feed feed
    if feed < 2 ∧ f.present ∧ (mv < 39000 ∨ 61000 < mv) then
      s.feedOut feed { f with mv := mv, present := false, limiter := .idle, was := if mv < 39000 then 1 else 2 }
    else s

/-- INRUSH_LIMITER_DONE: charging ends and load sharing begins (R486, R487). -/
def execInrushLimiterDone (feed : Nat) (s : State) : Res :=
  act s fun s =>
    let f := s.feed feed
    if feed < 2 ∧ f.limiter = .charging then s.setFeed feed { f with limiter := .done } else s

/-- INRUSH_TIMEOUT: the feed is disconnected and treated as not present (R486). -/
def execInrushTimeout (feed : Nat) (s : State) : Res :=
  act s fun s =>
    let f := s.feed feed
    if feed < 2 ∧ f.limiter = .charging then s.feedOut feed { f with present := false, limiter := .waitRetry } else s

/-- INRUSH_RETRY: the limiter connects its feed again (R486). -/
def execInrushRetry (feed : Nat) (s : State) : Res :=
  act s fun s =>
    let f := s.feed feed
    if feed < 2 ∧ f.limiter = .waitRetry then
      if f.inRange f.mv then s.feedIn feed f.mv else s.setFeed feed { f with limiter := .idle }
    else s

/-- POWER_GOOD: D.AON, D.MAINT and D.LEDGER are up; PRSNT_N is driven low; a release that came early takes place now (R401). -/
def execPowerGood (s : State) : Res :=
  act s fun s =>
    if s.power.st = .starting then
      let up := [72, 76, 79].foldl (fun s d => s.setDom d { s.dom d with on := true }) s
      let s1 := { up with power := { up.power with st := .standby, prsnt := true } }
      if s1.power.earlyRelease then s1.tryBringUp else s1
    else s

/-- PERST_N_ASSERT: a warm reset (R407); a firmware copy in progress is abandoned (Table 17.6). -/
def execPerstNAssert (s : State) : Res :=
  act s fun s =>
    let s1 := { s with power := { s.power with perst := true, earlyRelease := false } }
    if s.power.st = .off ∨ s.power.st = .starting then s1
    else
      let r := s1.resetTo .standby
      { r with power := { r.power with ckoDriven := true }, time := {} }

/-- PERST_N_RELEASE: bring-up starts, at once or at power-good, or when a thermal shutdown has cooled (R401, R402, R426). -/
def execPerstNRelease (s : State) : Res :=
  act s fun s =>
    let s1 := { s with power := { s.power with perst := false } }
    if s.power.st = .standby then s1.tryBringUp
    else if s.power.st = .starting ∨ s.power.st = .off then { s1 with power := { s1.power with earlyRelease := true } }
    else s1

/-! Loops and the governor -/

/-- Domains without a voltage loop (R419). -/
def fixedDomain (d : Nat) : Bool := [72, 75, 76, 78, 79].contains d
/-- Bay-pair, wing-fabric and clocked domains of a wing (R356). -/
def isBayPair (d : Nat) : Bool := decide (d < 72 ∧ d % 18 < 11)
def isNoc (d : Nat) : Bool := decide (d < 72 ∧ d % 18 = 11)
def isClocked (d : Nat) : Bool := decide (d < 72 ∧ 12 ≤ d % 18)
/-- Bottom of the rail's range, mV (Table 18.2). -/
def railFloor (d : Nat) : Nat := if isClocked d then 650 else 600

/-- VOLTAGE_LOOP_STEP: 5 mV up, 5 mV down or hold (R422, R424, R425). -/
def execVoltageLoopStep (dom rate : Nat) (s : State) : Res :=
  act s fun s =>
    let d := s.dom dom
    if 80 ≤ dom ∨ d.on = false ∨ fixedDomain dom then s else
    let mayRaise := decide (s.power.inputMw < 1000 * s.power.limit) && decide (d.hot < 2)
    let rail :=
      if rate < d.setpoint then (if mayRaise && decide (d.rail + 5 ≤ 850) then d.rail + 5 else d.rail)
      else if 101 * d.setpoint < 100 * rate then (if railFloor dom + 5 ≤ d.rail then d.rail - 5 else d.rail)
      else d.rail
    s.setDom dom { d with
      rate := rate, rates := (rate :: d.rates).take 10, rail := rail
      powerTicks := d.powerTicks + (if d.paced then 10000 else 0)
      thermalTicks := d.thermalTicks + (if d.hot = 3 then 10000 else 0) }

/-- GOVERNOR_UPDATE: `budget` lists, for the 44 bay-pair domains, the highest setpoint that fits the wing's share of the
measured power, in 0.001 G tokens/s; the governor keeps it within 1.10 and the domain's ceiling, gives an idle domain the
floor, and paces when the floor does not fit (R423, R418, R424). -/
def State.govern (s : State) (inputMw : Nat) (budget : List Nat) (busy : Nat → Bool) : State :=
  let s1 := ({ s with power := { s.power with inputMw := inputMw, feedLimit := s.feedLimitNow } }).relimit
  let excess := decide (1000 * s1.power.limit < inputMw)
  let active := s1.hex.rdyFw
  let set (s : State) (k : Nat) : State :=
    let n := k / 11 * 18 + k % 11
    let d := s.dom n
    let b := budget.getD k 1100
    let sp := if !active || !busy k then 1100 else max 1100 (min d.ceiling (min 1800 b))
    let sp' := if d.hot = 3 then min sp d.setpoint else sp
    s.setDom n { d with setpoint := sp', paced := excess || decide (b < 1100) }
  let s2 := (List.range 44).foldl set s1
  let s3 := (List.range 4).foldl (fun s w =>
    let top := (List.range 11).foldl (fun m j => max m (s.dom (18 * w + j)).setpoint) 1100
    let d := s.dom (18 * w + 11)
    let s' := s.setDom (18 * w + 11) { d with setpoint := min d.ceiling top, paced := excess }
    (List.range 6).foldl (fun s j => s.setDom (18 * w + 12 + j) { s.dom (18 * w + 12 + j) with paced := excess }) s') s2
  let low := (List.range 44).any (fun k => decide (budget.getD k 1100 < 1100))
  let s4 := { s3 with power := { s3.power with pacing := excess || low, stackPacing := low } }
  [73, 74, 77].foldl (fun s n => s.setDom n { s.dom n with setpoint := if active then min (s.dom n).ceiling 1500 else 1100 }) s4

/-- CURRENT_LIMIT_UPDATE: the current limit and the limit in force; event 0x0010 when it moves the latter by 50 W or more (R416). -/
def execCurrentLimitUpdate (mvA mvB : Nat) (s : State) : Res :=
  act s fun s =>
    let s1 := { s with power := { s.power with
      feedA := if s.power.feedA.present then { s.power.feedA with mv := mvA } else s.power.feedA
      feedB := if s.power.feedB.present then { s.power.feedB with mv := mvB } else s.power.feedB } }
    let s2 := ({ s1 with power := { s1.power with curLimit := s1.curLimitNow } }).relimit
    if s.power.st = .run ∧ (s.power.limit + 50 ≤ s2.power.limit ∨ s2.power.limit + 50 ≤ s.power.limit) then
      s2.event .ok 0x10 0xFF ([b8 s2.feeds] ++ leBytes 2 s2.power.limit)
    else s2

/-! Thermal limits and ageing -/

/-- Entry of a row of Table 18.4: 1 above 95 °C, 2 at 103 °C, 3 at 105 °C. -/
def rowEntered (row : Nat) (t : Int) : Bool :=
  match row with
  | 1 => decide (95 < t)
  | 2 => decide (103 ≤ t)
  | 3 => decide (105 ≤ t)
  | _ => true
/-- A row is left only 3 °C below its entry threshold (R425). -/
def rowHeld (row : Nat) (t : Int) : Bool :=
  match row with
  | 1 => decide (92 < t)
  | 2 => decide (100 < t)
  | 3 => decide (102 < t)
  | _ => true
/-- The row in force after a reading. -/
def nextRow (old : Nat) (t : Int) : Nat :=
  if rowEntered 3 t || (decide (3 ≤ old) && rowHeld 3 t) then 3
  else if rowEntered 2 t || (decide (2 ≤ old) && rowHeld 2 t) then 2
  else if rowEntered 1 t || (decide (1 ≤ old) && rowHeld 1 t) then 1 else 0

/-- JUNCTION_READING: Table 18.4, with the outlet temperature in 0.1 °C (R425, R426). -/
def execJunctionReading (dom : Nat) (t outlet : Int) (s : State) : Res :=
  act s fun s =>
    if 80 ≤ dom then s else
    let d := s.dom dom
    let row := nextRow d.hot t
    let rail := if row = 3 ∧ railFloor dom + 5 ≤ d.rail ∧ fixedDomain dom = false then d.rail - 5 else d.rail
    let s1 := s.setDom dom { d with tj := t, tjMax := max d.tjMax t, hot := row, rail := rail }
    let s2 := { s1 with power := { s1.power with outlet := outlet } }
    if s.power.st = .run then
      if 72 ≤ dom ∧ 115 ≤ t ∨ 750 ≤ outlet then s2.thermalShutdown
      else if dom < 72 ∧ 115 ≤ t then s2.loseWing (dom / 18) 3
      else s2
    else if s.power.st = .standby ∧ s.power.earlyRelease ∧ s.power.perst = false then s2.tryBringUp
    else s2

/-- AGEING_MEASUREMENT: the age index is the largest drift, and never falls (R427). -/
def execAgeingMeasurement (dom : Nat) (drifts : List Nat) (s : State) : Res :=
  act s fun s =>
    let d := s.dom dom
    if 80 ≤ dom ∨ fixedDomain dom ∨ d.on = false then s
    else s.setDom dom { d with age := drifts.foldl max d.age }

/-- The 105 °C column of Table 18.3: mV and 0.001 G tokens/s. -/
def rate105 : List (Nat × Nat) :=
  [(600, 1040), (620, 1110), (650, 1220), (680, 1320), (720, 1480), (760, 1630), (800, 1780), (850, 1940)]

/-- Largest rate with V(r, 105 °C) at most a voltage, interpolated (R421, R428). -/
def rateAt (mv : Nat) (rows : List (Nat × Nat)) : Nat :=
  match rows with
  | (v0, r0) :: (v1, r1) :: rest =>
    if mv < v0 then Config.ceilingBelowTable mv
    else if mv ≤ v1 then r0 + (r1 - r0) * (mv - v0) / (v1 - v0)
    else rateAt mv ((v1, r1) :: rest)
  | [(_, r0)] => r0
  | [] => 0

/-- AGEING_DAILY_RECORD: the record is written and end of life judged (R427, R428). -/
def execAgeingDailyRecord (dom : Nat) (s : State) : Res :=
  act s fun s =>
    if 80 ≤ dom ∨ fixedDomain dom then s else
    let d := s.dom dom
    let eol := decide (125 < d.age)
    let ceil := if eol && (isBayPair dom || isNoc dom) then min d.ceiling (rateAt (850 - d.age) rate105) else d.ceiling
    let s1 := s.setDom dom { d with ceiling := ceil, tjMax := d.tj }
    let r := s.lrec 3 1 (if dom < 72 then dom / 18 else 0xFF) dom
      (leBytes 2 d.age ++ intBytes 1 d.tjMax ++ [b8 (ceil / 10)])
    let s2 := { s1 with ledger := { s1.ledger with ageing := ringPush 49152 s1.ledger.ageing r } }
    if !eol then s2
    else if isBayPair dom || isNoc dom then s2.degrade
    else if dom < 72 then
      (if dom % 18 < 16 then s2.loseStack (dom / 18 * 4 + (dom % 18 - 12)) 1 else s2.losePort (dom / 18 * 2 + (dom % 18 - 16)))
    else s2.deskFailure dom

/-- DESK_FAILURE: the sequencer switches off the module (R459). -/
def execDeskFailure (dom : Nat) (s : State) : Res :=
  act s fun s => if s.power.st = .run ∧ 72 ≤ dom ∧ dom < 80 then s.deskFailure dom else s

/-! The maintenance port -/

/-- The port answers while D.MAINT is powered (R371). -/
def State.maintUp (s : State) : Bool := (s.dom 76).on

/-- A reply of the maintenance port. -/
def State.replyWith (s : State) (bs : List Byte) : State := { s with power := { s.power with reply := bs, nack := false } }
def State.nacked (s : State) : State := { s with power := { s.power with nack := true } }

/-- Hottest of readings, in °C. -/
def hottest (ts : List Int) : Int := ts.foldl max (-128)

/-- A feed's current, mA, when it carries `share` thousandths of the input power. -/
def Feed.current (f : Feed) (inputMw share : Nat) : Nat := if !f.present || f.mv = 0 then 0 else inputMw * share / f.mv
/-- TELEMETRY (Table 15.14): with both feeds present each carries half of the input power within ±10 % (R487), a free share. -/
def execTelemetry (s : State) : Res :=
  act s fun s =>
    if !s.maintUp then s else
    let p := s.power
    let share := 450 + Config.free s.draw 5 % 101
    let a := if p.feedB.present then share else 1000
    let b := if p.feedA.present then 1000 - share else 1000
    ({ s with draw := s.draw + 1 } : State).replyWith (leBytes 2 p.feedA.mv ++ leBytes 2 p.feedB.mv
      ++ leBytes 2 (p.feedA.current p.inputMw a) ++ leBytes 2 (p.feedB.current p.inputMw b)
      ++ leBytes 2 (p.inputMw / 1000) ++ intBytes 2 p.inlet ++ intBytes 2 p.outlet
      ++ (List.range 4).flatMap (fun w => intBytes 1 (hottest ((List.range 12).map fun j => (s.dom (18 * w + j)).tj)))
      ++ intBytes 1 (hottest (s.stks.map (fun (k : Nat × Stack) => k.2.temp))) ++ [0] ++ leBytes 4 s.time.now ++ zeros 8)

/-- HEALTH (Table 15.14); a pending health change is taken. -/
def execHealth (s : State) : Res :=
  act s fun s =>
    if !s.maintUp then s else
    let t := s.replyWith (leBytes 4 s.healthView ++ leBytes 4 s.rdyService ++ leBytes 4 s.rdyStack
      ++ leBytes 4 (s.rdyPort * 256 + s.rdyWing))
    { t with power := { t.power with alert := false } }

/-- LEDGER_SUMMARY (Table 15.14). -/
def execLedgerSummary (s : State) : Res :=
  act s fun s =>
    if !s.maintUp then s else
    s.replyWith ((List.range 16).flatMap (fun k => leBytes 2 (s.ledger.weeds.getD k []).length)
      ++ leBytes 4 s.ledger.boots ++ leBytes 4 s.ledger.errors.length)

/-- WING_POWER_OFF: the wing is lost as a wing failure; a wrong confirmation draws a NACK (R371). -/
def execWingPowerOff (w : Nat) (confirm : Byte) (s : State) : Res :=
  act s fun s =>
    if !s.maintUp then s
    else if confirm ≠ 0xA5 then s.nacked
    else if 4 ≤ w then s.replyWith [b8 Status.badParameter.code]
    else if s.power.st ≠ .run then s.replyWith [b8 Status.notReady.code]
    else if (s.wing w).lost then s.replyWith [b8 Status.unitAbsent.code]
    else (s.replyWith [b8 Status.ok.code]).loseWing w 5

/-- MODULE_RESET on the maintenance port (R371, R408). -/
def execMaintModuleReset (confirm : Byte) (s : State) : Res :=
  act s fun s =>
    if !s.maintUp then s
    else if confirm ≠ 0xA5 then s.nacked
    else if s.power.st ≠ .run then s.replyWith [b8 Status.notReady.code]
    else (s.replyWith [b8 Status.ok.code]).moduleReset

/-- SETDASA: a dynamic address is taken from the static address 0x3A (R371). -/
def execSetdasa (static dyn : Nat) (s : State) : Res :=
  act s fun s =>
    if s.maintUp && static == 0x3A && s.power.i3c.isNone then { s with power := { s.power with i3c := some dyn } } else s

/-- ENTDAA: a dynamic address is assigned (R371). -/
def execEntdaa (dyn : Nat) (s : State) : Res :=
  act s fun s => if s.maintUp && s.power.i3c.isNone then { s with power := { s.power with i3c := some dyn } } else s

/-- VIO_SB_CHANGE: below 1.0 V SDA is open-drain in every phase (R489). -/
def execVioSbChange (mv : Nat) (s : State) : Res :=
  act s fun s => { s with power := { s.power with vio := mv, sdaOpenDrain := decide (mv < 1000) } }

end Sys2Proof.Machine
end

