-- ==== Sys2Proof/Machine/Boot.lean ====
section
/-! DEFINITION. Bring-up after PERST_N, the boot record and firmware, control-core failures, the entropy source, and sync
planes (R375, R381 to R386, R398, R399, R402 to R404, R410, R413, R434 to R436, R454). -/

namespace Sys2Proof.Machine

/-- OSCILLATOR_STABLE: 65,536 cycles counted (R434). -/
def execOscillatorStable (s : State) : Res :=
  act s fun s => if s.time.running then { s with time := { s.time with stable := true } } else s

/-- OSCILLATOR_DISCIPLINED: the source has been locked for 1 s without a break (R435). -/
def execOscillatorDisciplined (s : State) : Res :=
  act s fun s =>
    match s.time.lockedSince with
    | some t => if t + 1000000000 ≤ s.time.now ∧ s.time.stable then { s with time := { s.time with disciplined := true } } else s
    | none => s

/-- HOST_LINK_LOCK_CHANGE: the source follows R436; TIM_NOW never steps. -/
def execHostLinkLockChange (locked : Bool) (s : State) : Res :=
  act s fun s =>
    if s.power.st ≠ .run ∨ s.time.hostLocked = locked then s else
    { s with time := { s.time with
        hostLocked := locked
        lockedSince := if locked then some s.time.now
          else if s.timSource = 3 then s.time.lockedSince else none } }

/-- LEDGER_SCAN_DONE: torn records are discarded, the power-up count is incremented, RDY_LEDGER set; a ledger that is not
ready is end of service, and firmware still loads (R402, R403, R410, R414). -/
def execLedgerScanDone (ok : Bool) (s : State) : Res :=
  act s fun s =>
    if s.power.st ≠ .run ∨ s.ledger.ready then s
    else if ok then
      let l := s.ledger
      let keep (r : List LRec) : List LRec := r.filter (fun x => !x.torn)
      ({ s with ledger := { l with
          ready := true, boots := l.boots + 1, errors := keep l.errors, reshelves := keep l.reshelves
          ageing := keep l.ageing, life := keep l.life } }).lifeRec 0 0xFF
    else s.endOfService

/-- A session's job fails at its end when the entropy source fails before it (R399, Table 16.11). -/
def BigJob.starved (j : BigJob) : BigJob := if j.kind < 2 then { j with fail := some (j.fail.getD .cryptoFail) } else j
/-- An entropy health test has failed (R399): the DRBGs enter their error state; a session in progress will fail. -/
def State.entropyFail (s : State) : State :=
  let h := s.hex
  let s1 := { s with hex := { h with
      trng := false, drbgError := true
      job := h.job.map BigJob.starved, jobs := h.jobs.map BigJob.starved } }
  ((s1.setHealth 4 true).event .cryptoFail 0xF 0xFF [1]).errRec 0xF 0xFF 0xFF [1]

/-- The entropy source passes: every DRBG instance is instantiated anew (R168, R399). -/
def State.entropyPass (s : State) : State :=
  { s with
    hex := { s.hex with trng := true, drbgError := false, keeperDraws := 0 }
    draw := s.draw + 64
    ctxs := s.ctxs.map (fun c => (c.1, { c.2 with
      drbg := (List.range 4).map (fun w => (w, { seed := s.draw + 4 * c.1 + w, requests := 0, since := s.time.now })) })) }

/-- ENTROPY_STARTUP_TEST_DONE (R398, R402). -/
def execEntropyStartupTestDone (pass : Bool) (s : State) : Res :=
  act s fun s =>
    if s.power.st ≠ .run ∨ s.hex.trng ∨ s.hex.drbgError then s
    else if pass then s.entropyPass else s.entropyFail

/-- ENTROPY_HEALTH_FAIL (R399). -/
def execEntropyHealthFail (s : State) : Res :=
  act s fun s => if s.power.st = .run ∧ s.hex.trng then s.entropyFail else s

/-- ENTROPY_RESTART_TEST: a pass ends the error state (R399). -/
def execEntropyRestartTest (pass : Bool) (s : State) : Res :=
  act s fun s =>
    if s.power.st = .run ∧ s.hex.drbgError ∧ pass then
      (((s.entropyPass).setHealth 4 false).event .ok 0xF 0xFF [0]).errRec 0xF 0xFF 0xFF [0]
    else s

/-- Slots of a bay's carrels are zeroed and empty (R68). -/
def State.zeroBayCarrels (s : State) (i : Nat) : State :=
  { s.clear (carrelBase + i * 0x800000) 0x800000 with slots := s.slots.filter (fun x => x.1 / 1536 != i) }

/-- The lowest 15 cores of a map: the spare is fitted in place of a failed core (R71). -/
def fitCores (good : Nat) : Nat :=
  ((List.range 16).foldl (fun (p : Nat × Nat) c => if good.testBit c && p.2 < 15 then (p.1 + 2 ^ c, p.2 + 1) else p) (0, 0)).1

/-- A bay's self-test result: the bay is ready with at least 14 good cores and a working sequencer, else withdrawn (R403). -/
def State.bayTested (s : State) (i good : Nat) (sequencer lu : Bool) : State :=
  let b := s.bay i
  let cores := fitCores good
  let b1 := { b with tested := true, good := good, lu := b.lu && lu && s.grade == .ax, suspect := [] }
  match b.kind with
  | .absent => s
  | .spare => s.setBay i b1
  | .enabled =>
    if sequencer && decide (14 ≤ popcount 16 cores) then
      s.setBay i { b1 with cores := cores, ready := true, gone := false, eb := popcount 16 cores, entry := s.map.entries.getD i 0
                           applying := false }
    else (s.setBay i { b1 with cores := cores, ready := false, gone := false }).withdrawBay i .integrityFault

/-- BAY_SELF_TEST_DONE at bring-up: carrels are zeroed, spares fitted, RDY_BAY set (R68, R71, R402, R403). -/
def execBaySelfTestDone (bay : Nat) (good : W16) (sequencer lu : Bool) (s : State) : Res :=
  act s fun s =>
    let b := s.bay bay
    if s.power.st ≠ .run ∨ 88 ≤ bay ∨ b.tested ∨ b.gone ∨ (s.wing (bay / 22)).lost then s
    else (s.zeroBayCarrels bay).bayTested bay good.toNat sequencer lu

/-- WING_FABRIC_SELF_TEST_DONE: on a failure the wing is lost (R402). -/
def execWingFabricSelfTestDone (w : Nat) (pass : Bool) (s : State) : Res :=
  act s fun s =>
    if s.power.st ≠ .run ∨ 4 ≤ w ∨ (s.wing w).fabric.isSome ∨ (s.wing w).lost then s
    else
      let s1 := s.setWing w { s.wing w with fabric := some pass }
      if pass then s1 else s1.loseWing w 6

/-- A row's entry becomes a hard repair (Table 12.4): entry and spare are released, and the ledger's list says `HARD` (Table 20.8). -/
def State.hardRow (s : State) (stack pc bank row : Nat) : State :=
  let k := s.stk stack
  match k.shelves.get (rowKey pc bank row) with
  | some e =>
    let h := { e with hard := true }
    (s.setStk stack { k with shelves := k.shelves.put (rowKey pc bank row) h
                             hardDone := k.hardDone.put pc (k.hardDone.getD pc 0 + 1) }).shelfRecord stack pc bank row h
  | none => s
/-- Hard repairs of a stack at a cold or warm reset (R297): its `REMAPPED` entries in ledger order, at most `n`, and at most 32 in a
pseudo-channel over the stack's life. -/
def State.hardRepairs (s : State) (stack n : Nat) : State :=
  (s.ledger.reshelves.foldl (fun (p : State × Nat) r =>
    let pc := fld r.detail 0 1
    if p.2 < n && r.unit == stack && fld r.detail 4 1 == 0 && decide (((p.1.stk stack).hardDone.getD pc 0) < 32)
    then (p.1.hardRow stack pc (fld r.detail 1 1) (fld r.detail 2 2), p.2 + 1) else p) (s, 0)).1

/-- STACK_TRAINING_DONE: the weed list is applied and hard repairs done, and the stack is ready or lost; a stack still at
110 °C is not powered (R291, R297, R302, Table 17.6). -/
def execStackTrainingDone (stack : Nat) (ok : Bool) (hardRepairs : Nat) (s : State) : Res :=
  act s fun s =>
    let k := s.stk stack
    if s.power.st ≠ .run ∨ 16 ≤ stack ∨ k.seen ∨ k.lost then s
    else if ok ∧ k.temp < 110 then
      let t := s.hardRepairs stack (if s.power.softReset then 0 else min 16 hardRepairs)
      t.setStk stack { t.stk stack with
        ready := true, seen := true, trainTemp := k.temp, weeded := (s.ledger.weeds.getD stack []).map (fun w => w.page) }
    else s.loseStack stack 1

/-- WING_READY: firmware active, its scheduler hosted, fabric passed, a bay and a stack ready (R403). -/
def execWingReady (w : Nat) (s : State) : Res :=
  act s fun s =>
    let x := s.wing w
    if s.power.st = .run ∧ w < 4 ∧ x.lost = false ∧ x.fabric = some true ∧ s.hex.rdyMbx ∧ s.hex.orphans.contains (1 + w) = false
      ∧ (List.range 22).any (fun b => s.bayUp (w * 22 + b)) ∧ (List.range 4).any (fun i => (s.stk (4 * w + i)).ready) then
      s.setWing w { x with ready := true }
    else s

/-! Boot record and firmware -/

/-- DPA of the staging window when the ROM may poll it: mapped, and its stack ready (R381). -/
def State.bootWindow (s : State) : Option Nat :=
  match s.stageDpa 0 64 with
  | some a => if a < 2 ^ 40 ∧ (s.stk (dpaStack a)).ready then some a else none
  | none => none

/-- The ROM writes `status`, then `ack` (R382). -/
def State.bootAck (s : State) (seq : Nat) (st : Status) : State :=
  match s.bootWindow with
  | some a => (s.write (a + 28) [b8 st.code]).write (a + 24) (leBytes 4 seq)
  | none => s

/-- BOOT_RECORD_POLL: a new `seq` starts a load; a range outside the window draws BAD_PARAMETER (R381, R382). -/
def execBootRecordPoll (s : State) : Res :=
  act s fun s =>
    match s.power.st, s.hex.phase, s.bootWindow with
    | .run, .none, some a =>
      match s.read a 64 with
      | .error _ => s
      | .ok r =>
        let seq := fld r 4 4
        let off := fld r 8 8
        let len := fld r 16 8
        if fld r 0 4 ≠ 0x31424C4F ∨ seq = 0 ∨ seq = s.hex.bootSeq then s
        else
          let s1 := { s with hex := { s.hex with bootSeq := seq } }
          if off % 4096 ≠ 0 ∨ off < 0x1000 ∨ 2 ^ 28 < off + len then s1.bootAck seq .badParameter
          else { s1 with hex := { s1.hex with phase := .loading seq off len } }
    | _, _, _ => s

/-- FIRMWARE_LOAD_DONE: the copy is checked under Table 16.4; fuses are applied and the Hexset started, or the failure is
reported (R380, R382, R385). -/
def execFirmwareLoadDone (s : State) : Res :=
  act s fun s =>
    match s.hex.phase with
    | .loading seq off len =>
      let r := match s.stageDpa off len with
        | some a => s.read a len
        | none => .error .badParameter
      match r with
      | .error e => ({ s with hex := { s.hex with phase := .none } }).bootAck seq e
      | .ok img =>
        match checkImage s img with
        | .error e => ({ s with hex := { s.hex with phase := .none } }).bootAck seq e
        | .ok im =>
          let s1 := s.activate im
          ({ s1 with hex := { s1.hex with phase := .starting } }).bootAck seq .ok
    | _ => s

/-- Firmware serves: RDY_HEXSET (while every role is hosted), RDY_KEEPER, RDY_FW, then RDY_MBX (R382, R375). -/
def State.firmwareUp (s : State) : State :=
  let s1 := s.endorse
  ({ s1 with hex := { s1.hex with
      rdyHexset := s1.hex.orphans.isEmpty, rdyKeeper := true, rdyFw := true, rdyMbx := true, phase := .active } }).lifeRec 4 0xFF

/-- FIRMWARE_STARTED (R382, R386). -/
def execFirmwareStarted (s : State) : Res :=
  act s fun s => match s.hex.phase with | .starting => s.firmwareUp | _ => s

/-- HEXSET_RESTART_DONE: the restart after FW_ACTIVATE ends (R383). -/
def execHexsetRestartDone (s : State) : Res :=
  act s fun s => match s.hex.phase with | .restarting => s.firmwareUp | _ => s

/-- STAGED_IMAGE_CHECKED: the slot holds the image, or nothing, and FW_STAGE completes (R383). -/
def execStagedImageChecked (slot : Nat) (s : State) : Res :=
  act s fun s =>
    match s.hex.staging.get slot with
    | none => s
    | some (o, img) =>
      let s1 := { s with hex := { s.hex with staging := s.hex.staging.del slot } }
      match checkImage s (img.body ++ img.colophon) with
      | .error e => ({ s1 with hex := { s1.hex with slots := s1.hex.slots.del slot } }).complete o e []
      | .ok im => ({ s1 with hex := { s1.hex with slots := s1.hex.slots.put slot im } }).complete o .ok []

/-! Control cores, wings and sync planes -/

/-- Cores tried for a role (Table 16.1). -/
def roleOrder (role : Nat) : List Nat :=
  match role with
  | 0 => [2, 3, 4, 5] | 1 => [3, 4, 5, 1] | 2 => [2, 4, 5, 1] | 3 => [5, 2, 3, 1] | _ => [4, 2, 3, 1]

/-- Wings whose scheduler no core hosts any more leave `READY` (R403). -/
def State.unhost (s : State) (roles : List Nat) : State :=
  ((List.range 4).filter (fun w => roles.contains (1 + w))).foldl (fun s w => s.setWing w { s.wing w with ready := false }) s
/-- CONTROL_CORE_FAILURE: the core's roles move to the first survivor in order, and a role with none is end of service; HX0 is a desk
failure (R375, R376). -/
def execControlCoreFailure (hx : Nat) (s : State) : Res :=
  act s fun s =>
    if s.power.st ≠ .run ∨ 5 < hx ∨ s.hex.failed.contains hx then s
    else if hx = 0 then s.deskFailure 74
    else
      let h := s.hex
      let failed := hx :: h.failed
      let moved := (List.range 5).filter (fun r => h.roles.getD r 0 == hx)
      let target (r : Nat) : Option Nat := (roleOrder r).find? (fun c => !failed.contains c)
      let roles := (List.range 5).map (fun r => if moved.contains r then (target r).getD (h.roles.getD r 0) else h.roles.getD r 0)
      let orph := moved.filter (fun r => (target r).isNone)
      let s1 := { s with hex := { h with
          failed := failed, roles := roles, orphans := h.orphans ++ orph
          moving := h.moving ++ moved.filter (fun r => (target r).isSome && !h.moving.contains r)
          rdyHexset := h.rdyHexset && orph.isEmpty } }
      let heirs := moved.filterMap target
      let gaps := heirs.foldl (fun (g : Tbl TraceGap) c => if (g.get c).isSome then g else g.put c ⟨s.time.now, 0, 0⟩)
        (s1.stamps.trGaps.put hx ⟨s.time.now, 0, 3⟩)
      let s1 := { s1 with stamps := { s1.stamps with trGaps := gaps } }
      let s2 := ((s1.suspectEvent 0xFF 0xFF hx).errRec 0xC 0xFF hx []).degrade
      if orph.isEmpty then s2 else (s2.unhost orph).endOfService

/-- ROLE_MIGRATION_DONE: the role resumes from its last committed state (R375). -/
def execRoleMigrationDone (role : Nat) (s : State) : Res :=
  act s fun s => { s with hex := { s.hex with moving := s.hex.moving.filter (· != role) } }

/-- WING_LOST (R276). -/
def execWingLost (w cause : Nat) (s : State) : Res :=
  act s fun s => if s.power.st = .run ∧ w < 4 then s.loseWing w cause else s

/-- SYNC_PLANE_FAIL: the plane stays out of use on the path; both planes failed lose the wing, or the desk (R454). -/
def execSyncPlaneFail (plane path : Nat) (s : State) : Res :=
  act s fun s =>
    if s.power.st ≠ .run ∨ 2 ≤ plane ∨ s.planes.contains (plane, path) then s else
    let s1 := ({ s with planes := (plane, path) :: s.planes }).setHealth 5 true
    let s2 := (s1.event .ok 0x11 0xFF [b8 plane]).errRec 0xB 0xFF 0xFF ([b8 plane] ++ leBytes 2 path)
    if s.planes.contains (1 - plane, path) then
      (if Config.pathWing path < 4 then s2.loseWing (Config.pathWing path) 4 else s2.deskFailure 77)
    else s2

end Sys2Proof.Machine
end

