-- ==== Sys2Proof/Machine/Mailbox.lean ====
section
/-! DEFINITION. The frame of every mailbox command: authority, context, buffers, completion (R358 to R366), and the
self-test, placement, weeding and ledger commands. -/

namespace Sys2Proof.Machine

/-- Which context a command acts on (Table 15.9, Table 15.12). -/
inductive CtxUse
  | none | required | own
deriving DecidableEq, Repr

/-- A row of Table 15.12: opcode, ports, context, and whether it has a buffer. -/
structure CmdRow where
  op : Nat
  owner : Bool := true
  tenant : Bool := true
  ctx : CtxUse := .required
  buf : Bool := false
  maxLen : Nat := 4194304
deriving DecidableEq, Repr

/-- What a begun command does: it completes now with a status and a result, or later (R362). -/
inductive Ends
  | done (st : Status) (res : List Byte) (s : State)
  | later (s : State)

/-- A refusal leaves the state as it was (R362). -/
def refuse (s : State) (st : Status) : Ends := .done st [] s

/-- The context a command acts on, 255 for none, or its refusal with the context that is being wiped (R365, R366). -/
def State.cmdCtx (s : State) (m : Mbx) (r : CmdRow) : Except (Status × Nat) Nat :=
  match m.port with
  | .owner =>
    if !r.owner then .error (.portDenied, 255)
    else match r.ctx with
      | .required =>
        match s.ctxs.get m.context with
        | some c => if m.context < 16 then (if c.wiping then .error (.notReady, m.context) else .ok m.context) else .error (.badParameter, 255)
        | none => .error (.badParameter, 255)
      | _ => if m.context = 255 then .ok 255 else .error (.badParameter, 255)
  | .vf n =>
    if !r.tenant then .error (.portDenied, 255)
    else if m.context ≠ 255 then .error (.badParameter, 255)
    else match s.ctxs.find? (fun c => c.2.vf == some n) with
      | some c => if c.2.wiping then .error (.notReady, c.1) else .ok c.1
      | none => .error (.notReady, 255)

/-- The buffer field is acceptable (Table 15.9): aligned, within the limit, and absent when the command has none. -/
def bufForm (r : CmdRow) (b : Buf) : Bool :=
  if r.buf then decide (b.addr % 64 = 0 ∧ b.len ≤ r.maxLen) else decide (b.addr = 0 ∧ b.len = 0) && !b.dev

/-- A mailbox command is begun: its checks, its effect, its completion (R362, R365, R366). A mailbox that is not in service,
or whose front role is moving, begins none (R355, R375). -/
def State.runCmd (s : State) (m : Mbx) (r : CmdRow) (body : Owed → Nat → State → Ends) : State :=
  let n := portIx m.port
  if !s.mbxOn n || s.hex.moving.contains 0 then s else
  let s1 := s.setMb n { s.mb n with owed := (s.mb n).owed + 1 }
  let o : Owed := { port := m.port, epoch := (s.mb n).epoch, tag := m.tag, op := r.op, ctx := 255 }
  match s.cmdCtx m r with
  | .error e => (if e.1 = .portDenied then s1.count 0 1 else s1).complete { o with ctx := e.2 } e.1 []
  | .ok c =>
    let o := { o with ctx := c }
    if !bufForm r m.buf then s1.complete o .badParameter [] else
    match body o c s1 with
    | .done st res t => t.complete o st res
    | .later t => t

/-- A DEVBUF range is reachable: populated, outside carrel windows and secret regions (R361). -/
def State.devBuf (s : State) (a n : Nat) : Option Status :=
  if 2 ^ 40 ≤ a + n ∨ s.secretHit a n then some .addressFault
  else match s.reach a n with
    | some _ => some .addressFault
    | none => none

/-- An input buffer of exactly `n` bytes (R361, R365). -/
def State.inBuf (s : State) (m : Mbx) (n : Nat) : Except Status (List Byte) :=
  let b := m.buf
  if b.len ≠ n then .error .badParameter
  else if b.dev then
    match s.devBuf b.addr n with
    | some e => .error e
    | none => if s.poisoned b.addr n then .error .uncorrectableMemory else .ok (s.bytes b.addr n)
  else match b.fault with
    | .unreachable => .error .addressFault
    | .poisonedTlp => .error .integrityFault
    | .ok => .ok (fit n b.data)

/-- An output buffer of at least `n` bytes: what refuses it (R361). -/
def State.outBuf (s : State) (m : Mbx) (n : Nat) : Option Status :=
  let b := m.buf
  if b.len < n then some .badParameter
  else if b.dev then s.devBuf b.addr n
  else if b.fault == .unreachable then some .addressFault else none

/-- Output written to a buffer. -/
def State.putBuf (s : State) (b : Buf) (bs : List Byte) : State :=
  if b.dev then s.outWrite b.addr bs else s.hostWrite b.addr bs

/-! Module commands -/

/-- SET_POWER_LIMIT (R417): 1,000 to 3,600 W; the result is the limit in force. -/
def cmdSetPowerLimit (m : Mbx) (watts : Nat) (s : State) : State :=
  s.runCmd m { op := 0x0004, tenant := false, ctx := .none } fun _ _ s =>
    if watts < 1000 ∨ 3600 < watts then refuse s .badParameter
    else
      let t := ({ s with power := { s.power with setLimit := watts } }).relimit
      .done .ok (leBytes 2 t.power.limit) t

def execSetPowerLimit (m : Mbx) (watts : Nat) (s : State) : Res := act s (cmdSetPowerLimit m watts)

/-- MODULE_RESET: the completion is posted, then the reset begins (R408); other pending commands post nothing. -/
def cmdModuleReset (m : Mbx) (s : State) : State :=
  s.runCmd m { op := 0x0006, tenant := false, ctx := .none } fun o _ s => .later (s.complete o .ok []).moduleReset

def execModuleReset (m : Mbx) (s : State) : Res := act s (cmdModuleReset m)

/-! Self-test (R430) -/

/-- The wing of a unit by class. -/
def testWing (cls idx : Nat) : Nat :=
  match cls with | 0 => idx / 22 | 1 => idx / 4 | 2 => idx / 2 | _ => idx

/-- Indexes of a class (Table 18.6). -/
def testUnits (cls : Nat) : Nat := match cls with | 0 => 88 | 1 => 16 | 2 => 8 | _ => 4

/-- A unit is absent by grade or lost. -/
def State.testAbsent (s : State) (cls idx : Nat) : Bool :=
  match cls with
  | 0 => (s.bay idx).kind == .absent || (s.bay idx).gone
  | 1 => (s.stk idx).lost
  | 2 => !(s.port idx).present || (s.port idx).lost
  | _ => (s.wing idx).lost

/-- A unit is ready for a test. -/
def State.testReady (s : State) (cls idx : Nat) : Bool :=
  match cls with
  | 0 => s.bayUp idx
  | 1 => (s.stk idx).ready
  | 2 => (s.port idx).st == .active
  | _ => (s.wing idx).ready

/-- A unit is busy (Table 18.6). -/
def State.testBusy (s : State) (cls idx : Nat) : Bool :=
  match cls with
  | 0 => s.bayBusy idx
  | 1 => match (s.stk idx).served with
    | some t => decide (s.time.now < t + 1000000)
    | none => false
  | 2 => (s.port idx).st == .active
  | _ => s.wingBusy idx

/-- A unit takes no new work while it drains and is tested, or takes it again (Table 18.6). -/
def State.setDrained (s : State) (cls idx : Nat) (v : Bool) : State :=
  match cls with
  | 0 => s.setBay idx { s.bay idx with drained := v }
  | 1 => s.setStk idx { s.stk idx with drained := v }
  | 2 => s
  | _ => s.setWing idx { s.wing idx with drained := v }

/-- The test itself starts: a port goes DOWN and retrains (Table 18.6). -/
def State.startTest (s : State) (cls idx : Nat) : State := if cls = 2 then s.portDown idx 2 else s

/-- SELF_TEST (R430). -/
def cmdSelfTest (m : Mbx) (cls idx : Nat) (quiesce : Bool) (s : State) : State :=
  s.runCmd m { op := 0x0005, tenant := false, ctx := .none } fun o _ s =>
    if 3 < cls ∨ testUnits cls ≤ idx then refuse s .badParameter
    else if s.testAbsent cls idx then refuse s .unitAbsent
    else if !s.testReady cls idx then refuse s .notReady
    else if s.tests.any (fun t => testWing t.cls t.idx == testWing cls idx) then refuse s .busy
    else
      let busy := s.testBusy cls idx
      if busy && !quiesce then refuse s .busy
      else
        let s1 := { s with tests := s.tests ++ [(⟨cls, idx, o, !busy, quiesce⟩ : Test)] }
        let s2 := s1.setDrained cls idx true
        .later (if busy then s2 else s2.startTest cls idx)

def execSelfTest (m : Mbx) (cls idx : Nat) (quiesce : Bool) (s : State) : Res := act s (cmdSelfTest m cls idx quiesce)

/-- SELF_TEST_DRAIN_DONE: the unit is tested, or returns to service untested with BUSY (R430). -/
def execSelfTestDrainDone (cls idx : Nat) (drained : Bool) (s : State) : Res :=
  act s fun s =>
    match s.tests.find? (fun t => t.cls == cls && t.idx == idx && !t.testing) with
    | none => s
    | some t =>
      if drained then
        ({ s with tests := s.tests.map (fun u => if u = t then { u with testing := true } else u) }).startTest cls idx
      else (({ s with tests := s.tests.erase t }).setDrained cls idx false).complete t.owed .busy []

/-- Slots of a bay for which a predicate holds are zeroed and empty in every core (R65, R68). -/
def State.zeroSlots (s : State) (bay : Nat) (p : Nat → Bool) : State :=
  let hit := (List.range 96).filter p
  let s1 := (List.range 16).foldl (fun s c =>
    hit.foldl (fun s k => s.clear (carrelBase + (bay * 16 + c) * 0x80000 + k * 0x1000) 0x1000) s) s
  { s1 with slots := s1.slots.filter (fun x => x.1 / 1536 != bay || !p (x.1 % 96)) }

/-- A bay's test result: working slots zeroed, and with `QUIESCE` spares fitted (R71, Table 18.6). -/
def State.bayRetested (s : State) (i : Nat) (quiesce : Bool) (r : TestResult) : State :=
  let s1 := s.zeroSlots i (fun k => (slotOwner (s.bay i).entry k).isNone)
  let good := match r.cores.find? (fun x => x.1 == i) with
    | some x => x.2.toNat
    | none => (s.bay i).good
  let t := s1.bayTested i (if quiesce then good else good &&& (s.bay i).cores) true true
  if quiesce ∨ (t.bay i).gone then t else t.setBay i { t.bay i with good := good }

/-- SELF_TEST_DONE: the unit returns to service, or is treated as failed; the result is posted (R430, R453). -/
def execSelfTestDone (cls idx : Nat) (r : TestResult) (s : State) : Res :=
  act s fun s =>
    match s.tests.find? (fun t => t.cls == cls && t.idx == idx && t.testing) with
    | none => s
    | some t =>
      let s1 := ({ s with tests := s.tests.erase t }).setDrained cls idx false
      let (s2, pass) : State × Bool :=
        match cls with
        | 0 => (s1.bayRetested idx t.quiesce r, (s1.bayRetested idx t.quiesce r).bayUp idx)
        | 1 =>
          let s3 : State := { s1 with ledger := { s1.ledger with
            badSpares := addBlocks s1.ledger.badSpares ((r.spares.filter (· < 65536)).map (idx * 65536 + ·)) } }
          if r.pass then (s3, true) else (s3.loseStack idx 1, false)
        | 2 =>
          if 9 ≤ r.lanes.length then (s1, r.pass && (s1.port idx).st == .active)
          else ((s1.setPort idx { s1.port idx with st := .failed, failedAt := s1.time.now }).event .ok 8 0xFF [b8 idx, 8], false)
        | _ =>
          if r.pass then
            let s3 := if t.quiesce then { s1 with bays := fitSpares s1.bays idx } else s1
            ((List.range 22).foldl (fun s b =>
              if (s.bay (idx * 22 + b)).gone then s else s.bayRetested (idx * 22 + b) t.quiesce r) s3, true)
          else (s1.loseWing idx 6, false)
      s2.complete t.owed .ok [if pass then 0 else 1]

/-! Placement (R269 to R271) -/

/-- A loaded map is well formed (R270). -/
def placementGood (s : State) (bs : List Byte) : Bool :=
  let entry (i : Nat) : Nat := fld bs (64 + 8 * i) 8
  fld bs 0 4 == 0x31504C4F && fld bs 60 4 == crc32c (bs.take 60) && decide (s.map.epoch < fld bs 4 4) && decide (fld bs 8 1 ≤ 1)
    && zeroAt bs 9 51
    && (List.range 88).all (fun i =>
      let e := entry i
      !e.testBit 21 && bits e 22 2 == 0 && bits e 28 36 == 0 && decide (bits e 24 4 ≤ 8)
        && (e.testBit 20 == decide (bits e 24 4 ≠ 0)) && ((s.bay i).kind != .absent || (s.bay i).gone || e == 0))

/-- Partition fields of an entry: owner, BOUND and kdiv. -/
def partFields (e : W64) : Nat := bits e.toNat 16 5 + bits e.toNat 24 4 * 32

/-- A new entry takes a bound card's slot from its context (R270). -/
def State.strands (s : State) (i : Nat) (e : W64) : Bool :=
  partFields e != partFields (s.map.entries.getD i 0) && (s.carrelCards i).any (fun c => slotOwner e c.2 != some c.1)

/-- When every bay has applied its entry, the load completes (R271). -/
def State.placementDone (s : State) : State :=
  if s.bays.any (fun b => b.2.applying) then s else
  match s.map.owed with
  | none => s
  | some o => ({ s with map := { s.map with owed := none } }).complete o .ok []

/-- PLACEMENT_LOAD (R270, R271). -/
def cmdPlacementLoad (m : Mbx) (s : State) : State :=
  s.runCmd m { op := 0x0205, tenant := false, ctx := .none, buf := true } fun o _ s =>
    match s.inBuf m 768 with
    | .error e => refuse s e
    | .ok bs =>
      if !placementGood s bs then refuse s .badParameter
      else if s.map.owed.isSome then refuse s .busy
      else
        let entry (i : Nat) : W64 := BitVec.ofNat 64 (fld bs (64 + 8 * i) 8)
        if (List.range 88).any (fun i => s.strands i (entry i)) then refuse s .busy
        else
          let bays := s.bays.map (fun b =>
            if b.2.ready && partFields (entry b.1) != partFields b.2.entry then (b.1, { b.2 with applying := true })
            else (b.1, { b.2 with entry := entry b.1, applying := false }))
          let s1 := { s with
            bays := bays
            map := { epoch := fld bs 4 4, fixed := decide (fld bs 8 1 = 1), owed := some o
                     entries := (List.range 88).map (fun i => (i, entry i)) } }
          .later ((List.range 4).foldl State.recheckPasses s1.placementDone)

def execPlacementLoad (m : Mbx) (s : State) : Res := act s (cmdPlacementLoad m)

/-- BAY_PARTITION_APPLY: with no command in flight, the boundary moves and the slots that change partition are zeroed (R271). -/
def execBayPartitionApply (bay : Nat) (s : State) : Res :=
  act s fun s =>
    let b := s.bay bay
    if b.applying = false ∨ s.bayBusy bay then s else
    let e := s.map.entries.getD bay 0
    let s1 := s.zeroSlots bay (fun k => slotOwner b.entry k != slotOwner e k)
    ((s1.setBay bay { s1.bay bay with entry := e, applying := false }).recheckPasses (bay / 22)).placementDone

/-- The map's record, with what a tenant may not see hidden (R269). -/
def State.placementBytes (s : State) (c : Nat) : List Byte :=
  let h := leBytes 4 0x31504C4F ++ leBytes 4 s.map.epoch ++ [if s.map.fixed then 1 else 0] ++ zeros 51
  let show_ (e : Nat) : Nat :=
    if c = 255 then e
    else
      let own := if e.testBit c then 2 ^ c else 0
      let foreign := e.testBit 20 && bits e 16 4 != c
      own + (if foreign then 2 ^ 21 else bits e 16 4 * 2 ^ 16) + (if e.testBit 20 then 2 ^ 20 else 0) + bits e 24 4 * 2 ^ 24
  h ++ leBytes 4 (crc32c h) ++ (List.range 88).flatMap (fun i => leBytes 8 (show_ (s.map.entries.getD i 0).toNat))

/-- PLACEMENT_READ (R269). -/
def cmdPlacementRead (m : Mbx) (s : State) : State :=
  s.runCmd m { op := 0x0206, ctx := .own, buf := true } fun _ c s =>
    match s.outBuf m 768 with
    | some e => refuse s e
    | none => .done .ok [] (s.putBuf m.buf (s.placementBytes c))

def execPlacementRead (m : Mbx) (s : State) : Res := act s (cmdPlacementRead m)

/-! Weeding and the ledger -/

/-- A weed-list entry's bytes (Table 12.3). -/
def Weed.bytes (w : Weed) : List Byte := leBytes 8 (w.page * 65536) ++ [b8 w.reason] ++ zeros 3 ++ leBytes 4 w.boot

/-- Reshelving entries of a page's rows are released, in the stack and in the ledger's reshelving list (R290, Tables 12.4, 20.8). -/
def State.releasePage (s : State) (a : Nat) : State :=
  let st := dpaStack a
  let k := s.stk st
  let inPage (key : Nat) : Bool := key % 2 ^ 20 == dpaBank a * 2 ^ 16 + dpaRow a
  let inList (r : LRec) : Bool := r.unit == st && (r.detail.take 4).drop 1 == b8 (dpaBank a) :: leBytes 2 (dpaRow a)
  ({ s with ledger := { s.ledger with reshelves := s.ledger.reshelves.filter (fun r => !inList r) } } : State).setStk st
    { k with shelves := k.shelves.filter (fun e => !inPage e.1), failing := k.failing.filter (fun r => !inPage r),
             tallies := k.tallies.map (fun t => (t.1, t.2.filter (fun x => !inPage x.row))),
             rowFails := k.rowFails.filter (fun e => !inPage e.1) }

/-- PAGE_WEED (R289, R290, R292): queued requests to the page are served, the page is blocked, its entries released, the
weed-list entry written. -/
def cmdPageWeed (serve : State → Nat → State) (m : Mbx) (page reason : Nat) (s : State) : State :=
  s.runCmd m { op := 0x0701, tenant := false, ctx := .none } fun _ _ s =>
    let st := dpaStack page
    let list := s.ledger.weeds.getD st []
    if !s.ledger.ready then refuse s .notReady
    else if page % 65536 ≠ 0 ∨ 2 ^ 40 ≤ page ∨ s.grade.stackBytes ≤ page % 2 ^ 36 ∨ reason < 1 ∨ 3 < reason then refuse s .badParameter
    else if list.any (fun w => w.page == page / 65536) then .done .ok [] s
    else if s.pageBusy page then refuse s .busy
    else if 4096 ≤ list.length then
      let k := s.stk st
      if k.degraded then refuse s .resourceExhausted
      else .done .resourceExhausted [] (((s.setStk st { k with degraded := true }).event .ok 3 0xFF [b8 st]).degrade)
    else
      let s1 := serve s page
      let s2 := s1.setStk st { s1.stk st with weeded := (s1.stk st).weeded ++ [page / 65536] }
      let s3 := s2.releasePage page
      let w : Weed := { page := page / 65536, reason := reason, boot := s.ledger.boots, tick := s.stamp }
      .done .ok [] { s3 with ledger := { s3.ledger with weeds := s3.ledger.weeds.put st (list ++ [w]) } }

/-- WEED_LIST_READ (R291): entries of a stack or of all, from the first asked. -/
def cmdWeedListRead (m : Mbx) (stack first : Nat) (s : State) : State :=
  s.runCmd m { op := 0x0702, tenant := false, ctx := .none, buf := true } fun _ _ s =>
    if !s.ledger.ready then refuse s .notReady
    else if 16 ≤ stack ∧ stack ≠ 255 then refuse s .badParameter
    else
      let all := if stack = 255 then (List.range 16).flatMap (fun k => s.ledger.weeds.getD k []) else s.ledger.weeds.getD stack []
      let out := (all.drop first).take (m.buf.len / 16)
      match s.outBuf m (16 * out.length) with
      | some e => refuse s e
      | none => .done .ok (leBytes 4 out.length ++ leBytes 4 all.length) (s.putBuf m.buf (out.flatMap Weed.bytes))

def execWeedListRead (m : Mbx) (stack first : Nat) (s : State) : Res := act s (cmdWeedListRead m stack first)

/-- LEDGER_READ (R460, R461): records of a class, oldest first; a torn record counts in neither total. -/
def cmdLedgerRead (m : Mbx) (cls first : Nat) (s : State) : State :=
  s.runCmd m { op := 0x0103, tenant := false, ctx := .none, buf := true } fun _ _ s =>
    let l := s.ledger
    if !l.ready then refuse s .notReady
    else if cls < 1 ∨ 4 < cls then refuse s .badParameter
    else
      let area : List LRec := match cls with | 1 => l.errors | 2 => l.reshelves | 3 => l.ageing | _ => l.life
      let all := area.filter (fun r => !r.torn)
      let out := (all.drop first).take (m.buf.len / 32)
      match s.outBuf m (32 * out.length) with
      | some e => refuse s e
      | none => .done .ok (leBytes 4 out.length ++ leBytes 4 all.length) (s.putBuf m.buf (out.flatMap LRec.bytes))

def execLedgerRead (m : Mbx) (cls first : Nat) (s : State) : Res := act s (cmdLedgerRead m cls first)

end Sys2Proof.Machine
end

