-- ==== Sys2Proof/Machine/Keeper.lean ====
section
/-! DEFINITION. The keeper's services: staged firmware, quotes, sessions, manifests, big-number jobs, DRBG reseeding, and
the trace ring (R383 to R397, R168, R473, R474). -/

namespace Sys2Proof.Machine

/-- FW_STAGE: the image is copied over what the slot held, and its check begins (R383). -/
def cmdFwStage (m : Mbx) (slot : Nat) (s : State) : State :=
  s.runCmd m { op := 0x0101, tenant := false, ctx := .none, buf := true, maxLen := 33554432 } fun o _ s =>
    if 1 < slot then refuse s .badParameter
    else if (s.hex.staging.get slot).isSome then refuse s .busy
    else match s.inBuf m m.buf.len with
      | .error e => refuse s e
      | .ok bs =>
        let n := bs.length - colophonLen
        .later { s with hex := { s.hex with
          slots := s.hex.slots.del slot, staging := s.hex.staging.put slot (o, { body := bs.take n, colophon := bs.drop n }) } }

def execFwStage (m : Mbx) (slot : Nat) (s : State) : Res := act s (cmdFwStage m slot)

/-- FW_ACTIVATE: check 6 again, the fuse requests, the completion, then the restart (R383 to R385). -/
def cmdFwActivate (m : Mbx) (slot : Nat) (s : State) : State :=
  s.runCmd m { op := 0x0102, tenant := false, ctx := .none } fun o _ s =>
    if !s.ctxs.isEmpty then refuse s .busy
    else match (if slot < 2 then s.hex.slots.get slot else none) with
      | none => refuse s .badParameter
      | some img =>
        if fld img.colophon 12 2 < s.hex.otp.arb then refuse s .rollbackRefused
        else
          let s1 := (s.activate img).complete o .ok []
          .later { s1 with hex := { s1.hex with phase := .restarting, rdyHexset := false, rdyFw := false, rdyMbx := false } }

def execFwActivate (m : Mbx) (slot : Nat) (s : State) : Res := act s (cmdFwActivate m slot)

/-- The 512 bytes of a quote (Table 16.6). -/
def State.quoteBody (s : State) (c : Nat) (nonce transcript manifest : List Byte) : List Byte :=
  let o := s.hex.otp
  let a := s.hex.active.getD { fwver := 0, slot := 0, measure := [], colophonDigest := [] }
  let q := leBytes 4 0x31514C4F ++ leBytes 2 0x0100 ++ [b8 c, if s.holdover then 1 else 0] ++ leBytes 8 s.stamp.toNat
    ++ fit 64 nonce ++ leBytes 4 0x71601F5C ++ leBytes 4 s.idnGrade ++ leBytes 4 s.fwver ++ leBytes 2 o.arb
    ++ [b8 a.slot, b8 o.revoked] ++ fit 64 o.rommeas ++ fit 64 a.measure ++ fit 64 a.colophonDigest ++ fit 64 transcript
    ++ fit 64 manifest ++ fit 64 (slhPublic slh256f (attestSeed o.idseed)) ++ zeros 28
  q ++ leBytes 4 (crc32c q)

/-- A quote with its signature (R387). -/
def State.quote (s : State) (c : Nat) (nonce transcript manifest : List Byte) : List Byte :=
  let q := s.quoteBody c nonce transcript manifest
  q ++ slhSign slh256f (attestSeed s.hex.otp.idseed) q (ascii "OLT-Q") (fit 32 (Config.signRandom q))

/-- QUOTE: one quote is signed at a time (R387, Table 16.11). -/
def cmdQuote (m : Mbx) (s : State) : State :=
  s.runCmd m { op := 0x0104, ctx := .own, buf := true } fun o c s =>
    if !s.hex.rdyKeeper then refuse s .notReady
    else match s.outBuf m 80352 with
      | some e => refuse s e
      | none =>
        let nonce := if m.buf.dev then s.bytes m.buf.addr 64 else fit 64 m.buf.data
        if m.buf.dev && s.poisoned m.buf.addr 64 then refuse s .uncorrectableMemory
        else if !m.buf.dev && m.buf.fault == .poisonedTlp then refuse s .integrityFault
        else .later { s with hex := { s.hex with
          quotes := s.hex.quotes ++ [(⟨o, nonce, if c = 255 then none else some c, m.buf⟩ : QuoteJob)] } }

def execQuote (m : Mbx) (s : State) : Res := act s (cmdQuote m)

/-- Session transcript and manifest digest of a context, zeros where there is none. -/
def State.bindings (s : State) (c : Option Nat) : List Byte × List Byte :=
  match c.bind (fun c => s.ctxs.get c) with
  | none => ([], [])
  | some x => ((x.session.map (fun y => y.transcript)).getD [], (x.manifest.map (fun y => y.digest)).getD [])

/-- QUOTE_SIGNED: the quote and the endorsement are written and QUOTE completes (R386, R387). -/
def execQuoteSigned (s : State) : Res :=
  act s fun s =>
    match s.hex.quotes with
    | [] => s
    | q :: rest =>
      let (t, d) := s.bindings q.ctx
      let s1 := s.endorse
      let out := s1.quote (q.ctx.getD 255) q.nonce t d ++ (s1.ledger.endorsement.getD [])
      (({ s1 with hex := { s1.hex with quotes := rest } }).putBuf q.buf out).complete q.owed .ok []

/-! Big-number jobs -/

/-- A job starts when the engine is free, else it waits (R397). -/
def State.addJob (s : State) (j : BigJob) : State :=
  match s.hex.job with
  | none => { s with hex := { s.hex with job := some { j with start := s.time.now } } }
  | some _ => { s with hex := { s.hex with jobs := s.hex.jobs ++ [j] } }

/-- The engine is wiped and takes the next job (R397). -/
def State.nextJob (s : State) : State :=
  match s.hex.jobs with
  | [] => { s with hex := { s.hex with job := none } }
  | j :: r => { s with hex := { s.hex with job := some { j with start := s.time.now }, jobs := r } }

/-- A context's field changed. -/
def State.modCtx (s : State) (c : Nat) (f : Ctx → Ctx) : State := { s with ctxs := s.ctxs.mod c f }

/-- SESSION_OPEN (R388, R389): the old session is destroyed at its start. The public keys checked are the ECDH key and the manifest key:
DEDUCED, log entry 88. -/
def cmdSessionOpen (m : Mbx) (s : State) : State :=
  s.runCmd m { op := 0x0105, owner := false, ctx := .own, buf := true } fun o c s =>
    let h := s.hex
    if !h.rdyKeeper then refuse s .notReady
    else if h.drbgError then refuse s .cryptoFail
    else if !h.trng then refuse s .notReady
    else if (h.job.toList ++ h.jobs).any (fun j => j.ctx == c && j.kind == 2) then refuse s .busy
    else match s.outBuf m 52088 with
      | some e => refuse s e
      | none =>
        let r := if m.buf.dev then s.bytes m.buf.addr 1808 else fit 1808 m.buf.data
        if m.buf.dev && s.poisoned m.buf.addr 1808 then refuse s .uncorrectableMemory
        else if !m.buf.dev && m.buf.fault == .poisonedTlp then refuse s .integrityFault
        else if fld r 0 4 ≠ 0x31534C4F ∨ fld r 4 2 ≠ 0x0100 ∨ !zeroAt r 6 2 ∨ !zeroAt r 1705 3 ∨ !zeroAt r 1805 3 then
          refuse s .badParameter
        else
          let good := kemCheck ((r.drop 40).take 1568) && (Pt.decode ((r.drop 1608).take 97)).isSome
            && (Pt.decode ((r.drop 1708).take 97)).isSome
          let s1 := s.modCtx c (fun x => { x with session := none })
          .later (({ s1 with draw := s1.draw + 1 }).addJob
            { kind := 0, owed := o, ctx := c, start := 0, draw := s1.draw, msg := r, buf := m.buf
              fail := if good then none else some .cryptoFail })

def execSessionOpen (m : Mbx) (s : State) : Res := act s (cmdSessionOpen m)

/-- MANIFEST_LOAD (R393). -/
def cmdManifestLoad (m : Mbx) (s : State) : State :=
  s.runCmd m { op := 0x0107, buf := true } fun o c s =>
    if !s.hex.rdyKeeper then refuse s .notReady
    else match (s.ctxs.get c).bind (fun x => x.session) with
      | none => refuse s .notReady
      | some _ =>
        match s.inBuf m m.buf.len with
        | .error e => refuse s e
        | .ok bs =>
          let n := fld bs 6 2
          let inForce := match (s.ctxs.get c).bind (fun x => x.manifest) with | some f => f.serial | none => 0
          let entryBad (i : Nat) : Bool := fld bs (32 + 48 * i + 9) 1 != 0
          if bs.length < 128 ∨ n < 1 ∨ 1024 < n ∨ bs.length ≠ 32 + 48 * n + 96 ∨ fld bs 0 4 ≠ 0x314D4C4F ∨ fld bs 4 2 ≠ 0x0100
            ∨ !zeroAt bs 16 16 ∨ (List.range n).any entryBad ∨ fld bs 8 8 ≤ inForce ∧ ((s.ctxs.get c).bind (fun x => x.manifest)).isSome
          then refuse s .badParameter
          else
            let sig := bs.drop (32 + 48 * n)
            let r := leNat (sig.take 48).reverse
            let v := leNat ((sig.drop 48).take 48).reverse
            let bad := r = 0 ∨ v = 0 ∨ p384Order ≤ r ∨ p384Order ≤ v
            .later (s.addJob { kind := 2, owed := o, ctx := c, start := 0, draw := 0, msg := bs, buf := m.buf
                               fail := if bad then some .cryptoFail else none })

def execManifestLoad (m : Mbx) (s : State) : Res := act s (cmdManifestLoad m)

/-- The manifest of a verified message (R393). -/
def parseManifest (bs : List Byte) : Manifest :=
  { serial := fld bs 8 8, digest := shake256 bs 64
    entries := (List.range (fld bs 6 2)).map fun i =>
      let o := 32 + 48 * i
      { accession := fld bs o 8, kind := fld bs (o + 8) 1, index := fld bs (o + 10) 2, aux := fld bs (o + 12) 4
        digest := (bs.drop (o + 16)).take 32 } }

/-- The session that a successful exchange leaves, and its reply (R389, R390, Table 16.8). -/
def State.openSession (s : State) (j : BigJob) (qm z : List Byte) : State :=
  let x := (s.ctxs.get j.ctx).getD {}
  let r := j.msg
  let (k, ct) := kemEncaps (fit 32 (Config.freeBytes j.draw 6 32)) ((r.drop 40).take 1568)
  let head := leBytes 4 0x32534C4F ++ leBytes 2 0x0100 ++ zeros 2 ++ leBytes 8 (x.sessions + 1) ++ fit 1568 ct ++ fit 97 qm ++ zeros 7
  let t := shake256 (r ++ head) 64
  let keys := shake256 (k ++ z ++ t ++ ascii "OLT-S") 64
  let tag := shake256 (keys.drop 32 ++ t) 32
  let ses : Session := { transcript := t, sealKey := keys.take 32, manKey := (r.drop 1708).take 97, lastSeq := 0, part := none }
  let s1 := s.modCtx j.ctx (fun x => { x with session := some ses, sessions := x.sessions + 1 })
  let q := s1.quote j.ctx ((r.drop 8).take 32 ++ zeros 32) t ((x.manifest.map (fun y => y.digest)).getD [])
  (s1.putBuf j.buf (head ++ tag ++ q)).complete j.owed .ok []

/-- A job's fixed duration, ns (Table 16.10). -/
def jobTime (kind : Nat) : Nat := if kind = 2 then 3000000 else 2000000
/-- The keeper's DRBG gives fresh values (R396). -/
def State.keeperDrew (s : State) (n : Nat) : State := { s with hex := { s.hex with keeperDraws := s.hex.keeperDraws + n } }
/-- BIGNUM_JOB_END: at its fixed duration the job releases its result or its failure, and the engine is wiped (R389, R393, R397). Key
generation draws its scalar and one blinding, the shared secret two blindings (R396) and the
encapsulation its message; a failed invariant is CRYPTO_FAIL. -/
def execBignumJobEnd (s : State) : Res :=
  act s fun s =>
    match s.hex.job with
    | none => s
    | some j =>
      if s.time.now < j.start + jobTime j.kind then s else
      let s1 := s.nextJob
      match j.fail with
      | some e => s1.complete j.owed e []
      | none =>
        match j.kind with
        | 0 => match ecdhPublic j.draw with
          | some _ => (s1.keeperDrew 4).addJob { j with kind := 1 }
          | none => (s1.keeperDrew 4).complete j.owed .cryptoFail []
        | 1 => match ecdhPublic j.draw, ecdhShared j.draw ((j.msg.drop 1608).take 97) with
          | some qm, some z => (s1.keeperDrew 7).openSession j qm z
          | _, _ => (s1.keeperDrew 7).complete j.owed .cryptoFail []
        | _ =>
          let n := j.msg.length - 96
          let key := ((s.ctxs.get j.ctx).bind (fun x => x.session)).map (fun y => y.manKey)
          -- a manifest that came into force meanwhile may have overtaken this one's serial (R393)
          if ((s.ctxs.get j.ctx).bind (fun x => x.manifest)).any (fun f => decide (fld j.msg 8 8 ≤ f.serial)) then
            s1.complete j.owed .badParameter []
          else if ecdsaVerify (key.getD []) (j.msg.take n) (j.msg.drop n) then
            (s1.modCtx j.ctx (fun x => { x with manifest := some (parseManifest j.msg) })).complete j.owed .ok []
          else s1.complete j.owed .signatureInvalid []

/-- DRBG_RESEED: an instance that is due reseeds from the entropy source (R168). -/
def execDrbgReseed (c w : Nat) (s : State) : Res :=
  act s fun s =>
    match (s.ctxs.get c).bind (fun x => x.drbg.get w) with
    | none => s
    | some d => if s.hex.drbgError || !d.due s.time.now then s else s.reseed c w

/-! Trace -/

/-- The trace ring's header as the module writes it (R474). -/
def State.traceHeader (s : State) : State :=
  let t := s.stamps
  if t.trLen = 0 ∨ (s.reach t.trBase 64).isSome then s else
  let h := leBytes 4 0x31544C4F ++ zeros 4 ++ leBytes 8 t.trPtr ++ leBytes 8 t.trWraps ++ leBytes 8 t.trDropped ++ zeros 28
  s.write t.trBase (h ++ leBytes 4 (crc32c h))

/-- TRACE_CONFIG (R473). -/
def cmdTraceConfig (m : Mbx) (mask ring len : Nat) (s : State) : State :=
  s.runCmd m { op := 0x0007, tenant := false, ctx := .none } fun _ _ s =>
    let bad := decide (64 ≤ mask) || decide (ring % 4096 ≠ 0) || decide (len % 4096 ≠ 0) || decide (2 ^ 28 < len)
      || (decide (0 < len) && (decide (len < 2 ^ 20) || decide (2 ^ 40 ≤ ring + len) || decide (ring / 2 ^ 36 ≠ (ring + len - 1) / 2 ^ 36)
        || (s.reach ring len).isSome || s.secretHit ring len))
    if bad then refuse s .badParameter
    else
      .done .ok [] ({ s with stamps := { s.stamps with
        trMask := mask, trBase := ring, trLen := len, trPtr := 0x40, trWraps := 0, trDropped := 0
        trBranches := [], trGaps := ((List.range 6).filter mask.testBit).foldl (fun (g : Tbl TraceGap) hx =>
          g.put hx ⟨s.time.now, 0, if 0 < s.stamps.trLen ∧ s.stamps.trMask.testBit hx then 4 else 0⟩) [] } }).traceHeader

def execTraceConfig (m : Mbx) (mask ring len : Nat) (s : State) : Res := act s (cmdTraceConfig m mask ring len)

/-- TRACE_HEADER_UPDATE (R474). -/
def execTraceHeaderUpdate (s : State) : Res := act s fun s => s.traceHeader

end Sys2Proof.Machine
end

