-- ==== Sys2Proof/Machine/Seal.lean ====
section
/-! DEFINITION. AES-256-GCM, which seals a session's images (R391). PRESUMED: AES and GCM are those of FIPS 197 and SP 800-38D, which
the spec names and does not restate. -/

namespace Sys2Proof.Machine

/-- Product in GF(2^8) modulo x^8 + x^4 + x^3 + x + 1. -/
def gmul (a b : Nat) : Nat :=
  ((List.range 8).foldl (fun (p : Nat × Nat) i =>
    (if b.testBit i then p.1 ^^^ p.2 else p.1, let d := 2 * p.2; if 256 ≤ d then d ^^^ 0x11B else d)) (0, a)).1
/-- The inverse x^254, 0 for 0. -/
def ginv (x : Nat) : Nat :=
  let x2 := gmul x x
  let x3 := gmul x2 x
  let x12 := gmul (gmul x3 x3) (gmul x3 x3)
  let x15 := gmul x12 x3
  let sq (v : Nat) : Nat := gmul v v
  gmul (gmul (sq (sq (sq (sq x15)))) x12) x2
/-- The S-box: the inverse under the affine map. -/
def aesSbox (x : Nat) : Nat :=
  let v := ginv x
  let rot (k : Nat) : Nat := (v * 2 ^ k ||| v / 2 ^ (8 - k)) % 256
  v ^^^ rot 1 ^^^ rot 2 ^^^ rot 3 ^^^ rot 4 ^^^ 0x63
/-- The 60 words of an expanded 256-bit key, each four bytes. -/
def aesExpand (key : List Nat) : List (List Nat) :=
  (List.range 52).foldl (fun ws j =>
    let i := j + 8
    let t := ws.getD (i - 1) []
    let rcon := 2 ^ (i / 8 - 1)
    let u := if i % 8 = 0 then ((t.drop 1 ++ t.take 1).map aesSbox).mapIdx (fun k x => if k = 0 then x ^^^ rcon else x)
      else if i % 8 = 4 then t.map aesSbox else t
    ws ++ [List.zipWith (· ^^^ ·) (ws.getD (i - 8) []) u]) ((List.range 8).map (fun i => (key.drop (4 * i)).take 4))
/-- MixColumns on a column. -/
def mixColumn (c : List Nat) : List Nat :=
  (List.range 4).map (fun i =>
    gmul 2 (c.getD i 0) ^^^ gmul 3 (c.getD ((i + 1) % 4) 0) ^^^ c.getD ((i + 2) % 4) 0 ^^^ c.getD ((i + 3) % 4) 0)
/-- A round on the 16 bytes of a block, column by column; the last mixes no columns. -/
def aesRound (last : Bool) (st rk : List Nat) : List Nat :=
  let s1 := st.map aesSbox
  let s2 := (List.range 16).map (fun i => s1.getD (4 * ((i / 4 + i % 4) % 4) + i % 4) 0)
  let s3 := if last then s2 else (List.range 4).flatMap (fun c => mixColumn ((s2.drop (4 * c)).take 4))
  List.zipWith (· ^^^ ·) s3 rk
/-- One block under an expanded key. -/
def aesBlock (ws : List (List Nat)) (blk : List Nat) : List Nat :=
  let rk (r : Nat) : List Nat := ((ws.drop (4 * r)).take 4).flatten
  aesRound true ((List.range 13).foldl (fun st r => aesRound false st (rk (r + 1))) (List.zipWith (· ^^^ ·) blk (rk 0))) (rk 14)

/-- Bytes as a big-endian number, and back. -/
def gcmNat (b : List Nat) : Nat := b.foldl (fun a x => 256 * a + x) 0
def gcmBytes (n v : Nat) : List Nat := ((List.range n).map (fun i => v / 256 ^ i % 256)).reverse
/-- Product in GCM's GF(2^128); the most significant bit is the constant term. -/
def ghMul (x y : Nat) : Nat :=
  ((List.range 128).foldl (fun (p : Nat × Nat) i =>
    (if x.testBit (127 - i) then p.1 ^^^ p.2 else p.1, if p.2.testBit 0 then (p.2 / 2) ^^^ (0xE1 * 2 ^ 120) else p.2 / 2)) (0, y)).1
/-- Bytes in whole blocks, zeros at the end. -/
def pad16 (b : List Nat) : List Nat := b ++ List.replicate ((16 - b.length % 16) % 16) 0
/-- GHASH of whole blocks. -/
def ghash (h : Nat) (b : List Nat) : Nat :=
  (List.range (b.length / 16)).foldl (fun y i => ghMul (y ^^^ gcmNat ((b.drop (16 * i)).take 16)) h) 0
/-- The tag of a ciphertext under a 96-bit IV. -/
def gcmTag (ws : List (List Nat)) (iv aad ct : List Nat) : List Nat :=
  let h := gcmNat (aesBlock ws (List.replicate 16 0))
  let s := ghash h (pad16 aad ++ pad16 ct ++ gcmBytes 8 (8 * aad.length) ++ gcmBytes 8 (8 * ct.length))
  List.zipWith (· ^^^ ·) (aesBlock ws (iv ++ gcmBytes 4 1)) (gcmBytes 16 s)
/-- Counter-mode encryption, which is its own inverse. -/
def gcmCtr (ws : List (List Nat)) (iv ct : List Nat) : List Nat :=
  (List.range ((ct.length + 15) / 16)).flatMap (fun i =>
    List.zipWith (· ^^^ ·) ((ct.drop (16 * i)).take 16) (aesBlock ws (iv ++ gcmBytes 4 (i + 2))))
/-- AES-256-GCM decryption: the plaintext, or none when the tag fails. -/
def gcmOpen (key iv aad ct tag : List Byte) : Option (List Byte) :=
  let n (l : List Byte) : List Nat := l.map (fun b => b.toNat)
  let ws := aesExpand (n key)
  if gcmTag ws (n iv) (n aad) (n ct) = n tag then some ((gcmCtr ws (n iv) (n ct)).map b8) else none

end Sys2Proof.Machine
end

