-- ==== Sys2Proof/Machine/Catalogue.lean ====
section
/-! DEFINITION. The catalogue's commands: parameter sets (R13 to R16), writing, binding, exporting and unbinding cards (R172 to
R179, R202 to R207, R33 to R39, R80 to R87, R148, R149), and sealed images (R391, R392). -/

namespace Sys2Proof.Machine

/-! Parameter sets -/

/-- ⌈log2 x⌉ of a positive number. -/
def clog2 (x : Nat) : Nat := if x ≤ 1 then 0 else Nat.log2 (x - 1) + 1
/-- The constraints of Table 1.3 on one prime. -/
def primeOk (scheme log2n : Nat) (split : Bool) (q : Nat) : Bool :=
  decide (2 ^ 19 < q) && decide (q < if split then 2 ^ 30 else 2 ^ 62) && (scheme == 6 || q % 2 ^ (log2n + 1) == 1) && isPrime q
/-- A parameter set satisfies Table 1.3 and R16. -/
def ParamSet.ok (p : ParamSet) : Bool :=
  let L := p.L
  let K := p.K
  let primes := (p.qs ++ p.ps).all (primeOk p.scheme p.log2n p.split) && decide (p.qs ++ p.ps).Nodup
  let digits := K == 0 || (decide ((p.dnum - 1) * p.alpha < L) &&
    (List.range p.dnum).all (fun d => decide (prod ((p.digit (L - 1) d).map p.prime) < prod p.ps)))
  match p.scheme with
  | 1 | 2 | 3 =>
    decide (12 ≤ p.log2n ∧ p.log2n ≤ 17 ∧ 1 ≤ L ∧ L ≤ 64 ∧ K ≤ 16) && primes && digits && p.lweN == 0
      && (if K = 0 then p.dnum == 0 else decide (1 ≤ p.dnum ∧ p.dnum ≤ 8 ∧ p.dnum ≤ L))
      && (if p.scheme = 1 then p.t == 0 && !p.packed
          else decide (2 ≤ p.t ∧ p.t < 2 ^ 60) && isPrime p.t && !(p.qs ++ p.ps).contains p.t
            && (!p.packed || p.t % 2 ^ (p.log2n + 1) == 1))
  | 4 => decide (10 ≤ p.log2n ∧ p.log2n ≤ 12 ∧ L = 1 ∧ K = 0 ∧ p.dnum = 0 ∧ p.t = 0 ∧ 512 ≤ p.lweN ∧ p.lweN ≤ 1024)
      && primes && !p.split && !p.packed
  | 5 => decide (p.log2n = 0 ∧ L = 0 ∧ K = 0 ∧ p.dnum = 0 ∧ p.t = 0 ∧ p.lweN = 0) && !p.split && !p.packed
  | 6 => decide (p.log2n = 0 ∧ 1 ≤ L ∧ L ≤ 64 ∧ K = 0 ∧ p.dnum = 0 ∧ p.t = 0 ∧ p.lweN = 0) && primes && !p.split && !p.packed
  | _ => false
/-- The record of Table 1.2. -/
def parseSet (b : List Byte) : ParamSet :=
  let l := fld b 6 1
  let k := fld b 7 1
  let fl := fld b 9 1
  { scheme := fld b 4 1, log2n := fld b 5 1, split := fl.testBit 0, packed := fl.testBit 1, dnum := fld b 8 1
    t := fld b 16 8, lweN := fld b 24 2, qs := (List.range l).map (fun i => fld b (64 + 8 * i) 8)
    ps := (List.range k).map (fun i => fld b (64 + 8 * l + 8 * i) 8) }

/-- The bytes that an input buffer delivers, whatever its length up to the command's limit (R361). -/
def State.anyBuf (s : State) (m : Mbx) : Except Status (List Byte) := s.inBuf m m.buf.len

/-- PARAMSET_LOAD (R13 to R16): the record is checked whole and registered. -/
def cmdParamsetLoad (m : Mbx) (s : State) : State :=
  s.runCmd m { op := 0x0201, buf := true } fun _ c s =>
    match s.anyBuf m with
    | .error e => refuse s e
    | .ok b =>
      let p := parseSet b
      let id := fld b 0 4
      let x := s.ctx c
      if b.length < 64 ∨ b.length ≠ 64 + 8 * (fld b 6 1 + fld b 7 1) ∨ id = 0 ∨ 4 ≤ fld b 9 1 ∨ !zeroAt b 10 6 ∨ !zeroAt b 26 38
          ∨ !p.ok ∨ (x.sets.get id).isSome then refuse s .badParameter
      else if 32 ≤ x.sets.length then refuse s .resourceExhausted
      else .done .ok [] (s.setCtx c { x with sets := x.sets.put id p })
def execParamsetLoad (m : Mbx) (s : State) : Res := act s (cmdParamsetLoad m)

/-! What names a card -/

/-- Handles that a plan names (R129, R177). -/
def State.planHandles (s : State) (c : Nat) (p : Plan) : List Nat :=
  let fold := match s.pset c p.set with
    | some q => (List.range (q.log2n - 1 - p.log2slots)).map (· + p.fold)
    | none => []
  [p.relin, p.conj, p.program] ++ fold ++ (p.cts ++ p.stc).flatMap (fun t =>
    t.diag :: (List.range (t.n1 + t.n2 - 2)).map (· + t.keys))
/-- A handle is named by a decoded, uncompleted command, a plan, or a sealed image in progress (R177, R392). -/
def State.handleBusy (s : State) (c h : Nat) : Bool :=
  let x := s.ctx c
  x.streams.any (fun t => t.2.window.any (fun e => e.2.phase != .done && (e.2.reads.contains h || e.2.writes.contains h)))
    || x.plans.any (fun p => (s.planHandles c p.2).contains h)
    || (x.session.bind (fun z => z.part)).any (fun p => p.handle == h)

/-! Templates -/

/-- Layouts that a kind admits (Table 8.2). -/
def layoutOk (k : CardKind) (l : Layout) : Bool :=
  match k with
  | .ciphertext | .plaintext | .poly => l == .coef || l == .limb || l == .bitrev || l == .tile16
  | .key => l == .bitrev | .lwe => l == .lwe | .share => l == .limb | .clear => l == .slot
/-- Element code of a kind and set (R175). -/
def elemFor (k : CardKind) (p : ParamSet) : Elem :=
  match k with
  | .lwe => .res64
  | .share => if p.scheme = 5 then .u64 else .res64
  | _ => if p.split then .res30x2 else .res64
/-- Element codes that some set or none gives a kind (R175). -/
def elemOk (k : CardKind) (e : Elem) : Bool :=
  match k with
  | .clear => true
  | .lwe => e == .res64
  | .share => e == .res64 || e == .u64
  | _ => e == .res64 || e == .res30x2
/-- A set's scheme suits a kind (R175). -/
def schemeOk (k : CardKind) (p : ParamSet) : Bool :=
  match k with
  | .lwe => p.scheme == 4
  | .share => p.scheme == 5 || p.scheme == 6
  | .clear => false
  | _ => p.ring
/-- Two ranges overlap. -/
def overlap (a n b m : Nat) : Bool := decide (a < b + m ∧ b < a + n)
/-- A range overlaps a key extent of any card but the one at a handle (R85). -/
def State.hitsKey (s : State) (c h a n : Nat) : Bool :=
  s.ctxs.any (fun x => x.2.cards.any (fun y => !(x.1 == c && y.1 == h) && y.2.kind == .key &&
    (y.2.extents.zip y.2.pages).any (fun e => overlap a n e.1 (e.2 * 65536))))
/-- A range overlaps a card of another context or handle. -/
def State.hitsCard (s : State) (c h a n : Nat) (p : Card → Bool) : Bool :=
  s.ctxs.any (fun x => x.2.cards.any (fun y => !(x.1 == c && y.1 == h) && p y.2 && y.2.kind != .key && overlap a n y.2.base y.2.capacity))
/-- Storage of a card lies where it may (R67, R164, R175): in device memory or in the context's bound partition; a secret one in
a secret region or bound slot; never over a key extent, over another context's secret card, or over memory whose zero-fill runs
(R165, R171). -/
def State.placeOk (s : State) (c h : Nat) (cd : Card) (secret : Bool) : Bool :=
  let n := max 1 cd.capacity
  match cd.place with
  | .hbm => decide (cd.base + cd.capacity ≤ 2 ^ 40) && (!secret || s.inSecret c cd.base n) && !s.hitsKey c h cd.base n && !s.zeroing cd.base n
      && !s.hitsCard c h cd.base n (fun y => y.secret && !secret)
  | .carrel => s.inBound c cd.base n && decide (cd.base % 8 = 0)
      && (slotsOf cd.base n).all (fun k => k / 96 == slotKey cd.base / 96)
  | .extents => false
/-- The access field (Table 7.1): carrel cards only; a reader count for PUT only. -/
def Card.accessOk (cd : Card) : Bool :=
  if cd.place == .carrel then (if cd.mode = 1 then decide (1 ≤ cd.readers) else cd.readers == 0)
  else cd.mode == 0 && cd.readers == 0
/-- Pitches keep the elements of a SLOT card apart (R206). -/
def Card.pitchOk (cd : Card) : Bool :=
  decide (1 ≤ cd.pitch.getD 0 0) && (List.range (cd.rank - 1)).all (fun d =>
    decide (cd.pitch.getD d 0 * cd.dims.getD d 0 ≤ cd.pitch.getD (d + 1) 0))

/-- The software-supplied part of a written card; what CARD_WRITE leaves to the module is at 0 (R175). -/
def Card.supplied (cd : Card) : Card :=
  { cd with
    scheme := 0, poison := false, raised := false, damaged := false, pending := false, noise := 0, floor := 0, scale := 0
    accession := 0, wing := 0, triple := .fresh, opening := 0, noiseX := 0, noiseY := 0, fracX := 0 }
/-- The shape of a written card, as far as it needs no set (R175, R202, R206). -/
def Card.writable (cd : Card) : Bool :=
  cd.kind != .key && elemOk cd.kind cd.elem && layoutOk cd.kind cd.layout && cd.accessOk && cd.place != .extents && decide (cd.base % cd.elem.size = 0)
    && (match cd.kind with
        | .clear => cd.set == 0 && decide (1 ≤ cd.rank ∧ cd.rank ≤ 4) && cd.pitchOk && cd.count == cd.slotCount
            && (cd.dims.drop cd.rank).all (· == 1) && (cd.dims.take cd.rank).all (fun d => decide (1 ≤ d)) && cd.comps == 1 && cd.limbs == 0 && cd.level == 0 && cd.polys == 1
            && fillOk none cd
        | .lwe => cd.comps == 1 && cd.limbs == 0 && cd.level == 0 && cd.polys == 1 && decide (1 ≤ cd.count) && cd.elem == .res64
        | .share => decide (1 ≤ cd.role ∧ cd.role ≤ 5 ∧ 1 ≤ cd.count ∧ cd.count ≤ 2 ^ 24) && cd.comps == roleComps cd.role && cd.level == 0
            && cd.polys == 1 && (cd.secret || !(cd.role == roleTriple || cd.role == roleCmp))
        | .ciphertext => (cd.comps == 2 || cd.comps == 3) && cd.polys == 1 && cd.count == 0 && decide (cd.level < cd.limbs)
        | .plaintext => cd.comps == 1 && decide (1 ≤ cd.polys) && cd.count == 0 && decide (cd.level < cd.limbs)
        | _ => cd.comps == 1 && cd.polys == 1 && cd.count == 0 && decide (1 ≤ cd.limbs ∧ cd.limbs ≤ 80))
/-- What a written card's shape needs of its set (R175, R216). -/
def Card.fits (cd : Card) (p : ParamSet) : Bool :=
  cd.elem == elemFor cd.kind p && fillOk (some p) cd && decide (cd.span p ≤ cd.capacity)
    && (match cd.kind with
        | .lwe => cd.lweDim == p.lweN || cd.lweDim == p.n
        | .share => (if p.scheme = 5 then cd.limbs == 1 && decide (cd.frac ≤ 32 ∧ (cd.bound = 0 ∨ (21 ≤ cd.bound ∧ cd.bound ≤ 61)))
                     else cd.limbs == p.L && cd.frac == 0 && cd.bound == 0)
        | .poly => decide (cd.level + cd.limbs ≤ p.L + p.K)
        | _ => decide (cd.limbs ≤ p.L))

/-- CARD_WRITE (R175, R177). -/
def cmdCardWrite (m : Mbx) (handle : Nat) (s : State) : State :=
  s.runCmd m { op := 0x0301, buf := true } fun _ c s =>
    match s.inBuf m 128 with
    | .error e => refuse s e
    | .ok b =>
      match Card.parse b with
      | none => refuse s .badParameter
      | some cd =>
        let p := s.pset c cd.set
        let secret := cd.secret || (cd.kind == .share && roleSecret cd.role)
        let fits := match cd.kind, p with
          | .clear, _ => decide (cd.span noSet ≤ cd.capacity)
          | k, some p => !schemeOk k p || cd.fits p
          | _, none => true
        if cd.supplied.bytes ≠ b ∨ 65536 ≤ handle ∨ !cd.writable ∨ !fits ∨ !s.placeOk c handle cd secret then refuse s .badParameter
        else if cd.kind ≠ .clear ∧ (match p with | some q => !schemeOk cd.kind q | none => true) = true then refuse s .parameterMismatch
        else if !s.cardReady cd then refuse s .notReady
        else if s.handleBusy c handle then refuse s .busy
        else
          let cd1 := { cd with
            scheme := (p.map (fun q => q.scheme)).getD 0
            poison := cd.kind != .poly && cd.kind != .clear
            triple := if cd.kind == .share && cd.role == roleTriple then .spent else .fresh }
          .done .ok [] (s.setCard c handle cd1)
def execCardWrite (m : Mbx) (handle : Nat) (s : State) : Res := act s (cmdCardWrite m handle)

/-- CARD_READ (R178): the 128 bytes as they stand; an EMPTY entry is all zero. -/
def cmdCardRead (m : Mbx) (handle : Nat) (s : State) : State :=
  s.runCmd m { op := 0x0305, buf := true } fun _ c s =>
    match s.outBuf m 128 with
    | some e => refuse s e
    | none => .done .ok [] (s.putBuf m.buf (((s.card c handle).map Card.bytes).getD (zeros 128)))
def execCardRead (m : Mbx) (handle : Nat) (s : State) : Res := act s (cmdCardRead m handle)

/-- A secret carrel card's slots are zeroed and emptied when it is unbound (R65, R176). -/
def State.zeroCardSlots (s : State) (cd : Card) : State :=
  if cd.place == .carrel && cd.secret then
    (slotsOf cd.base cd.capacity).foldl (fun s k =>
      let t := s.slot k
      ({ s with slots := s.slots.put k { t with secret := true } }).emptySlot k) s
  else s

/-- CARD_UNBIND (R176, R177, R87, R129). -/
def cmdCardUnbind (m : Mbx) (handle : Nat) (s : State) : State :=
  s.runCmd m { op := 0x0304 } fun _ c s =>
    if 65536 ≤ handle then refuse s .badParameter
    else if s.handleBusy c handle then refuse s .busy
    else match s.card c handle with
      | none => .done .ok [] s
      | some cd =>
        let s1 := s.zeroCardSlots cd
        .done .ok [] (s1.setCtx c { s1.ctx c with cards := (s1.ctx c).cards.del handle })
def execCardUnbind (m : Mbx) (handle : Nat) (s : State) : Res := act s (cmdCardUnbind m handle)

/-! Exchange images -/

/-- Magic and version of an exchange image (Table 1.6). -/
def imageMagic : Nat := 0x31584C4F
/-- The kind of card that an image kind makes (Table 1.7). -/
def imageKind (k : Nat) : Option CardKind :=
  match k with | 1 => some .ciphertext | 2 => some .plaintext | 3 => some .key | 4 => some .lwe | 5 => some .share | _ => none
/-- Header constraints that need no parameter set (R37 step 2, Tables 1.6, 3.2, 6.1, R139). -/
def headerOk (b : List Byte) : Bool :=
  let kind := fld b 6 1
  let scheme := fld b 7 1
  let limbs := fld b 13 1
  let comps := fld b 14 1
  let fl := fld b 15 1
  let scale := fld b 16 8
  let acc := fld b 24 8
  let common := decide (1 ≤ scheme ∧ scheme ≤ 6)
  let share := scheme == 5 || scheme == 6
  common && (match kind with
    | 1 => (comps == 2 || comps == 3) && decide (1 ≤ limbs) && decide (fl < 4) && (!fl.testBit 0 || comps == 2) && acc != 0
        && fld b 32 2 != 0 && zeroAt b 36 4 && zeroAt b 48 12
        && (match scheme with | 1 => scaleOk scale | 2 => decide (1 ≤ scale) | _ => scale == 0)
    | 2 => comps == 1 && decide (1 ≤ limbs) && (fl == 0 || fl == 2) && acc == 0 && fld b 32 2 == 0 && fld b 34 2 == 0
        && zeroAt b 36 4 && zeroAt b 48 12
        && (match scheme with | 1 => scaleOk scale | 2 => decide (1 ≤ scale) | _ => scale == 0)
    | 3 =>
      let kk := fld b 36 1
      let aux := fld b 48 4
      let gadget := decide (1 ≤ gadgetLen aux ∧ gadgetLen aux ≤ 16 ∧ 1 ≤ gadgetLog aux ∧ gadgetLog aux ≤ 30)
      scale == 0 && acc != 0 && fld b 32 2 != 0 && fld b 34 2 == 0 && zeroAt b 37 1 && decide (1 ≤ kk ∧ kk ≤ 5)
        && comps == (if kk = kLweks then 1 else 2) && (hybrid kk || limbs == 1)
        && !fl.testBit 0 && decide (fl < 8) && (!fl.testBit 2 || kk != kLweks)
        && (if kk = kSwitch then fld b 52 8 != 0 else fld b 52 8 == 0)
        && (if kk = kGalois then aux % 2 == 1 && decide (3 ≤ aux) else if kk = kBoot then gadget && bits aux 16 16 == 0
            else if kk = kLweks then gadget && decide (12 ≤ bits aux 16 8 ∧ bits aux 16 8 ≤ 17) && bits aux 24 8 == 0 else aux == 0)
    | 4 => limbs == 1 && comps == 1 && fl == 0 && scale == 0 && acc != 0 && zeroAt b 38 2 && zeroAt b 52 8 && fld b 48 4 != 0
    | 5 =>
      let role := fld b 36 1
      share && fl == 0 && scale == 0 && acc != 0 && fld b 34 2 == 0 && decide (1 ≤ role ∧ role ≤ 4) && comps == roleComps role
        && zeroAt b 39 1 && zeroAt b 52 8 && decide (1 ≤ fld b 48 4 ∧ fld b 48 4 ≤ 2 ^ 24)
        && (if scheme = 5 then decide (fld b 37 1 ≤ 32) && limbs == 1 && (fld b 38 1 == 0 || decide (21 ≤ fld b 38 1 ∧ fld b 38 1 ≤ 61))
            else fld b 37 1 == 0 && fld b 38 1 == 0 && fld b 32 2 == 0)
    | _ => false)
/-- Agreement of a header with its set (R37 step 3), which suits the image's kind (Table 3.1, R139, R175). The `limbs` and `SPLIT` of a key
image that differ from the set's are judged here, with PARAMETER_MISMATCH, although R80 also puts every constraint of Table 3.2 at step 2:
DESIGN CHOICE, log entry 75. -/
def headerSet (b : List Byte) (p : ParamSet) : Bool :=
  let limbs := fld b 13 1
  fld b 7 1 == p.scheme && fld b 12 1 == p.log2n && (fld b 15 1).testBit 1 == p.split
    && (match fld b 6 1 with
        | 1 | 2 => p.ring
        | 3 => if hybrid (fld b 36 1) then p.ring else p.scheme == 4
        | 4 => p.scheme == 4
        | _ => true)
    && (match fld b 6 1 with
        | 3 => limbs == (if hybrid (fld b 36 1) then p.L + p.K else 1)
        | 4 => limbs == 1
        | 5 => limbs == (if p.scheme = 5 then 1 else p.L)
        | _ => decide (1 ≤ limbs ∧ limbs ≤ p.L))
/-- Payload length of an image (R35, R81, R139, R148). -/
def payloadLen (b : List Byte) (p : ParamSet) : Nat :=
  let comp := wordsOf p.split (fld b 13 1) * p.n * 8
  match fld b 6 1 with
  | 1 => if (fld b 15 1).testBit 0 then comp + 64 else comp * fld b 14 1
  | 2 => comp
  | 3 =>
    let kk := fld b 36 1
    let seeded := (fld b 15 1).testBit 2
    let all := blockOrder p kk (fld b 48 4)
    let n := if seeded then all.countP (fun x => x.2.2 == 0) else all.length
    n * blockBytes p kk (fld b 48 4) + if seeded then 64 else 0
  | 4 => fld b 48 4 * (fld b 36 2 + 1) * 8
  | _ => fld b 14 1 * fld b 13 1 * fld b 48 4 * 8
/-- Constraints that need the set (R37 step 4, Table 3.2, R139). -/
def headerFits (b : List Byte) (p : ParamSet) : Bool :=
  let aux := fld b 48 4
  (p.scheme != 2 || !(fld b 6 1 == 1 || fld b 6 1 == 2) || decide (fld b 16 8 < p.t))
    && (match fld b 6 1 with
        | 3 => (hybrid (fld b 36 1) && p.K != 0 && (fld b 36 1 != kGalois || decide (aux < 2 * p.n)))
            || (!hybrid (fld b 36 1) && decide (gadgetLen aux * gadgetLog aux ≤ clog2 (p.prime 0)))
        | 4 => fld b 36 2 == p.lweN || fld b 36 2 == p.n
        | _ => true)
/-- A run of words is canonical for limb (or pair) i (R19, Table 1.4). -/
def wordsOk (p : ParamSet) (limbs i : Nat) (ws : List Byte) (fuel : Nat) : Bool :=
  match fuel with
  | 0 => true
  | f + 1 =>
    if ws.isEmpty then true else
    let w := leNat (ws.take 8)
    (if p.split then
       decide (w % 2 ^ 32 < p.prime (2 * i) ∧ w / 2 ^ 32 < (if 2 * i + 1 < limbs then p.prime (2 * i + 1) else 1))
     else decide (w < p.prime i)) && wordsOk p limbs i (ws.drop 8) f
/-- Components of unseeded limbs are canonical. -/
def compOk (p : ParamSet) (limbs n : Nat) (bs : List Byte) : Bool :=
  (List.range (wordsOf p.split limbs)).all (fun i => wordsOk p limbs i ((bs.drop (8 * n * i)).take (8 * n)) n)
/-- The whole payload is canonical, and 32 zero bytes follow every seed (R37 step 5, R81). -/
def payloadOk (b : List Byte) (p : ParamSet) : Bool :=
  let pay := b.drop 64
  let limbs := fld b 13 1
  let comp := wordsOf p.split limbs * p.n * 8
  match fld b 6 1 with
  | 1 =>
    let seeded := (fld b 15 1).testBit 0
    let k := if seeded then 1 else fld b 14 1
    (List.range k).all (fun i => compOk p limbs p.n ((pay.drop (i * comp)).take comp)) && (!seeded || zeroAt pay (comp + 32) 32)
  | 2 => compOk p limbs p.n pay
  | 3 =>
    let kk := fld b 36 1
    let aux := fld b 48 4
    let seeded := (fld b 15 1).testBit 2
    let off := if seeded then 64 else 0
    let bl := (blockOrder p kk aux).filter (fun x => !(seeded && x.2.2 == 1))
    let n := blockBytes p kk aux
    (!seeded || zeroAt pay 32 32) && bl.zipIdx.all (fun x =>
      wordsOk p (p.L + p.K) (if hybrid kk then x.1.2.1 else 0) ((pay.drop (off + n * x.2)).take n) (n / 8))
  | 4 => wordsOk p 1 0 pay (pay.length / 8)
  | _ => if p.scheme = 5 then true else
    (List.range (fld b 14 1)).all (fun i => compOk p limbs (fld b 48 4) (pay.drop (i * limbs * fld b 48 4 * 8)))

/-- ‖p‖∞ of a plaintext image from the centred residues of limb 0 (R105). -/
def limb0Norm (p : ParamSet) (b : List Byte) : Nat :=
  ((List.range p.n).map (fun k => (centre (p.prime 0) (unpack p.split 0 (fld b (64 + 8 * k) 8))).natAbs)).foldl max 0

/-- The card that a template and an image header make (R176, R207, R370), and the rules of its template. -/
def bindCard (t : Card) (b : List Byte) (p : ParamSet) (k : CardKind) : Card :=
  let limbs := fld b 13 1
  let per (l : Nat) : Nat := (fld b 14 1 * wordsOf p.split l + 0) * p.n * 8
  let cap := ((List.range (p.L + 1)).filter (fun l => decide (per l ≤ t.capacity))).foldl max 0
  let c : Card :=
    { t with
      kind := k, scheme := p.scheme, elem := elemFor k p, noise := fld b 32 2, floor := fld b 34 2, scale := fld b 16 8
      accession := fld b 24 8, polys := 1 }
  match k with
  | .ciphertext => { c with layout := .limb, level := limbs - 1, comps := fld b 14 1, limbs := cap
                            seed := if (fld b 15 1).testBit 0 then some ((b.drop (64 + wordsOf p.split limbs * p.n * 8)).take 32) else none }
  | .plaintext =>
    let nrm := limb0Norm p b
    { c with layout := .limb, level := limbs - 1, comps := 1, limbs := cap, floor := 0
             noise := if nrm = 0 then 0 else clampEst (256 * (p.log2n : Int) + log2Up nrm 1) }
  | .key => { c with
      layout := .bitrev, place := .extents, comps := fld b 14 1, limbs := limbs, keyKind := fld b 36 1, keyIndex := fld b 38 2
      aux := fld b 48 4, target := if fld b 36 1 = kSwitch then fld b 52 8 else fld b 24 8, seeded := (fld b 15 1).testBit 2 }
  | .lwe => { c with layout := .lwe, comps := 1, limbs := 0, count := fld b 48 4, lweDim := fld b 36 2 }
  | .share => { c with
      layout := .limb, comps := fld b 14 1, limbs := limbs, count := fld b 48 4, role := fld b 36 1, frac := fld b 37 1
      bound := fld b 38 1, triple := .fresh, secret := roleSecret (fld b 36 1) }
  | _ => c

/-- The fields that software supplies in a template (R370). -/
def templateOk (t : Card) (b : List Byte) (set : Nat) : Bool :=
  let base := { kind := t.kind, set := t.set, place := t.place, base := t.base, capacity := t.capacity, mode := t.mode, readers := t.readers
                wing := t.wing, fill := t.fill, elem := t.elem, layout := t.layout, comps := 0, polys := 0 : Card }
  let only := if t.kind == .key then { base with extents := t.extents, pages := t.pages } else { base with dims := List.replicate 4 0, pitch := List.replicate 4 0 }
  only.bytes == b && t.set == set && t.accessOk && (t.kind == .key || t.wing == 0)
/-- The template's `type` byte is 0 or what the module sets (R370). -/
def typeOk (b : List Byte) (c : Card) : Bool := fld b 2 1 == 0 || fld b 2 1 == c.elem.code + 16 * c.layout.code
/-- Key extents satisfy R85 for a key card at a handle. One over an open secret region, or over memory whose zero-fill runs, is refused too:
DESIGN CHOICE, log entry 76, since R85 does not speak of regions and R165 speaks only of opening one. -/
def State.extentsOk (s : State) (c h : Nat) (cd : Card) (p : ParamSet) : Bool :=
  let nb := (storedBlocks p cd).length
  let need := extentBytes p cd.keyKind cd.aux nb
  cd.base == 0 && cd.capacity == 0 && decide (cd.wing < 4) && (List.range 4).all (fun i =>
    let a := cd.extents.getD i 0
    let n := cd.pages.getD i 0 * 65536
    a % 65536 == 0 && decide (need ≤ n) && dpaStack a == 4 * cd.wing + i && decide (a < 2 ^ 40 ∧ a % 2 ^ 36 + n ≤ s.grade.stackBytes)
      && !s.hitsKey c h a n && !s.hitsCard c h a n (fun _ => true)
      && !s.secretHit a n)
/-- The header page of an extent (Table 3.4). -/
def headerPage (p : ParamSet) (cd : Card) (nb i : Nat) (seed : List Byte) : List Byte :=
  let h := leBytes 4 0x314B4C4F ++ [b8 cd.keyKind, b8 ((if cd.seeded then 1 else 0) + if p.split then 2 else 0)] ++ leBytes 2 cd.keyIndex
    ++ leBytes 4 cd.set ++ [b8 p.log2n, b8 i, b8 cd.limbs, 0] ++ leBytes 8 cd.accession ++ leBytes 8 cd.target ++ leBytes 4 cd.aux
    ++ leBytes 2 cd.noise
    ++ leBytes 2 (if hybrid cd.keyKind then p.dnum else if cd.keyKind = kBoot then p.lweN * 2 * gadgetLen cd.aux else 0)
    ++ leBytes 4 (blockBytes p cd.keyKind cd.aux) ++ leBytes 4 nb ++ zeros 4 ++ leBytes 4 (if cd.seeded then crc32c seed else 0) ++ zeros 4
  h ++ leBytes 4 (crc32c h) ++ (if cd.seeded then seed else zeros 32)
/-- A block's words after `nt.fwd` (R83): BITREV for hybrid kinds and BOOT. -/
def fwdBlock (p : ParamSet) (i : Nat) (bs : List Byte) : List Byte :=
  let ws := (List.range p.n).map (fun k => fld bs (8 * k) 8)
  if p.split then
    let lo := nttFwd (p.prime (2 * i)) p.log2n (ws.map (· % 2 ^ 32))
    let hi := if 2 * i + 1 < p.L + p.K then nttFwd (p.prime (2 * i + 1)) p.log2n (ws.map (· / 2 ^ 32)) else []
    lo.zipIdx.flatMap (fun x => leBytes 8 (x.1 + hi.getD x.2 0 * 2 ^ 32))
  else (nttFwd (p.prime i) p.log2n ws).flatMap (leBytes 8)
/-- The stored form of a key is written into its extents (R83, R85). -/
def State.storeKey (s : State) (cd : Card) (p : ParamSet) (b : List Byte) : State :=
  let pay := b.drop 64
  let n := blockBytes p cd.keyKind cd.aux
  let off := if cd.seeded then 64 else 0
  let bl := storedBlocks p cd
  let s1 := (List.range 4).foldl (fun s i =>
    s.write (cd.extents.getD i 0) (fit 65536 (headerPage p cd bl.length i (pay.take 32)))) s
  bl.zipIdx.foldl (fun s x =>
    let bs := (pay.drop (off + n * x.2)).take n
    s.write (blockAddr p cd x.2) (if cd.keyKind = kLweks then bs else fwdBlock p (if hybrid cd.keyKind then x.1.2.1 else 0) bs)) s1
/-- An image's content is laid out in the card's storage (R176): LIMB order, seeded c1 left for its first read. -/
def State.storeImage (s : State) (cd : Card) (p : ParamSet) (b : List Byte) : State :=
  let pay := b.drop 64
  match cd.kind with
  | .key => s.storeKey cd p b
  | .ciphertext | .plaintext =>
    let comp := wordsOf p.split (cd.level + 1) * p.n * 8
    let k := if cd.seed.isSome then 1 else cd.comps
    (List.range k).foldl (fun s i => s.write (cd.base + i * cd.compBytes p) ((pay.drop (i * comp)).take comp)) s
  | _ => s.write cd.base pay

/-- A binding: the card, or the status that refuses it (R37, R80, R83, R85, R139, R148, R149, R176, R370). `len` is the length
the command gives, `tb` the template's bytes, `prot` a protected transfer. A template that names another set than its image is refused with
PARAMETER_MISMATCH, as at step 3 of R37: DESIGN CHOICE, log entry 77, since no rule names the status. -/
def State.binding (s : State) (c h : Nat) (tb b : List Byte) (len : Nat) (prot : Bool) : Except Status (Card × ParamSet) :=
  match Card.parse (if fld tb 2 1 = 0 then splice tb 2 [0] else tb), imageKind (fld b 6 1) with
  | some t, some k =>
    let set := fld b 8 4
    let role := fld b 36 1
    if tb.length ≠ 128 ∨ !templateOk t tb t.set ∨ fld b 0 4 ≠ imageMagic ∨ fld b 4 2 ≠ 0x0100 ∨ crc32c (b.take 60) ≠ fld b 60 4
        ∨ !headerOk b ∨ t.kind ≠ k ∨ (k = .share ∧ roleSecret role ∧ !prot) ∨ 65536 ≤ h then .error .badParameter
    else match s.pset c set with
      | none => .error .parameterMismatch
      | some p =>
        if !headerSet b p ∨ t.set ≠ set then .error .parameterMismatch
        else
          let cd := bindCard t b p k
          let place := if k = .key then s.extentsOk c h cd p
            else s.placeOk c h cd cd.secret && decide (cd.span p ≤ cd.capacity ∧ cd.base % 8 = 0)
              && (!(k == .ciphertext || k == .plaintext) || decide (fld b 13 1 ≤ cd.limbs))
          if !headerFits b p ∨ fld b 40 8 ≠ payloadLen b p ∨ len ≠ 64 + payloadLen b p ∨ !typeOk tb cd ∨ !place ∨ !fillOk (some p) cd
              ∨ !payloadOk b p then .error .badParameter
          else .ok (cd, p)
  | _, _ => .error .badParameter

/-- The manifest admits a key image (R394). -/
def Manifest.admits (m : Manifest) (b : List Byte) : Bool :=
  m.entries.any (fun e => e.accession == fld b 24 8 && e.kind == fld b 36 1 && e.index == fld b 38 2 && e.aux == fld b 48 4
    && e.digest == shake256 b 32)

/-- CARD_BIND (R176, R177, R394): the image lies in device memory. -/
def cmdCardBind (m : Mbx) (handle image len : Nat) (s : State) : State :=
  s.runCmd m { op := 0x0302, buf := true } fun _ c s =>
    match s.inBuf m 128 with
    | .error e => refuse s e
    | .ok tb =>
      if image + max 64 len ≤ 2 ^ 40 ∧ !s.rangeReady image (max 64 len) then refuse s .notReady
      else if (s.deny c image (max 64 len)).isSome then refuse (s.countForeign c image (max 64 len)) .addressFault
      else if s.poisoned image (max 64 len) then refuse s .uncorrectableMemory
      else
        let b := s.bytes image len
        match s.binding c handle tb b len false with
        | .error e => refuse s e
        | .ok (cd, p) =>
          if !s.cardReady cd then refuse s .notReady
          else if cd.kind = .key ∧ ((s.ctx c).manifest.any (fun x => !x.admits b)) = true then refuse s .signatureInvalid
          else if s.handleBusy c handle then refuse s .busy
          else if s.foreign c cd.base cd.capacity then refuse (s.count 2 1) .addressFault
          else .done .ok [] ((s.storeImage cd p b).setCard c handle cd)
def execCardBind (m : Mbx) (handle image len : Nat) (s : State) : Res := act s (cmdCardBind m handle image len)

/-- The image of a card (R39, R139, R148): header and unseeded payload. -/
def imageOf (cd : Card) (p : ParamSet) (pay : List Byte) : List Byte :=
  let kind := match cd.kind with | .ciphertext => 1 | .plaintext => 2 | .lwe => 4 | _ => 5
  let ring := cd.kind == .ciphertext || cd.kind == .plaintext
  let ct := cd.kind != .plaintext
  let mid : List Byte := match cd.kind with
    | .lwe => leBytes 2 cd.lweDim ++ zeros 2
    | .share => [b8 cd.role, b8 cd.frac, b8 cd.bound, 0]
    | _ => zeros 4
  let h := leBytes 4 imageMagic ++ leBytes 2 0x0100 ++ [b8 kind, b8 p.scheme] ++ leBytes 4 cd.set
    ++ [b8 p.log2n, b8 (if ring then cd.level + 1 else if cd.kind == .lwe then 1 else cd.limbs), b8 cd.comps, b8 (if ring && p.split then 2 else 0)]
    ++ leBytes 8 (if ring then cd.scale else 0) ++ leBytes 8 (if ct then cd.accession else 0)
    ++ leBytes 2 (if ct then cd.noise else 0) ++ leBytes 2 (if ct && cd.kind != .share then cd.floor else 0) ++ mid
    ++ leBytes 8 pay.length ++ leBytes 4 (if ring then 0 else cd.count) ++ zeros 8
  h ++ leBytes 4 (crc32c h) ++ pay

/-- A seeded c1 is expanded into its storage when it is first read (R36, R37). -/
def seedLimb (p : ParamSet) (seed : List Byte) (i : Nat) : List Nat :=
  let q := p.prime i
  expandWords (4 * p.n) q p.n (shake256 (seed ++ ascii "OLT-C" ++ leBytes 2 i) (32 * p.n))
def State.expandSeed (s : State) (c h : Nat) : State :=
  match s.card c h with
  | some cd =>
    match cd.seed, s.pset c cd.set with
    | some sd, some p =>
      let limbs := (List.range (cd.level + 1)).map (fun i => seedLimb p sd i)
      if (s.canAll c cd.base (cd.ranges p 0 1 (cd.level + 1))).isOk = false then s
      else (s.putComponent cd p 0 1 limbs).setCard c h { cd with seed := none }
    | _, _ => s
  | none => s

/-- CARD_EXPORT (R39, R84, R139, R149, R207). -/
def cmdCardExport (m : Mbx) (handle dst cap : Nat) (s : State) : State :=
  s.runCmd m { op := 0x0303 } fun _ c s0 =>
    let s := s0.expandSeed c handle
    match s.card c handle with
    | none => refuse s0 .badParameter
    | some cd =>
      let p := (s.pset c cd.set).getD noSet
      let ring := cd.kind == .ciphertext || cd.kind == .plaintext
      let comp := if ring then wordsOf p.split (cd.level + 1) * p.n * 8 else if cd.kind == .lwe then cd.span p else cd.compBytes p
      let n := cd.comps * comp
      if !(ring || cd.kind == .lwe || cd.kind == .share) ∨ (cd.kind = .share ∧ roleSecret cd.role) ∨ cd.secret
          ∨ (ring ∧ cd.layout ≠ .limb) ∨ (ring ∧ p.scheme = 1 ∧ !scaleOk cd.scale) ∨ (cd.kind = .plaintext ∧ 1 < cd.polys)
          ∨ cap < 64 + n then refuse s0 .badParameter
      else if !s.cardReady cd ∨ (dst + 64 + n ≤ 2 ^ 40 ∧ !s.rangeReady dst (64 + n)) then refuse s0 .notReady
      else if cd.poison then refuse s0 .poisonedInput
      else if 2 ^ 40 ≤ dst + 64 + n ∨ (s.deny c dst (64 + n)).isSome ∨ s.secretHit dst (64 + n) then
        refuse (s0.countForeign c dst (64 + n)) .addressFault
      else
        match (List.range cd.comps).mapM (fun i => s.get c cd.base (cd.base + i * cd.compBytes p) comp) with
        | .error e => refuse s0 e.1
        | .ok bs => .done .ok (leBytes 8 (64 + n)) (s.outWrite dst (imageOf cd p bs.flatten))
def execCardExport (m : Mbx) (handle dst cap : Nat) (s : State) : Res := act s (cmdCardExport m handle dst cap)

/-! Sealed images -/

/-- A refused segment discards the image's earlier segments (R392). -/
def State.dropPart (s : State) (c : Nat) : State :=
  s.setCtx c { s.ctx c with session := (s.ctx c).session.map (fun z => { z with part := none }) }

/-- CARD_BIND_SESSION (R391, R392): one sealed segment. -/
def cmdCardBindSession (m : Mbx) (handle : Nat) (s : State) : State :=
  s.runCmd m { op := 0x0106, owner := false, ctx := .own, buf := true } fun _ c s =>
    if !s.hex.rdyKeeper ∨ !s.hex.trng then refuse s .notReady else
    match s.anyBuf m, (s.ctx c).session with
    | .error e, _ => refuse s e
    | .ok _, none => refuse s .notReady
    | .ok b, some z =>
      let s0 := s.dropPart c
      let part := z.part.filter (fun p => p.handle == handle)
      let got := ((part.map (fun p => p.data)).getD []).length
      let seq := fld b 8 8
      if b.length < 48 ∨ fld b 0 4 ≠ 0x315A4C4F ∨ 2 ≤ fld b 4 4 ∨ seq ≤ z.lastSeq ∨ fld b 16 8 ≠ got
          ∨ (part.any (fun p => p.total != fld b 24 8)) = true ∨ 65536 ≤ handle then .done .badParameter [] s0
      else match gcmOpen z.sealKey (zeros 4 ++ leBytes 8 seq) (b.take 32 ++ [b8 c] ++ leBytes 2 handle)
          ((b.drop 32).take (b.length - 48)) (b.drop (b.length - 16)) with
        | none => .done .cryptoFail [] s0
        | some pt =>
          let data := ((part.map (fun p => p.data)).getD []) ++ pt
          let s1 := s.setCtx c { s.ctx c with session := some { z with lastSeq := seq, part := some { handle := handle, total := fld b 24 8, data := data } } }
          let free := s1.dropPart c
          let t := Card.parse (data.take 128)
          let early := part.isNone && (t.isNone || (match t with
            | some cd => !templateOk cd (data.take 128) cd.set || (cd.kind != .key && !s.placeOk c handle cd (cd.kind == .share))
            | none => true))
          if data.length < 128 ∨ fld b 24 8 < data.length ∨ early then .done .badParameter [] free
          else if part.isNone ∧ s0.handleBusy c handle then .done .busy [] free
          else if (fld b 4 4).testBit 0 then
            if data.length ≠ fld b 24 8 then .done .badParameter [] free
            else match free.binding c handle (data.take 128) (data.drop 128) (data.length - 128) true with
              | .error e => .done e [] free
              | .ok (cd, p) =>
                if cd.kind = .key ∧ ((s.ctx c).manifest.any (fun x => !x.admits (data.drop 128))) = true then .done .signatureInvalid [] free
                else if s.foreign c cd.base cd.capacity then .done .addressFault [] (free.count 2 1)
                else .done .ok [] ((free.storeImage cd p (data.drop 128)).setCard c handle cd)
          else .done .ok [] s1
def execCardBindSession (m : Mbx) (handle : Nat) (s : State) : Res := act s (cmdCardBindSession m handle)

end Sys2Proof.Machine
end

