-- ==== Sys2Proof/Machine/Streams.lean ====
section
/-! DEFINITION. Streams and folios (R180 to R184), the decoding of stream commands (R185 to R193), the front commands (R190 to
R193, R251, R254), waits (R194, R251) and the window (R195, R196). -/

namespace Sys2Proof.Machine

/-! Starting and extending -/

/-- Streams of a wing, of every context. -/
def State.streamsOn (s : State) (w : Nat) : Nat := (s.ctxs.map (fun c => c.2.streams.countP (fun t => t.2.wing == w))).sum
/-- A context has a broken barrier (R262). -/
def State.broken (s : State) (c : Nat) : Bool := (s.ctx c).sync.any (fun v => v.2.broken)

/-- The stack of a folio is READY (R405). -/
def State.folioReady (s : State) (folio : Nat) : Bool := decide (2 ^ 40 ≤ folio) || (s.stk (dpaStack folio)).ready
/-- STREAM_START (R180, R262, R272, R405). -/
def cmdStreamStart (m : Mbx) (wing folio seq : Nat) (s : State) : State :=
  s.runCmd m { op := 0x0401 } fun _ c s =>
    let x := s.ctx c
    if 4 ≤ wing then refuse s .badParameter
    else if !(s.wing wing).ready ∨ !s.folioReady folio ∨ s.broken c ∨ (s.group wing c).isEmpty then refuse s .notReady
    else
      match (List.range 64).find? (fun n => (x.streams.get n).isNone) with
      | none => refuse s .resourceExhausted
      | some n =>
        if 64 ≤ s.streamsOn wing ∨ 16 ≤ x.streams.countP (fun t => t.2.wing == wing) then refuse s .resourceExhausted
        else
          let t : Stream := { wing := wing, port := m.port, epoch := (s.mb (portIx m.port)).epoch, folio := folio, seq := BitVec.ofNat 32 seq }
          .done .ok [b8 n] (s.setCtx c { x with streams := x.streams.put n t })
def execStreamStart (m : Mbx) (wing folio seq : Nat) (s : State) : Res := act s (cmdStreamStart m wing folio seq)

/-- STREAM_EXTEND (R182): a parked stream resumes at the folio named. -/
def cmdStreamExtend (m : Mbx) (stream folio : Nat) (s : State) : State :=
  s.runCmd m { op := 0x0402 } fun _ c s =>
    match s.stream c stream with
    | none => refuse s .badParameter
    | some x =>
      if x.state ≠ .parked then refuse s .busy
      else if !(s.wing x.wing).ready ∨ !s.folioReady folio then refuse s .notReady
      else .done .ok [] (s.setStream c stream { x with
        state := .running, folio := folio, seq := x.seq + 1, ord := x.ord + 1, slot := 0, loaded := false })
def execStreamExtend (m : Mbx) (stream folio : Nat) (s : State) : Res := act s (cmdStreamExtend m stream folio)

/-! Folios -/

/-- Trailer fields (Table 7.5). -/
def State.trailerNum (s : State) (x : Stream) (off len : Nat) : Nat := s.num (x.folio + off) len
/-- Commands of the current folio. -/
def State.folioCount (s : State) (x : Stream) : Nat := s.trailerNum x 4036 1

/-- Releases whose folio precedes every open loop are delivered (R183). -/
def State.flushReleases (s : State) (c n : Nat) : State :=
  match s.stream c n with
  | none => s
  | some x =>
    let ok (r : Nat × Nat × Nat) : Bool := x.loops.all (fun l => decide (r.1 < l.beginOrd))
    let s1 := s.setStream c n { x with releases := x.releases.filter (fun r => !ok r) }
    (x.releases.filter ok).foldl (fun s r => s.update c r.2.1 false (BitVec.ofNat 64 r.2.2)) s1

/-- After a folio's last command the front follows its trailer (R182, R183). -/
def State.trailer (s : State) (c n : Nat) : State :=
  match s.stream c n with
  | none => s
  | some x =>
    if x.state ≠ .running ∨ !x.loaded ∨ x.slot < s.folioCount x then s else
    let fl := s.trailerNum x 4037 1
    let next := s.trailerNum x 4040 8
    let x1 := if fl.testBit 2 && decide (x.released ≤ x.ord) then
      { x with releases := x.releases ++ [(x.ord, s.trailerNum x 4038 2 % 4096, s.trailerNum x 4048 4)], released := x.ord + 1 }
      else { x with released := max x.released (x.ord + 1) }
    let s1 := (s.setStream c n x1).flushReleases c n
    match s1.stream c n with
    | none => s1
    | some x2 =>
      if next ≠ 0 ∧ fl.testBit 0 then s1.stopStream c n .badCommand
      else if next ≠ 0 then
        -- one of the folios kept is not fetched again, when it is the one that follows
        s1.setStream c n { x2 with
          folio := next, seq := x2.seq + 1, ord := x2.ord + 1, slot := 0
          loaded := x2.kept.contains next && s1.num (next + 4052) 4 == (x2.seq + 1).toNat }
      else if fl.testBit 0 then
        if x2.loops.isEmpty ∧ x2.skip = 0 then (s1.setStream c n { x2 with state := .draining }).endStream c n
        else s1.stopStream c n .badCommand
      else s1.setStream c n { x2 with state := .parked }

/-- Why a folio fetch fails (R181, R184), or none. -/
def State.folioFault (s : State) (c : Nat) (x : Stream) (chk : Check) : Option Status :=
  let a := x.folio
  let b := s.bytes a 4096
  if a % 4096 ≠ 0 ∨ 2 ^ 40 ≤ a then some .addressFault
  else match s.reach a 4096 with
    | some e => some e
    | none =>
      if s.foreign c a 4096 || s.secretHit a 4096 then some .addressFault
      else if s.poisoned a 4096 then some .uncorrectableMemory
      else if chk = .fail then some .integrityFault
      else if fld b 4032 4 ≠ 0x31464C4F ∨ 8 ≤ fld b 4037 1 ∨ 4096 ≤ fld b 4038 2 ∨ !zeroAt b 4056 36 ∨ 63 < fld b 4036 1
          ∨ fld b 4052 4 ≠ x.seq.toNat then some .badCommand
      else if (fld b 4037 1).testBit 1 ∧ crc32c (b.take 4092) ≠ fld b 4092 4 then some .integrityFault
      else none

/-- FOLIO_FETCH (R183, R184, R449): the front fetches and checks the folio it needs; a failed check has one retry. -/
def execFolioFetch (c n : Nat) (chk : Check) (s : State) : Res :=
  act s fun s =>
    match s.stream c n with
    | none => s
    | some x =>
      if x.state ≠ .running ∨ x.loaded ∨ (s.wing x.wing).drained then s
      else
        let s := s.checked x.wing x.folio chk
        match s.folioFault c x chk with
        | some e => (if s.foreign c x.folio 4096 then s.count 2 1 else s).stopStream c n e
        | none => (s.setStream c n { x with loaded := true, kept := (x.folio :: x.kept.filter (· != x.folio)).take 4 }).trailer c n

/-! Decoding -/

/-- Opcodes of Table 7.9. -/
def frontOp (op : Nat) : Bool := decide (1 ≤ op ∧ op ≤ 5) || op == 0x010 || op == 0x011
def knownOp (op : Nat) : Bool := frontOp op || op == 0x012 || bayOp op || op == 0x111 || op == 0x502 || op == 0x600

/-- A stream command as its 64 bytes spell it (Table 7.7), its handles as given. -/
def parseCmd (b : List Byte) : SCmd :=
  let op := fld b 0 2
  let fl := fld b 2 2
  let w := fld b 4 2
  { op := op % 4096, predIdx := bits op 12 3, predSense := op.testBit 15, pred := fl.testBit 0, complete := fl.testBit 1
    wait := fl.testBit 2, signal := fl.testBit 3, fence := fl.testBit 4, halt := fl.testBit 5, layer := fl.testBit 6, nopad := fl.testBit 7
    waitId := w % 4096, waitCond := bits w 12 3, waitValue := BitVec.ofNat 64 (fld b 8 8), sigId := fld b 6 2 % 4096, delta := fld b 16 4
    h := (List.range 4).map (fun j => if fl.testBit (8 + j) then some (fld b (24 + 2 * j) 2) else none)
    imm := fld b 32 16, tag := fld b 48 2, idxCnt := fld b 50 1 % 16, idxMask := fld b 50 1 / 16 }

/-- The command has no handle. -/
def noHandles (cmd : SCmd) : Bool := cmd.h.all (·.isNone)
/-- The reserved bits of the fields that R189 step 1 checks are 0 (Table 7.7). -/
def headClear (b : List Byte) : Bool := decide (fld b 2 2 < 4096 ∧ fld b 4 2 / 2 ^ 15 = 0 ∧ fld b 6 2 / 2 ^ 12 = 0)
/-- The reserved bytes and the fields of absent handles are 0 (R10, R186). -/
def restClear (b : List Byte) (cmd : SCmd) : Bool :=
  zeroAt b 20 4 && zeroAt b 51 13 && (List.range 4).all (fun j => (cmd.h.getD j none).isSome || fld b (24 + 2 * j) 2 == 0)
/-- A `loop.end` holds nothing but its opcode (R191, R193). -/
def plainEnd (cmd : SCmd) : Bool :=
  !cmd.pred && cmd.predIdx == 0 && !cmd.predSense && !cmd.wait && cmd.waitId == 0 && cmd.waitCond == 0 && cmd.waitValue == 0
    && !cmd.complete && cmd.sigId == 0 && cmd.delta == 0 && noHandles cmd && cmd.imm == 0 && cmd.tag == 0 && cmd.idxCnt == 0
    && cmd.idxMask == 0
/-- The encoding checks of R189 step 1 (R10, R185, R187, R188, R242, R252, R254): the status that refuses the command, and whether
the refusal stops the stream. `head`: the reserved bits of those fields are 0. -/
def State.encodingFault (s : State) (c w : Nat) (head : Bool) (cmd : SCmd) : Option (Status × Bool) :=
  let x := s.ctx c
  let bad : Option (Status × Bool) := some (.badParameter, false)
  if !knownOp cmd.op then some (.badCommand, false)
  else if !head ∨ (!cmd.pred ∧ (cmd.predIdx ≠ 0 ∨ cmd.predSense)) then bad
  else if !cmd.wait ∧ (cmd.waitId ≠ 0 ∨ cmd.waitCond ≠ 0 ∨ cmd.waitValue ≠ 0) then bad
  else if !cmd.signal ∧ (cmd.sigId ≠ 0 ∨ cmd.delta ≠ 0) then bad
  else if cmd.layer ∧ frontOp cmd.op then some (.badCommand, false)
  else if (List.range 4).any (fun j => cmd.idxMask.testBit j && (cmd.h.getD j none).isNone) then bad
  else if cmd.wait ∧ (cmd.waitCond = 7 ∨ (x.sync.get cmd.waitId).isNone) then some (.badParameter, true)
  else if cmd.signal ∧ !s.attached c w cmd ∧ (match x.sync.get cmd.sigId with | some v => v.kind ≠ 0 | none => true) = true then
    some (.badParameter, true)
  else none

/-- Handles resolved at decode (R187). -/
def resolve (cmd : SCmd) (cnt : W64) : SCmd :=
  { cmd with h := cmd.h.zipIdx.map (fun p => p.1.map (fun v => if cmd.idxMask.testBit p.2 then (v + cnt.toNat) % 65536 else v)) }

/-- A run of handles. -/
def runFrom (h : Option Nat) (n : Nat) : List Nat := match h with | some v => (List.range n).map (· + v) | none => []
/-- log2 N of the set of the card at handle 2, for the key run of `lu.pack` (R196). -/
def State.packRun (s : State) (c : Nat) (cmd : SCmd) : Nat :=
  match (cmd.h.getD 2 none).bind (fun h => s.card c h) with
  | some cd => match s.pset c cd.set with
    | some p => if p.scheme = 1 then p.log2n else 1
    | none => 1
  | none => 1
/-- Handles a command reads and writes (R196). -/
def State.uses (s : State) (c : Nat) (cmd : SCmd) : List Nat × List Nat :=
  let h (j : Nat) : Option Nat := cmd.h.getD j none
  let l (j : Nat) : List Nat := (h j).toList
  let ph := cmd.imm % 4
  match cmd.op with
  | 0x109 => let k := bits cmd.imm 0 5
             (l 0 ++ runFrom (h 3) k, runFrom (h 2) k)
  | 0x10E => (l 0 ++ l 1 ++ runFrom (h 3) (bits cmd.imm 0 8 + bits cmd.imm 8 8 - 2), l 2)
  | 0x202 => (l 0 ++ runFrom (h 1) (s.packRun c cmd) ++ l 3, l 2)
  | 0x300 => (l 0, l 2 ++ l 3)
  | 0x301 => (l 0 ++ l 1, l 2 ++ l 3)
  | 0x302 => (l 0 ++ l 1, l 2 ++ l 3)
  | 0x303 => if ph = 0 then (l 0, l 1 ++ l 2 ++ l 3) else if ph = 1 then (l 1, l 0 ++ l 2 ++ l 3) else (l 1, l 0 ++ l 2)
  | 0x304 => if ph = 0 then ([], l 0 ++ l 2) else (l 0 ++ l 1, l 2)
  | 0x502 => ([], [])
  | 0x600 => if ph = 0 then (l 0, l 2 ++ l 3) else if ph = 1 then (l 0 ++ l 2, []) else ([], l 2 ++ l 3)
  | 0x012 => ([], [])
  | _ => (l 0 ++ l 1 ++ l 3, l 2)
/-- A run passes the last handle (R187). -/
def runPast (u : List Nat × List Nat) : Bool := (u.1 ++ u.2).any (fun h => decide (65536 ≤ h))

/-! Front commands -/

/-- A front command's effect on its stream: the stream, or its refusal. -/
abbrev FrontRes := Except Status Stream
def Stream.cnt (x : Stream) (i : Nat) : W64 := x.cnts.getD i 0
def Stream.setCnt (x : Stream) (i : Nat) (v : W64) : Stream := { x with cnts := x.cnts.put i v }

/-- `cnt.set` (Table 7.10). -/
def frontCntSet (cmd : SCmd) (x : Stream) : FrontRes :=
  if !noHandles cmd ∨ bits cmd.imm 4 60 ≠ 0 then .error .badParameter
  else .ok (x.setCnt (cmd.imm % 16) (BitVec.ofNat 64 (cmd.imm / 2 ^ 64)))
/-- `cnt.add` (Table 7.10). -/
def frontCntAdd (cmd : SCmd) (x : Stream) : FrontRes :=
  let src := cmd.imm.testBit 4
  if !noHandles cmd ∨ bits cmd.imm 5 3 ≠ 0 ∨ bits cmd.imm 12 52 ≠ 0 ∨ (src ∧ cmd.imm / 2 ^ 64 ≠ 0) then .error .badParameter
  else .ok (x.setCnt (cmd.imm % 16) (x.cnt (cmd.imm % 16) + if src then x.cnt (bits cmd.imm 8 4) else BitVec.ofNat 64 (cmd.imm / 2 ^ 64)))
/-- The comparison of `cmp.set`, signed or unsigned. -/
def cmpHolds (cond : Nat) (signed : Bool) (a b : W64) : Bool :=
  let lt := if signed then decide (a.toInt < b.toInt) else decide (a < b)
  match cond with
  | 0 => a == b | 1 => a != b | 2 => lt | 3 => lt || a == b | 4 => !(lt || a == b) | _ => !lt
/-- `cmp.set` (Table 7.10). -/
def frontCmpSet (cmd : SCmd) (x : Stream) : FrontRes :=
  let i := cmd.imm
  let cntb := i.testBit 8
  if !noHandles cmd ∨ 6 ≤ bits i 4 3 ∨ bits i 9 2 = 3 ∨ i.testBit 11 ∨ bits i 19 45 ≠ 0 ∨ (cntb ∧ i / 2 ^ 64 ≠ 0) then .error .badParameter
  else
    let r := cmpHolds (bits i 4 3) (i.testBit 7) (x.cnt (i % 16)) (if cntb then x.cnt (bits i 12 4) else BitVec.ofNat 64 (i / 2 ^ 64))
    let f := bits i 16 3
    let old := x.flgs.testBit f
    let new := match bits i 9 2 with | 0 => r | 1 => old && r | _ => old || r
    .ok { x with flgs := bitmap 8 (fun j => if j = f then new else x.flgs.testBit j) }
/-- `loop.begin` (Table 7.11, R192, R193): the stream stands after it. -/
def frontLoopBegin (cmd : SCmd) (x : Stream) : FrontRes :=
  let i := cmd.imm
  let from_ := i.testBit 4
  let count := if from_ then (x.cnt (i % 16)).toNat else bits i 16 32
  let len := bits i 48 16
  if !noHandles cmd ∨ bits i 6 2 ≠ 0 ∨ bits i 12 4 ≠ 0 ∨ i / 2 ^ 64 ≠ 0 ∨ (from_ ∧ bits i 16 32 ≠ 0) ∨ len = 0 ∨ 2 ^ 32 ≤ count then
    .error .badParameter
  else if count = 0 then .ok { x with skip := len + 1 }
  else if 4 ≤ x.loops.length then .error .badCommand
  else
    let ix := if i.testBit 5 then some (bits i 8 4) else none
    let l : Loop :=
      { folio := x.folio, slot := x.slot, seq := x.seq, ord := x.ord, start := x.ix - 1, beginOrd := x.ord, len := len, left := count
        iter := 0, index := ix }
    let x1 := match ix with | some j => x.setCnt j 0 | none => x
    .ok { x1 with loops := l :: x1.loops }
/-- `loop.end` (R192, R193): at exit the index counter holds count − 1, whatever the body wrote. -/
def frontLoopEnd (cmd : SCmd) (x : Stream) : FrontRes :=
  match x.loops with
  | [] => .error .badCommand
  | l :: rest =>
    if x.ix - 1 ≠ l.start + l.len + 1 ∨ !plainEnd cmd then .error .badCommand
    else if l.left ≤ 1 then
      let x1 := match l.index with | some j => x.setCnt j (BitVec.ofNat 64 l.iter) | none => x
      .ok { x1 with loops := rest }
    else
      let l1 := { l with left := l.left - 1, iter := l.iter + 1 }
      let x1 := match l.index with | some j => x.setCnt j (BitVec.ofNat 64 (l.iter + 1)) | none => x
      .ok { x1 with
        loops := l1 :: rest, folio := l.folio, slot := l.slot, seq := l.seq, ord := l.ord, ix := l.start + 1
        loaded := x1.kept.contains l.folio }
/-- `sync.wait` (R251). -/
def frontSyncWait (cmd : SCmd) (x : Stream) : FrontRes :=
  if !noHandles cmd ∨ !cmd.wait ∨ cmd.imm ≠ 0 then .error .badParameter else .ok x
/-- `sync.signal` (R254): its operands. -/
def frontSyncSignal (cmd : SCmd) (x : Stream) : FrontRes :=
  let op := cmd.imm % 4
  if !noHandles cmd ∨ !cmd.signal ∨ 2 ≤ op ∨ bits cmd.imm 2 62 ≠ 0 ∨ (op = 0 ∧ cmd.imm / 2 ^ 64 ≠ 0) ∨ (op = 1 ∧ cmd.delta ≠ 0) then
    .error .badParameter else .ok x
/-- A front command by its opcode; the stream already stands after it. -/
def frontEffect (cmd : SCmd) (x : Stream) : FrontRes :=
  match cmd.op with
  | 1 => frontCntSet cmd x | 2 => frontCntAdd cmd x | 3 => frontCmpSet cmd x | 4 => frontLoopBegin cmd x
  | 5 => frontLoopEnd cmd x | 0x010 => frontSyncWait cmd x | _ => frontSyncSignal cmd x

/-- Iteration of the innermost open loop. -/
def Stream.iter (x : Stream) : Nat := (x.loops.head?.map (fun l => l.iter)).getD 0
/-- The signal a front command delivers at decode (R199, R254): SET by `sync.signal` in that mode, else an add. -/
def State.frontSignal (s : State) (c w : Nat) (cmd : SCmd) : State :=
  if cmd.op = 0x011 ∧ cmd.signal ∧ cmd.imm % 4 = 1 then s.update c cmd.sigId true (BitVec.ofNat 64 (cmd.imm / 2 ^ 64)) else s.signal c w cmd
/-- A command completes at the front: its signal unless its encoding was refused, its record, and what stops (R199, R200). -/
def State.frontDone (s : State) (c n iter : Nat) (cmd : SCmd) (st : Status) (sig stop : Bool) : State :=
  match s.stream c n with
  | none => s
  | some x =>
    let s0 := s.tallyWing x.wing 12
    let s1 := if sig then s0.frontSignal c x.wing cmd else s0
    let s2 := if cmd.complete || (st != .ok && st != .skipped) then s1.cmdRecord c n x cmd iter st {} none else s1
    if stop || (cmd.halt && st != .ok && st != .skipped) then s2.stopStream c n st else s2
/-- A front command executes at a stream that stands after it. -/
def State.runFront (s : State) (c n : Nat) (cmd : SCmd) : State :=
  match s.stream c n with
  | none => s
  | some x =>
    let loop := cmd.op == 4 || cmd.op == 5
    match frontEffect cmd x with
    | .error e => s.frontDone c n x.iter cmd e true loop
    | .ok x1 => ((s.setStream c n x1).frontDone c n x.iter cmd .ok true false).flushReleases c n

/-! The window -/

/-- Window entries of a context, and of a wing. -/
def Ctx.inWindows (x : Ctx) : Nat := (x.streams.map (fun t => t.2.window.length)).sum
/-- The window has room (R195). -/
def State.windowRoom (s : State) (c : Nat) (x : Stream) : Bool :=
  decide (x.window.length < 256) && decide ((s.ctx c).inWindows < 1024) && decide ((s.entriesOn x.wing).length < 1024)
/-- A work command enters the window (R195, R196, R242). -/
def State.enter (s : State) (c n : Nat) (cmd : SCmd) : State :=
  match s.stream c n with
  | none => s
  | some x =>
    let layer := if cmd.layer then x.layer + 1 else x.layer
    let prologue := (cmd.layer || x.prologue) && cmd.op == 0x502
    let u := s.uses c cmd
    let e : Entry := { cmd := cmd, iter := x.iter, layer := layer, prologue := prologue, reads := u.1, writes := u.2 }
    (s.setStream c n { x with window := x.window.put x.next e, next := x.next + 1, layer := layer, prologue := prologue }).enqueue c n

/-- The stream stands after the command it decodes. -/
def Stream.step (x : Stream) : Stream := { x with slot := x.slot + 1, ix := x.ix + 1, wait := none }

/-- A wait or signal spec names an ID whose home is lost (R248). -/
def State.lostSpec (s : State) (c w : Nat) (cmd : SCmd) : Bool :=
  (cmd.wait && s.lostId c cmd.waitId) || (cmd.signal && !s.attached c w cmd && s.lostId c cmd.sigId)
/-- One command goes through the steps of R189 at a stream. `head` and `rest`: its reserved bits are 0 in the fields of step 1, and
elsewhere. DESIGN CHOICE: what step 1 does not name, reserved bytes and the fields of absent handles, is judged with the handles at
step 4. Log entry 66. -/
def State.decodeCmd (s : State) (c n : Nat) (x : Stream) (cmd : SCmd) (head rest : Bool) : State :=
  let go := s.setStream c n x.step
  if cmd.op = 5 ∧ !(plainEnd cmd && head && rest) then go.frontDone c n x.iter cmd .badCommand false true else
  match s.encodingFault c x.wing head cmd with
  | some (st, stop) => go.frontDone c n x.iter cmd st false (stop || cmd.op == 4 || cmd.op == 5)
  | none =>
    if cmd.pred ∧ x.flgs.testBit cmd.predIdx = cmd.predSense then
      let go1 := if cmd.op = 4 then s.setStream c n { x.step with skip := bits cmd.imm 48 16 + 1 } else go
      go1.frontDone c n x.iter cmd .skipped false false
    else if s.lostSpec c x.wing cmd then s.stopStream c n .unitAbsent
    else
      let passed := (x.wait.map (fun w => w.reported)).getD false || !cmd.wait
      let holds := condHolds cmd.waitCond (s.syncValue c cmd.waitId) cmd.waitValue
      let reg (sat : Bool) : FrontWait := { id := cmd.waitId, cond := cmd.waitCond, value := cmd.waitValue, satisfied := sat, reported := sat }
      if !passed && !holds then s.setStream c n { x with wait := some (reg false) }
      else
        let held := if cmd.wait then s.setStream c n { x with wait := some (reg true) } else s
        let r := resolve cmd (x.cnt cmd.idxCnt)
        if !rest then go.frontDone c n x.iter cmd .badParameter true (cmd.op == 4)
        else if frontOp cmd.op then
          if cmd.fence && x.window.any (fun e => e.2.phase != .done) then held else go.runFront c n r
        else if runPast (s.uses c r) then go.frontDone c n x.iter r .badParameter true false
        else if !s.windowRoom c x then held
        else go.enter c n r
/-- The command at the front's place is decoded, or skipped with its loop's body (R192). -/
def State.decode (s : State) (c n : Nat) (x : Stream) : State :=
  let b := s.bytes (x.folio + 64 * x.slot) 64
  let cmd := parseCmd b
  if 0 < x.skip then s.setStream c n { x.step with skip := x.skip - 1 } else s.decodeCmd c n x cmd (headClear b) (restClear b cmd)
/-- A role of the Hexset is hosted and not on the move (R375): 0 the front, 1 + w the scheduler of wing w. -/
def State.hosted (s : State) (role : Nat) : Bool := !s.hex.moving.contains role && !s.hex.orphans.contains role
/-- The front of a stream may decode: running, its context, wing and scheduler at work, no wait outstanding (R189, R194, R375). -/
def State.frontOpen (s : State) (c : Nat) (x : Stream) : Bool :=
  x.state == .running && !(s.ctx c).wiping && !(s.wing x.wing).drained && s.hosted (1 + x.wing) && x.wait.all (fun w => w.reported)
/-- After a decode: a command that still stands at the front is not counted, and the trailer follows the last (R182). -/
def State.decoded (s : State) (c n : Nat) (x : Stream) : State :=
  (if (s.stream c n).any (fun y => y.ix == x.ix) then s else s.tallyWing x.wing 11).trailer c n

/-- STREAM_DECODE (R189, R194, R195): a running stream's next command; a stalled one stays as it is. -/
def execStreamDecode (c n : Nat) (s : State) : Res :=
  act s fun s =>
    match s.stream c n with
    | none => s
    | some x =>
      if !s.frontOpen c x ∨ !x.loaded then s
      else if s.folioCount x ≤ x.slot then s.trailer c n
      else (s.decode c n x).decoded c n x

/-- WAIT_SATISFIED (R250, R251): the home's report reaches the front, which proceeds with its command. -/
def execWaitSatisfied (c n : Nat) (s : State) : Res :=
  act s fun s =>
    match s.stream c n with
    | none => s
    | some x =>
      match x.wait with
      | some w => if w.satisfied then s.setStream c n { x with wait := some { w with reported := true } } else s
      | none => s

/-- A front command row: the front of an open stream that skips no loop's body takes the command through R189. -/
def State.frontRow (s : State) (c n op : Nat) (cmd : SCmd) : State :=
  match s.stream c n with
  | none => s
  | some x => if !s.frontOpen c x ∨ cmd.op ≠ op ∨ 0 < x.skip then s else (s.decodeCmd c n x cmd true true).decoded c n x

/-- CNT_SET (R190). -/
def execCntSet (c n : Nat) (cmd : SCmd) (s : State) : Res := act s fun s => s.frontRow c n 1 cmd
/-- CNT_ADD (R190). -/
def execCntAdd (c n : Nat) (cmd : SCmd) (s : State) : Res := act s fun s => s.frontRow c n 2 cmd
/-- CMP_SET (R190). -/
def execCmpSet (c n : Nat) (cmd : SCmd) (s : State) : Res := act s fun s => s.frontRow c n 3 cmd
/-- LOOP_BEGIN (R191, R192). -/
def execLoopBegin (c n : Nat) (cmd : SCmd) (s : State) : Res := act s fun s => s.frontRow c n 4 cmd
/-- LOOP_END (R192, R193). -/
def execLoopEnd (c n : Nat) (cmd : SCmd) (s : State) : Res := act s fun s => s.frontRow c n 5 cmd
/-- SYNC_WAIT (R251): with its condition met it completes; else the wait is registered. -/
def execSyncWait (c n : Nat) (cmd : SCmd) (s : State) : Res := act s fun s => s.frontRow c n 0x010 cmd
/-- SYNC_SIGNAL_ADD (R254); the reserved operations are refused in this row too. -/
def execSyncSignalAdd (c n : Nat) (cmd : SCmd) (s : State) : Res :=
  act s fun s => if cmd.imm % 4 = 1 then s else s.frontRow c n 0x011 cmd
/-- SYNC_SIGNAL_SET (R254). -/
def execSyncSignalSet (c n : Nat) (cmd : SCmd) (s : State) : Res :=
  act s fun s => if cmd.imm % 4 = 1 then s.frontRow c n 0x011 cmd else s

end Sys2Proof.Machine
end

