-- ==== Sys2Proof/Machine/Issue.lean ====
section
/-! DEFINITION. Issue: the order of the checks of Table 4.6, the bookkeeping a command sets (R99), the exhaustion tests (R107), and
the noise terms (R101 to R106). -/

namespace Sys2Proof.Machine

/-- What a command that passes checks 1 to 5 does at issue: its destinations with their bookkeeping, the exhaustion or poison
that ends it there, its keys and the level of their passes. -/
structure Verdict where
  dests : List (Nat × Card) := []
  fate : Option Status := none
  keys : List Nat := []
  level : Nat := 0
  job : Option Job := none
  awaits : Bool := false
  /-- Cards that change at issue without being destinations: triples (R156). -/
  also : List (Nat × Card) := []

/-- The outcome of the checks. -/
abbrev Checked := Except Status Verdict
/-- A check of Table 4.6. -/
def need (b : Bool) (st : Status) : Except Status Unit := if b then .ok () else .error st
/-- The card at handle position j. -/
def State.opnd (s : State) (c : Nat) (e : Entry) (j : Nat) : Option Card := (e.cmd.h.getD j none).bind (fun h => s.card c h)
/-- An operand card with the bookkeeping that it had when the command issued (R99: an in-place destination takes the result's then). -/
def State.asIssued (s : State) (c : Nat) (e : Entry) (h : Nat) : Option Card :=
  (s.card c h).map (fun cd => match e.srcs.get h with
    | some o => { cd with level := o.level, comps := o.comps, scale := o.scale, raised := o.raised }
    | none => cd)
def State.operand (s : State) (c : Nat) (e : Entry) (j : Nat) : Option Card := (e.cmd.h.getD j none).bind (fun h => s.asIssued c e h)
def Entry.hnd (e : Entry) (j : Nat) : Nat := (e.cmd.h.getD j none).getD 0
def Entry.has (e : Entry) (j : Nat) : Bool := (e.cmd.h.getD j none).isSome
/-- The presence of the four handles. -/
def Entry.handles (e : Entry) (p : List Bool) : Bool := (List.range 4).map e.has == p
/-- A card's parameter set; CLEAR cards have none. -/
def State.psetOf (s : State) (c : Nat) (cd : Card) : ParamSet := (s.pset c cd.set).getD noSet

/-- A secret destination lies where it may (R164). -/
def State.secretOk (s : State) (c : Nat) (dst : Card) : Bool :=
  let n := max 1 dst.capacity
  s.inSecret c dst.base n || s.inBound c dst.base n
/-- A range of storage holds a number of components at the card's limb capacity (R99). -/
def Card.holds (d : Card) (p : ParamSet) (comps level : Nat) : Bool :=
  decide (level < d.limbs) && decide (comps * d.compBytes p ≤ d.capacity)

/-- Slot accesses of a card: every slot of its storage, in its mode (R64, R65). -/
def State.requestCard (s : State) (c n k : Nat) (cd : Card) (dst : Bool) : State :=
  let mode := if dst then (if cd.mode = 1 then 1 else 0) else (if cd.mode = 2 ∨ cd.mode = 3 then cd.mode else 0)
  if cd.place == .carrel && mode != 0 then
    (slotsOf cd.base (max 1 (s.storageOf c cd).2)).foldl (fun s q =>
      s.request q { mode := mode, n := cd.readers, secret := cd.secret, who := entryWho c n k }) s
  else s

/-- The window entry of a work row: it stands pulled, or queued with no bay left to pull it (R272, R197). -/
def State.issueReady (s : State) (c n k op : Nat) : Option (Stream × Entry × Option Status) :=
  match s.stream c n, s.entry c n k with
  | some x, some e =>
    if e.cmd.op ≠ op then none
    else if bayOp op then
      if e.phase = .pulled then some (x, e, none)
      else if e.phase = .queued ∧ s.group x.wing c = [] then
        some (x, e, some (if s.admitting x.wing c = [] then .notReady else .unitAbsent))
      else none
    else if e.phase = .waiting ∧ x.ready k e then
      some (x, e, if (op = 0x111 ∨ op = 0x012) ∧ s.group x.wing c = [] then some (if s.admitting x.wing c = [] then .notReady else .unitAbsent) else none)
    else none
  | _, _ => none

/-- The slots that a refresh which keeps its intermediates in carrels takes: room for three ciphertexts at level L − 1 (R134). -/
def State.carrelRoom (s : State) (c w : Nat) (j : Job) : List Nat :=
  match ((s.ctx c).plans.get j.plan).bind (fun p => s.pset c p.set) with
  | some q => if j.inCarrel then (s.boundFree w c).take (refreshSlots q) else []
  | none => []
/-- A command issues: refused, ended at issue with its destinations poisoned, or under way with its bookkeeping set (R99, R120,
Table 4.7). One whose refresh finds every scratch slot held waits (R133). -/
def State.issueAs (s : State) (c n k : Nat) (e : Entry) (r : Checked) : State :=
  match r with
  | .error st => s.finish c n k e st
  | .ok v =>
    if v.job.any (fun j => !j.inCarrel && ((s.ctx c).plans.get j.plan).any (fun p => decide (p.scratchSlots ≤ j.scratch))) then s else
    let set (poison : Bool) (s : State) : State :=
      let raised := v.job.isNone && e.reads.any (fun h => (s.card c h).any (fun x => x.raised))
      v.dests.foldl (fun s d => s.setCard c d.1 { d.2 with
        poison := d.2.poison || poison, raised := d.2.raised || raised, seed := none }) s
    match v.fate with
    | some st => (set true s).finish c n k e st
    | none =>
      let s0 := e.reads.foldl (fun s h => s.expandSeed c h) s
      let e1 := { e with phase := .issued, dests := v.dests.map (fun d => d.1), cards := [], keys := v.keys, level := v.level
                         job := v.job, awaits := v.awaits
                         srcs := e.reads.filterMap (fun h => (s.card c h).map (fun x => (h, x))) }
      let s1 := ((v.also.foldl (fun s d => s.setCard c d.1 d.2) (set false s0)).markPending c e true).setEntry c n k e1
      let s2 := e.reads.foldl (fun s h => match s.card c h with
        | some cd => if v.dests.any (fun d => d.1 == h) then s else s.requestCard c n k cd false
        | none => s) s1
      let s3 := v.dests.foldl (fun s d => s.requestCard c n k d.2 true) s2
      match s3.stream c n with
      | some x =>
        let room := (v.job.map (s3.carrelRoom c x.wing)).getD []
        let e2 := { e1 with work := room }
        (((s3.takeSlotsFor room (s3.holdsSecret c e)).unqueue x.wing c n k).startPieces x.wing c n k e2).wantPass x.wing c n k e2
      | none => s3

/-- A work row: the command of entry k, when it is of the row's opcode and variant, issues under its checks. -/
def State.issue (s : State) (c n k op : Nat) (variant : Nat → Bool) (chk : Stream → Entry → Checked) : State :=
  match s.issueReady c n k op with
  | some (x, e, early) =>
    if !variant e.cmd.imm then s
    else match early, chk x e with
      | some _, .error .badParameter => s.finish c n k e .badParameter
      | some st, _ => s.finish c n k e st
      | none, v => s.issueAs c n k e v
  | none => s

/-- Every immediate is of the row's variant. -/
def anyImm (_ : Nat) : Bool := true

/-! Noise terms (Table 4.3) -/

/-- c² = 2·(64·ln 2 + ln N) as a ratio. -/
def c2Num (n : Nat) : Nat := 2 * (64 + n) * ln2Num
def c2Den : Nat := ln2Den
def tE (worst : Bool) (n : Nat) : Int :=
  if worst then log2Up (2 ^ n) 2 else halfLogUp (c2Num n * 2 ^ n) (12 * c2Den)
def tR (worst : Bool) (n : Nat) : Int :=
  if worst then log2Up (2 ^ n + 4 ^ n) 2 else halfLogUp (c2Num n * (2 * 4 ^ n + 3 * 2 ^ n)) (36 * c2Den)
def tS (worst : Bool) (n : Nat) : Int :=
  if worst then 256 * n else halfLogUp (c2Num n * 2 * 2 ^ n) (3 * c2Den)
def tM (worst : Bool) (n t : Nat) : Int :=
  if worst then log2Up (2 ^ n * t) 2 else halfLogUp (c2Num n * t * t * 2 ^ n) (12 * c2Den)
/-- Q_max: the largest product of a digit's primes present at a level. -/
def ParamSet.qmax (p : ParamSet) (level : Nat) : Nat :=
  ((List.range (p.digits level)).map (fun d => prod ((p.digit level d).map p.prime))).foldl max 1
def tT (worst : Bool) (p : ParamSet) (level vk : Nat) : Int :=
  let d := p.digits level
  let q := p.qmax level
  let P := prod p.ps
  if worst then vk + log2Up (d * 4 ^ p.log2n * p.alpha * q) P
  else vk + halfLogUp (c2Num p.log2n * 4 ^ p.log2n * p.alpha ^ 2 * q ^ 2 * d) (c2Den * 3 * P ^ 2)
/-- log2 t, rounded up. -/
def ParamSet.logT (p : ParamSet) : Int := log2Up p.t 1
/-- R, or log2 t + R for BGV. -/
def ParamSet.rTerm (p : ParamSet) (worst : Bool) : Int :=
  if p.scheme = 2 then p.logT + tR worst p.log2n else tR worst p.log2n
/-- The key-switch term KS (below Table 4.3). -/
def tKS (worst : Bool) (p : ParamSet) (level vk : Nat) : Int := oplus (tT worst p level vk) (p.rTerm worst)
/-- ⌊log2 Q_ℓ⌋ in whole bits, in 1/256. -/
def ParamSet.logQ (p : ParamSet) (level : Nat) : Int := 256 * Nat.log2 (prod (p.qs.take (level + 1)))

/-- The capacity test of a CKKS result at a level and scale under a message bound (Table 4.5, R98). -/
def capBad (p : ParamSet) (bm level scale : Nat) : Bool :=
  !fisFinite fp64 scale || decide (p.logQ level < scaleBits true scale + bm + 256)
/-- The capacity and precision tests hold (Table 4.5), for a result card of a ring set. -/
def capFails (x : Ctx) (p : ParamSet) (d : Card) : Bool := p.scheme == 1 && capBad p x.bm d.level d.scale
def precFails (p : ParamSet) (d : Card) : Bool :=
  !d.raised && (match p.scheme with
    | 1 => decide (scaleBits false d.scale - d.floor < (d.noise : Int))
    | 2 => decide (p.logQ d.level - 256 - d.floor < (d.noise : Int))
    | _ => decide (p.logQ d.level - 256 * clog2 p.t - 256 - d.floor < (d.noise : Int)))

/-! The homomorphic frame -/

/-- What a homomorphic command computes of its operands' bookkeeping: its destinations, whether a source is poisoned, the capacity
and precision outcomes, and its keys. -/
structure HeOut where
  dests : List (Nat × Card)
  poisoned : Bool
  cap : Bool
  prec : Bool
  /-- The wrap test of `sh.split` holds (R154). -/
  wrap : Bool := false
  keys : List Nat := []
  level : Nat := 0

/-- A result card (R99): the destination with the bookkeeping the command sets. -/
def result (dst : Card) (srcs : List Card) (level comps scale noise accession : Nat) : Card :=
  { dst with
    level := level, comps := comps, scale := scale, noise := noise, accession := accession
    floor := ((srcs.filter (fun x => x.kind == .ciphertext)).map (fun x => x.floor)).foldl max 0
    secret := srcs.any (fun x => x.secret), raised := srcs.any (fun x => x.raised) }

/-- A ciphertext operand: its card and set (R95, R96). -/
def State.ctArg (s : State) (c : Nat) (o : Option Card) (schemes : List Nat) : Except Status (Card × ParamSet) :=
  match o with
  | some cd =>
    let p := s.psetOf c cd
    if cd.kind == .ciphertext && cd.layout == .bitrev && schemes.contains p.scheme then .ok (cd, p) else .error .badParameter
  | none => .error .badParameter
/-- A ciphertext destination (R96, R99). -/
def State.ctDst (s : State) (c : Nat) (o : Option Card) (p : ParamSet) (comps level : Nat) (secret : Bool) : Except Status Card :=
  match o with
  | some d =>
    if d.kind == .ciphertext && d.layout == .bitrev && d.holds p comps level && (!secret || s.secretOk c d) then .ok d else .error .badParameter
  | none => .error .badParameter
/-- A key operand: its kind and home wing (check 1), whatever its other checks say (R88, R95). -/
def State.keyArg (s : State) (c w : Nat) (h : Option Nat) (kinds : Nat → Bool) : Except Status Card :=
  match h.bind (fun x => s.card c x) with
  | some k => if k.kind == .key && kinds k.keyKind && (k.wing == w || (s.wing k.wing).lost) then .ok k else .error .badParameter
  | none => .error .badParameter
/-- Checks 2 to 5 for keys: home wing in service, set, accession number, damage (R88, R17, R75, Table 3.5). -/
def State.keyChecks (s : State) (keys : List Card) (set acc : Nat) : Except Status Unit := do
  need (keys.all (fun k => !(s.wing k.wing).lost)) .unitAbsent
  need (keys.all (fun k => k.set == set)) .parameterMismatch
  need (keys.all (fun k => k.accession == acc)) .keyMismatch
  need (keys.all (fun k => !k.damaged)) .uncorrectableMemory

/-- The refresh plan of an accession number on a wing (R128). -/
def Ctx.planFor (x : Ctx) (acc wing : Nat) : Option (Nat × Plan) :=
  x.plans.find? (fun p => p.2.accession == acc && p.2.wing == wing)
/-- Output level of a plan (R127). -/
def Plan.outLevel (p : Plan) (q : ParamSet) : Nat := q.L - 1 - p.cts.length - p.modLevels - p.stc.length
/-- An operand's bookkeeping after a refresh under a plan (R135). -/
def Plan.refreshed (p : Plan) (q : ParamSet) (a : Card) : Card :=
  { a with
    level := p.outLevel q, scale := p.scaleOut
    noise := estimate [a.noise] (oplus ((a.noise : Int) - scaleBits false p.scaleIn + scaleBits true p.scaleOut) p.err) }

end Sys2Proof.Machine
end

