-- ==== Sys2Proof/Machine/Sync.lean ====
section
/-! DEFINITION. The sync mailbox commands (R247, R253, R263, R267), barrier arrivals (R260, R261) and counter updates (R249). -/

namespace Sys2Proof.Machine

/-! Mapping -/

/-- A home code has no reserved bit set (Table 10.1). -/
def homeForm (home : Nat) : Bool :=
  bits home 4 4 == 0 && (if home.testBit 15 then bits home 0 13 == 0 else decide (bits home 8 5 < 22))
/-- Counters that a home holds (R244). -/
def homeCapacity (home : Nat) : Nat := if home.testBit 15 then 5120 else 32
/-- Counters of a home that are mapped, by any context. -/
def State.homeUsed (s : State) (home : Nat) : Nat := (s.ctxs.map (fun c => c.2.sync.countP (fun v => v.2.home == home))).sum
/-- A home's units are READY (R405). -/
def State.homeReady (s : State) (home : Nat) : Bool :=
  (s.wing (bits home 13 2)).ready && (home.testBit 15 || (s.bay (bits home 13 2 * 22 + bits home 8 5)).ready)
/-- The counter mapped at an ID of a `SYNC_MAP` (R247, R259). -/
def mappedAs (kind home i expected : Nat) (init : W64) : VSync :=
  if kind = 0 then { home := home, kind := 0, value := init }
  else if i % 2 = 0 then { home := home, kind := 1, value := init, e := expected }
  else { home := home, kind := 2, value := 0 }

/-- SYNC_MAP (R247, R259). -/
def cmdSyncMap (m : Mbx) (first count kind home : Nat) (init : W64) (expected : Nat) (s : State) : State :=
  s.runCmd m { op := 0x0501 } fun _ c s =>
    let x := s.ctx c
    if count = 0 ∨ 4096 < first + count ∨ 1 < kind ∨ !homeForm home ∨ (!home.testBit 15 ∧ 32 < count)
        ∨ (List.range count).any (fun i => (x.sync.get (first + i)).isSome)
        ∨ (kind = 0 ∧ expected ≠ 0) ∨ (kind = 1 ∧ (first % 2 = 1 ∨ count % 2 = 1 ∨ expected < 1 ∨ 65535 < expected)) then
      refuse s .badParameter
    else if s.homeLost home then refuse s .unitAbsent
    else if !s.homeReady home then refuse s .notReady
    else if homeCapacity home < s.homeUsed home + count then refuse s .resourceExhausted
    else .done .ok [] (s.setCtx c { x with
      sync := (List.range count).foldl (fun t i => t.put (first + i) (mappedAs kind home (first + i) expected init)) x.sync })
def execSyncMap (m : Mbx) (first count kind home : Nat) (init : W64) (expected : Nat) (s : State) : Res :=
  act s (cmdSyncMap m first count kind home init expected)

/-- IDs that a command names: wait, signal, arrival (R267). -/
def State.namedIds (s : State) (c : Nat) (x : Stream) (cmd : SCmd) : List Nat :=
  (if cmd.wait then [cmd.waitId] else []) ++ (if cmd.signal && !s.attached c x.wing cmd then [cmd.sigId] else [])
    ++ (if cmd.op = 0x012 then [bits cmd.imm 0 12] else [])
/-- IDs that a stream names: its decoded commands, the wait it stands at, and its folios' release specs (R267). -/
def State.streamIds (s : State) (c : Nat) (x : Stream) : List Nat :=
  (x.window.filter (fun e => e.2.phase != .done)).flatMap (fun e => s.namedIds c x e.2.cmd)
    ++ (match x.wait with | some w => [w.id] | none => [])
    ++ x.releases.map (fun r => r.2.1)
    ++ (if x.state == .running && x.loaded && (s.trailerNum x 4037 1).testBit 2 then [s.trailerNum x 4038 2 % 4096] else [])
/-- IDs of a context that keep a `SYNC_UNMAP` from going ahead (Table 10.7). -/
def State.busyIds (s : State) (c : Nat) (id : Nat) : Bool :=
  let x := s.ctx c
  x.streams.any (fun t => (s.streamIds c t.2).any (fun i => i == id || (i % 2 = 0 && i + 1 == id
      && (match x.sync.get i with | some v => v.kind == 1 | none => false))))
    || x.watches.any (fun w => w.id == id)
    || s.ports.any (fun p => p.2.windows.any (fun w => w.2.ctx == c && decide (w.2.sigFirst ≤ id ∧ id < w.2.sigFirst + w.2.sigCount)))

/-- SYNC_UNMAP (R247, R267): counters return to their homes' pools; lost ones always do (R248). -/
def cmdSyncUnmap (m : Mbx) (first count : Nat) (s : State) : State :=
  s.runCmd m { op := 0x0502 } fun _ c s =>
    let x := s.ctx c
    let ids := (List.range count).map (· + first)
    let whole (i : Nat) : Bool :=
      match x.sync.get i with
      | some v => if v.kind = 1 then ids.contains (i + 1) else if v.kind = 2 then ids.contains (i - 1) else true
      | none => false
    if count = 0 ∨ 4096 < first + count ∨ !ids.all whole then refuse s .badParameter
    else if ids.any (fun i => s.busyIds c i && !((s.vsync c i).any (fun v => s.counterLost v))) then refuse s .busy
    else .done .ok [] (s.setCtx c { x with sync := x.sync.filter (fun v => !ids.contains v.1) })
def execSyncUnmap (m : Mbx) (first count : Nat) (s : State) : Res := act s (cmdSyncUnmap m first count)

/-! Reading, updating, watching -/

/-- SYNC_READ (R247). -/
def cmdSyncRead (m : Mbx) (id : Nat) (s : State) : State :=
  s.runCmd m { op := 0x0503 } fun _ c s =>
    match s.vsync c id with
    | none => refuse s .badParameter
    | some v => if s.counterLost v then refuse s .unitAbsent else .done .ok (leBytes 8 (s.syncValue c id).toNat) s
def execSyncRead (m : Mbx) (id : Nat) (s : State) : Res := act s (cmdSyncRead m id)

/-- SYNC_UPDATE (R247, R249). -/
def cmdSyncUpdate (m : Mbx) (id op : Nat) (value : W64) (s : State) : State :=
  s.runCmd m { op := 0x0504 } fun _ c s =>
    match s.vsync c id with
    | none => refuse s .badParameter
    | some v =>
      if 1 < op ∨ v.kind ≠ 0 then refuse s .badParameter
      else if s.counterLost v then refuse s .unitAbsent
      else .done .ok [] (s.update c id (op == 1) value)
def execSyncUpdate (m : Mbx) (id op : Nat) (value : W64) (s : State) : Res := act s (cmdSyncUpdate m id op value)

/-- Watches of every context. -/
def State.watchCount (s : State) : Nat := (s.ctxs.map (fun c => c.2.watches.length)).sum

/-- SYNC_WATCH (R253): one that holds at registration completes at once. -/
def cmdSyncWatch (m : Mbx) (id cond : Nat) (value : W64) (deadline : Nat) (s : State) : State :=
  s.runCmd m { op := 0x0505 } fun o c s =>
    let x := s.ctx c
    match s.vsync c id with
    | none => refuse s .badParameter
    | some v =>
      if 7 ≤ cond ∨ 2 ^ 40 ≤ deadline then refuse s .badParameter
      else if s.counterLost v then refuse s .unitAbsent
      else if 64 ≤ x.watches.length ∨ 1024 ≤ s.watchCount then refuse s .resourceExhausted
      else if condHolds cond (s.syncValue c id) value then .done .ok (leBytes 8 (s.syncValue c id).toNat) s
      else
        let w : Watch := { owed := o, id := id, cond := cond, value := value, start := s.time.now, deadline := deadline }
        .later (s.setCtx c { x with watches := x.watches ++ [w] })
def execSyncWatch (m : Mbx) (id cond : Nat) (value : W64) (deadline : Nat) (s : State) : Res :=
  act s (cmdSyncWatch m id cond value deadline)

/-- SYNC_WATCH_DEADLINE (R253): `TIM_NOW` has reached the watch's expiry tick, and it completes with the value of that moment. -/
def execSyncWatchDeadline (c tag : Nat) (s : State) : Res :=
  act s fun s =>
    match (s.ctx c).watches.find? (fun w => w.owed.tag == tag && w.deadline != 0 && decide (w.start + w.deadline ≤ s.time.now)) with
    | some w => s.endWatch c w .notReady (leBytes 8 (s.syncValue c w.id).toNat)
    | none => s

/-- SYNC_WATCH_CANCEL (R247): the watch ends with STOPPED. -/
def cmdSyncWatchCancel (m : Mbx) (tag : Nat) (s : State) : State :=
  s.runCmd m { op := 0x0506 } fun _ c s =>
    match (s.ctx c).watches.find? (fun w => w.owed.tag == tag) with
    | some w => .done .ok [] (s.endWatch c w .stopped [])
    | none => refuse s .badParameter
def execSyncWatchCancel (m : Mbx) (tag : Nat) (s : State) : Res := act s (cmdSyncWatchCancel m tag)

/-- BARRIER_RESET (R263): the barrier reopens at the generation given, and conditions on both its counters are evaluated. -/
def cmdBarrierReset (m : Mbx) (id : Nat) (gen : W64) (s : State) : State :=
  s.runCmd m { op := 0x0507 } fun _ c s =>
    match s.vsync c id with
    | some v =>
      if v.kind ≠ 1 then refuse s .badParameter
      else if s.counterLost v then refuse s .unitAbsent
      else .done .ok [] (((s.setVsync c id { v with value := gen, a := 0, h := 0, broken := false }).wake c id).wake c (id + 1))
    | none => refuse s .badParameter
def execBarrierReset (m : Mbx) (id : Nat) (gen : W64) (s : State) : Res := act s (cmdBarrierReset m id gen)

/-! Arrivals and updates -/

/-- The checks of `bar.arrive` (R260): no handle, no reserved bit, an arrivals ID. -/
def State.chkArrive (s : State) (c : Nat) (e : Entry) : Checked := do
  need (e.handles [false, false, false, false]) .badParameter
  need (bits e.cmd.imm 12 4 == 0 && bits e.cmd.imm 48 80 == 0) .badParameter
  need ((s.vsync c (bits e.cmd.imm 0 12)).any (fun v => v.kind == 1)) .badParameter
  .ok { awaits := true }
/-- BAR_ARRIVE (R260): the arrival sets out for its home. -/
def execBarArrive (c n k : Nat) (s : State) : Res :=
  act s fun s => s.issue c n k 0x012 anyImm (fun _ e => s.chkArrive c e)

/-- BARRIER_ARRIVAL (R261): the home applies it, and the command completes with its outcome. -/
def execBarrierArrival (c n k : Nat) (s : State) : Res :=
  act s fun s =>
    match s.entry c n k with
    | none => s
    | some e =>
      if e.phase ≠ .issued ∨ e.cmd.op ≠ 0x012 then s else
      match e.fate with
      | some st => s.finish c n k e st
      | none =>
        let r := s.arrive c (bits e.cmd.imm 0 12) (bits e.cmd.imm 16 32)
        match r.1.entry c n k with
        | some e1 => r.1.finish c n k e1 r.2
        | none => r.1

/-- COUNTER_UPDATE (R249): a signal or an update reaches its counter's home. -/
def execCounterUpdate (c id : Nat) (set : Bool) (value : W64) (s : State) : Res := act s fun s => s.update c id set value

end Sys2Proof.Machine
end

