-- ==== Sys2Proof/Machine/Bays.lean ====
section
/-! DEFINITION. The wing scheduler and the bays: pulling (R69, R70, R273), weights (R274), pieces (R69, R449 to R452), key passes
(R90 to R94), the power governor's update (R423), and weeding (R289). -/

namespace Sys2Proof.Machine

/-! Pulling -/

/-- The domain of a bay (R356). -/
def bayDomain (i : Nat) : Nat := i / 22 * 18 + i % 22 / 2
/-- A bay's thermal factor is 0 (R274). -/
def State.tooHot (s : State) (i : Nat) : Bool := !s.map.fixed && decide (105 ≤ (s.dom (bayDomain i)).tj)
/-- Bays of the group in whose carrels a command's cards are bound (R273). -/
def State.homeBays (s : State) (w c : Nat) (e : Entry) : List Nat :=
  (e.reads ++ e.writes).filterMap (fun h => match s.card c h with
    | some x => if x.place == .carrel && isCarrel x.base && (s.group w c).contains (carrelBay x.base) then some (carrelBay x.base) else none
    | none => none)
/-- A bay may take a command (R273, R3): not one whose carrel cards keep it to another bay, nor a lookup when only others have LU. -/
def State.mayTake (s : State) (i c : Nat) (e : Entry) : Bool :=
  let hs := (s.homeBays (i / 22) c e).filter (fun b => !s.tooHot b)
  (hs.isEmpty || hs.contains i)
    && (e.cmd.op != 0x201 || (s.bay i).lu || (s.group (i / 22) c).all (fun b => !(s.bay b).lu))
/-- The oldest command of a context's issue queue that a bay may take. -/
def State.nextOf (s : State) (i c : Nat) : Option (Nat × Nat) :=
  (((s.wing (i / 22)).queues.getD c []).find? (fun q => match s.entry c q.1 q.2 with
    | some e => e.phase == .queued && s.mayTake i c e
    | none => false))
/-- BAY_PULL (R70, R273): a bay with room takes the oldest command of the next admitted context; it changes context only when it holds
no command of the old one, and then releases working slots and zeroes its tiles and LU's store. -/
def execBayPull (bay : Nat) (s : State) : Res :=
  act s fun s =>
    let b := s.bay bay
    let w := bay / 22
    if !s.bayUp bay ∨ b.applying ∨ b.drained ∨ b.weight = 0 ∨ b.depth ≤ s.inFlight bay then s else
    let order := ((List.range 16).map (fun i => (b.last + 1 + i) % 16)).filter (fun c => b.entry.getLsbD c)
    match order.findSome? (fun c => (s.nextOf bay c).map (fun q => (c, q))) with
    | none => s
    | some (c, n, k) =>
      match s.turnTo bay c with
      | none => s
      | some t =>
        let s2 := t.setBay bay { t.bay bay with last := c }
        match s2.entry c n k with
        | some e => (s2.setEntry c n k { e with phase := .pulled, bay := some bay }).unqueue w c n k
        | none => s2

/-! Weights -/

/-- w_b as a numerator over 1,500,000, in G tokens/s (R274): the mean rate over the last 100 µs is a tenth of the sum of ten steps. -/
def State.bayWeight (s : State) (i : Nat) : Nat :=
  let e := popcount 16 (s.bay i).cores
  let d := s.dom (bayDomain i)
  if s.map.fixed then e * 100000
  else
    let h : Nat := if d.tj ≤ 95 then 10 else (105 - d.tj).toNat
    e * d.rates.sum * h
/-- WEIGHT_UPDATE (R274): weights and depths of a wing's enabled bays are set together. -/
def execWeightUpdate (wing : Nat) (s : State) : Res :=
  act s fun s =>
    let ix := ((List.range 22).map (· + wing * 22)).filter (fun i => s.bayUp i)
    let wmax := (ix.map s.bayWeight).foldl max 0
    ix.foldl (fun t i =>
      let v := s.bayWeight i
      t.setBay i { t.bay i with
        eb := popcount 16 (t.bay i).cores, weight := v * 65536 / 1500000
        depth := if wmax = 0 then 1 else max 1 ((8 * v + wmax) / (2 * wmax)) }) s

/-! Pieces -/

/-- Where an engine works on a piece of a command: the core named, or, for LU, the core that keeps its queue. -/
def State.workingOn (s : State) (bay core : Nat) (en : Engine) (p : Piece) : Option Nat :=
  let at_ (i : Nat) : Bool := ((s.core i).eng (engineCode en)).now == some p
  if en = .lu then ((List.range 16).map (bay * 16 + ·)).find? at_ else if at_ (bay * 16 + core) then some (bay * 16 + core) else none
/-- PIECE_COMPLETE (R69, R42, R449 to R452): the engine's outputs are checked, and it takes its next piece; a piece that fails its retry ends
its command, and its core is marked suspect; a failed MX lane is replaced by its group's spare, or the core is withdrawn. -/
def execPieceComplete (bay core : Nat) (en : Engine) (c n k : Nat) (chk : Check) (lane : Option Nat) (s : State) : Res :=
  act s fun s =>
    match s.entry c n k, s.workingOn bay core en ⟨c, n, k⟩ with
    | some e, some i =>
      if e.phase ≠ .issued ∨ 16 ≤ core ∨ !(s.bay bay).cores.testBit core then s else
      let s := (s.pieceDone i (engineCode en) ⟨c, n, k⟩).tallyBay bay 93
      match chk with
      | .pass => s
      | .transient => s.transientCore bay core
      | .fail =>
        let s := s.tallyBay bay 96
        let l := if en = .mx then lane else none
        let s1 := (s.setFate c n k .integrityFault).faultRec (bay / 22) (bay % 22) core 3 (l.getD 0xFF)
        match l with
        | none => s1.suspectCore bay core
        | some l =>
          let g := core * 4 + l / 32
          if (s1.bay bay).laneSpares.contains g then (s1.markCore bay core).withdrawCore bay core .integrityFault
          else
            let s2 := s1.setBay bay { s1.bay bay with laneSpares := addBlocks (s1.bay bay).laneSpares [g] }
            (s2.errRec 4 (bay / 22) (bay % 22) [b8 core, b8 (l / 32), b8 l]).suspectCore bay core
    | _, _ => s

/-! Key passes -/

/-- GATHER_WINDOW_EXPIRE (R92): the pass closes to subscription at the end of its window. -/
def execGatherWindowExpire (wing pass : Nat) (s : State) : Res :=
  act s fun s =>
    let x := s.wing wing
    match x.passes.get pass with
    | some q =>
      if s.time.now < q.opened + q.window then s else s.setWing wing { x with passes := x.passes.put pass { q with closed := true } }
    | none => s

/-- The integrity check of a header page (R93): magic, both CRCs, and its extent's position. -/
def pageIntact (b : List Byte) (i : Nat) : Bool :=
  fld b 0 4 == 0x314B4C4F && fld b 60 4 == crc32c (b.take 60) && fld b 13 1 == i
    && fld b 52 4 == (if (fld b 5 1).testBit 0 then crc32c ((b.drop 64).take 32) else 0)
/-- The identity check of a header page (R93). -/
def pageIs (b : List Byte) (cd : Card) : Bool :=
  fld b 16 8 == cd.accession && fld b 4 1 == cd.keyKind && fld b 6 2 == cd.keyIndex && fld b 8 4 == cd.set && fld b 32 4 == cd.aux
/-- A pass ends on data of its key that cannot be corrected: the key card is damaged (R93, Table 3.5). -/
def State.endPassDamaged (s : State) (w q : Nat) (key : Nat × Nat) : State :=
  (s.damage key.1 key.2).endPass w q .uncorrectableMemory
/-- PASS_HEADER_CHECK (R93): the integrity round on all four pages, with its one retry, then the identity round. The spec names no unit for
a header page's failure: a page whose stored bytes fail marks none, and a failed transfer is charged to the path of extent 0 (DESIGN CHOICE,
log entry 82). Where one page cannot be reached and another is poisoned, the reach decides and the key is not marked damaged (DESIGN CHOICE,
log entry 83: R93 orders them no further). -/
def execPassHeaderCheck (wing pass : Nat) (chk : Check) (s : State) : Res :=
  act s fun s =>
    let x := s.wing wing
    match x.passes.get pass with
    | none => s
    | some q =>
      match s.card q.key.1 q.key.2 with
      | none => s.endPass wing pass .badParameter
      | some cd =>
        if q.checked then s else
        let at_ (i : Nat) : Nat := cd.extents.getD i 0
        match (List.range 4).findSome? (fun i => s.reach (at_ i) 65536) with
        | some st => s.endPass wing pass st
        | none =>
          if (List.range 4).any (fun i => s.poisoned (at_ i) 65536) then s.endPassDamaged wing pass q.key
          else
            let page (i : Nat) : List Byte := s.bytes (at_ i) 96
            let s1 := s.checked wing (at_ 0) chk
            if chk = .fail ∨ !(List.range 4).all (fun i => pageIntact (page i) i) then s1.endPass wing pass .integrityFault
            else if !(List.range 4).all (fun i => pageIs (page i) cd) then s1.endPass wing pass .keyMismatch
            else
              let y := s1.wing wing
              s1.setWing wing { y with passes := y.passes.put pass { q with checked := true, retried := chk == .transient } }

/-- A subscriber's pass has delivered its last block: the command's next key is streamed (R92). -/
def State.keyDone (s : State) (c n k : Nat) : State :=
  match s.entry c n k with
  | some e => s.setEntry c n k { e with keys := e.keys.drop 1 }
  | none => s
/-- Every 64-byte block of a stored key block is read, the first with its failed symbols (R284). -/
def State.readKeyBlock (s : State) (a n failed : Nat) : State × Bool :=
  let r := s.checkBlock a failed
  (r.1, r.1.poisoned a n)
/-- What a block leaves in a key buffer: with a seeded hybrid key, the block and the one expanded from the seed (R89, R90). -/
def landed (cd : Card) (n : Nat) : Nat := if cd.seeded && hybrid cd.keyKind then 2 * n else n
/-- Bytes in a key buffer. -/
def Bay.keyBytes (b : Bay) : Nat := (b.keyBuf.map (fun x => x.2)).sum
/-- The subscribed bays of a pass, each once. -/
def Pass.bays (q : Pass) : List Nat := (q.subs.map (fun x => x.2.2.2)).eraseDups
/-- Engines have taken the oldest blocks out of a bay's key buffer: how many is open (R90 gives their rate, not their order in time). -/
def State.drainKeys (s : State) (i : Nat) : State :=
  let b := s.bay i
  s.setBay i { b with keyBuf := b.keyBuf.drop (Config.free s.draw (2 ^ 53 + i) % (b.keyBuf.length + 1)) }
/-- KEY_BLOCK_RELEASE (R90, R94): the next block of a checked, closed pass is read and released once every subscribed bay's key buffer has
room for it; after the last, every subscriber has its key. -/
def execKeyBlockRelease (wing pass failedSymbols : Nat) (s : State) : Res :=
  act s fun s0 =>
    let s : State := { (((s0.wing wing).passes.get pass).map Pass.bays |>.getD []).foldl State.drainKeys s0 with draw := s0.draw + 1 }
    let x := s.wing wing
    match x.passes.get pass with
    | none => s
    | some q =>
      match s.card q.key.1 q.key.2, (s.card q.key.1 q.key.2).bind (fun cd => s.pset q.key.1 cd.set) with
      | some cd, some p =>
        if !q.closed ∨ !q.checked then s else
        match q.blocks[q.next]? with
        | none => s
        | some j =>
          let a := blockAddr p cd j
          let n := blockBytes p cd.keyKind cd.aux
          match s.reach a n with
          | some st => s.endPass wing pass st
          | none =>
            if q.bays.any (fun i => decide (0x200000 < (s.bay i).keyBytes + landed cd n)) then s else
            let r := s.readKeyBlock a n failedSymbols
            if r.2 then r.1.endPassDamaged wing pass q.key
            else
              let t := q.bays.foldl (fun s i => s.setBay i { s.bay i with keyBuf := (s.bay i).keyBuf ++ [(pass, landed cd n)] }) r.1
              let y := t.wing wing
              if q.next + 1 < q.blocks.length then
                t.setWing wing { y with passes := y.passes.put pass { q with next := q.next + 1 } }
              else
                let s1 := t.setWing wing { y with passes := y.passes.del pass }
                (((q.subs.map (fun u => (u.1, u.2.1, u.2.2.1))).eraseDups).foldl (fun s u => s.keyDone u.1 u.2.1 u.2.2) s1).wantPasses wing
      | _, _ => s.endPass wing pass .badParameter

/-! The governor -/

/-- A bay-pair domain, 0 to 43, has a command waiting or in flight (R423). -/
def State.pairBusy (s : State) (k : Nat) : Bool :=
  let w := k / 11
  [w * 22 + k % 11 * 2, w * 22 + k % 11 * 2 + 1].any (fun i =>
    decide (0 < s.inFlight i) || (s.wing w).queues.any (fun q => !q.2.isEmpty && (s.bay i).entry.getLsbD q.1))
/-- GOVERNOR_UPDATE (R423, R418, R424). -/
def execGovernorUpdate (inputMw : Nat) (budget : List Nat) (s : State) : Res :=
  act s fun s => s.govern inputMw budget s.pairBusy

/-! Weeding -/

/-- Requests queued to a page are served (R290). -/
def State.servePage (s : State) (a : Nat) : State :=
  let st := dpaStack a
  let hit (r : MemReq) : Bool := r.addr / 65536 == a / 65536
  if (s.stk st).lost then s else
  ((s.stk st).queues.flatMap (fun q => (q.2.filter (fun e => hit e.1)).map (fun r => (q.1, r)))).foldl (fun s r =>
    let k := s.stk st
    (s.setStk st { k with queues := k.queues.put r.1 ((k.queues.getD r.1 []).erase r.2) }).serve st 0 r.2.1) s
/-- PAGE_WEED (R289, R290). -/
def execPageWeed (m : Mbx) (page reason : Nat) (s : State) : Res := act s (cmdPageWeed State.servePage m page reason)

end Sys2Proof.Machine
end

