-- ==== Sys2Proof/Machine/Ports.lean ====
section
/-! DEFINITION. A Golat port's link: training (R310, R311), lanes (R313), credits and retry (R315 to R317), the receipt of flits
(R314, R316), lane markers (R308), transfer identifiers (R319). -/

namespace Sys2Proof.Machine

/-! Training -/

/-- A port enters FAILED: an event (Table 13.3). `few` says that an attempt ended with fewer than 9 good lanes; the third in a row
loses the port (R456). -/
def State.failPort (s : State) (p : Nat) (few : Bool) : State :=
  let x := s.port p
  let n := if few then x.fewLanes + 1 else 0
  let s1 := (s.setPort p { x with st := .failed, fewLanes := n, failedAt := s.time.now }).event .ok 8 0xFF [b8 p, 8]
  if 3 ≤ n then s1.losePort p else s1
/-- The credits that a module advertises (R315). -/
def creditInitPayload : List Byte := [0x02, 0] ++ leBytes 2 1536 ++ leBytes 2 64 ++ leBytes 2 512
/-- IDENTIFY has matched: roles, party and lanes are judged, and the lane maps are made (R311). -/
def State.identified (s : State) (p : Nat) (t : Train) : State :=
  let x := s.port p
  let tx := addBlocks [] (t.txLanes.filter (fun l => decide (l < 11)))
  let rx := addBlocks [] (t.rxLanes.filter (fun l => decide (l < 11)))
  let y := { x with partner := t.partnerParty, partnerRole := t.partnerRole }
  let s1 := s.setPort p y
  if tx.length < 9 ∨ rx.length < 9 then s1.failPort p true
  else if (t.partnerRole ≠ 1 ∧ t.partnerRole ≠ 2) ∨ (x.role = 2 ∧ t.partnerRole = 2) ∨ (x.expected ≠ 0 ∧ t.partnerParty ≠ x.expected) then
    s1.failPort p false
  else
    s1.setPort p { y with
      st := .frame, txMap := tx.take 10, rxMap := rx.take 10, txSpare := decide (10 < tx.length), rxSpare := decide (10 < rx.length)
      txSpareLane := tx.getD 10 0, rxSpareLane := rx.getD 10 0, fewLanes := 0, markers := [], report := none, timeStopped := false
      txSeq := 0, rxSeq := 0, rx := [], queue := [], sent := [], credits := [], due := [], retrying := false, swapping := none, out := [] }
/-- One tap under a request: hold, increment, decrement or preset (Table 13.4). The size of a step and the range of a tap are not stated:
taps count steps from the preset. DESIGN CHOICE, log entry 85. -/
def ffeTap (req : Nat) (v : Int) : Int := match req with | 0 => v | 1 => v + 1 | 2 => v - 1 | _ => 0
/-- The partner's request for one lane's taps (R307, Table 13.4). -/
def Ffe.ask (t : Ffe) (req : Nat) : Ffe :=
  { pre2 := ffeTap (bits req 0 2) t.pre2, pre1 := ffeTap (bits req 2 2) t.pre1, post1 := ffeTap (bits req 4 2) t.post1 }
/-- The requests of a training set the taps of the transmitters (R307). -/
def Port.equalised (x : Port) (reqs : List (Nat × Nat)) : Port :=
  { x with ffe := reqs.foldl (fun t q => t.put q.1 ((t.getD q.1 {}).ask q.2)) x.ffe }
/-- PORT_TRAINING_ADVANCE (R307, R310, R311): the state's condition is met. -/
def execPortTrainingAdvance (p : Nat) (t : Train) (s : State) : Res :=
  act s fun s =>
    let x := s.port p
    if !x.present ∨ x.lost ∨ x.role = 0 then s else
    match x.st with
    | .detect => if 9 ≤ t.rxLanes.length then s.setPort p { x with st := .equalise } else s
    | .recover => s.setPort p { x with st := .equalise }
    | .equalise => s.setPort p { x.equalised t.ffe with st := .identify }
    | .identify => s.identified p t
    | .frame => s.setPort p ({ x with st := .init }.control creditInitPayload)
    | _ => s
/-- PORT_TRAINING_TIMEOUT (R310): a limit is exceeded; DETECT has none. -/
def execPortTrainingTimeout (p : Nat) (s : State) : Res :=
  act s fun s =>
    let x := s.port p
    if [PState.equalise, .identify, .frame, .init].contains x.st then s.failPort p false else s
/-- PORT_FAILED_RETRY (R310): a port leaves FAILED after 1 s. -/
def execPortFailedRetry (p : Nat) (s : State) : Res :=
  act s fun s =>
    let x := s.port p
    if x.st = .failed ∧ !x.lost ∧ x.role ≠ 0 ∧ x.failedAt + 1000000000 ≤ s.time.now then s.setPort p { x with st := .detect } else s
/-- PORT_LEAVES_ACTIVE (R330): to RECOVER, or to FAILED. -/
def execPortLeavesActive (p : Nat) (recover : Bool) (s : State) : Res :=
  act s fun s => s.leaveActive p (if recover then .recover else .failed)

/-! Lanes (R313) -/

/-- Event 0x0007: direction 0 transmit, 1 receive. -/
def State.laneEvent (s : State) (p dir lane phys : Nat) : State :=
  (s.setPort p ((s.port p).tally (16 * dir + 9))).event .ok 7 0xFF [b8 p, b8 dir, b8 lane, b8 phys]
/-- A failed lane's record (Table 20.10). -/
def State.laneRec (s : State) (p dir phys : Nat) : State := s.errRec 9 (p / 2) p [b8 dir, b8 phys]
/-- LANE_FAIL (R313): logical lane `lane` of the receive direction, or 0xFF for its idle spare, fails; LANE_SWAP goes out, or with 9 lanes
left the port recovers. -/
def execLaneFail (p lane : Nat) (s : State) : Res :=
  act s fun s =>
    let x := s.port p
    if x.st ≠ .active ∨ x.swapping.isSome then s
    else if lane = 0xFF then
      if x.rxSpare then (s.setPort p ({ x with swapping := some 0xFF }.control [0x03, 0xFF])).laneRec p 1 x.rxSpareLane else s
    else if x.rxMap.length ≤ lane then s
    else
      let s1 := s.laneRec p 1 (x.rxMap.getD lane 0)
      if !x.rxSpare ∧ x.rxMap.length < 10 then s1.portDown p 2
      else s1.setPort p ({ x with swapping := some lane }.control [0x03, b8 lane])
/-- What LANE_SWAP does at its receiver, to the transmit direction (R313). -/
def State.laneSwap (s : State) (p lane : Nat) : State :=
  let x := s.port p
  if x.st ≠ .active then s
  else if lane = 0xFF then
    if x.txSpare then
      ((s.setPort p ({ x with txSpare := false }.control [0x04, 0xFF, 0xFF])).laneEvent p 0 0xFF 0xFF).laneRec p 0 x.txSpareLane
    else s.setPort p (x.control [0x04, 0xFF, 0xFF])
  else if x.txMap.length ≤ lane then s
  else
    let s1 := s.laneRec p 0 (x.txMap.getD lane 0)
    if x.txSpare then
      (s1.setPort p ({ x with txMap := x.txMap.set lane x.txSpareLane, txSpare := false }.control [0x04, b8 lane, b8 x.txSpareLane])).laneEvent
        p 0 lane x.txSpareLane
    else if x.txMap.length = 10 then
      ((s1.setPort p ({ x with txMap := x.txMap.eraseIdx lane }.control [0x04, b8 lane, 0xFF])).laneEvent p 0 lane 0xFF).degrade
    else s1.portDown p 2
/-- LANE_SWAP (R313). -/
def execLaneSwap (p lane : Nat) (s : State) : Res := act s fun s => s.laneSwap p lane
/-- What LANE_SWAP_ACK does at its receiver, to the receive direction (R313). -/
def State.laneSwapAck (s : State) (p lane phys : Nat) : State :=
  let x := s.port p
  if x.st ≠ .active ∨ x.swapping ≠ some lane then s
  else if lane = 0xFF then (s.setPort p { x with swapping := none, rxSpare := false }).laneEvent p 1 0xFF 0xFF
  else if phys = 0xFF then
    ((s.setPort p { x with swapping := none, rxMap := x.rxMap.eraseIdx lane }).laneEvent p 1 lane 0xFF).degrade
  else (s.setPort p { x with swapping := none, rxMap := x.rxMap.set lane phys, rxSpare := false }).laneEvent p 1 lane phys
/-- LANE_SWAP_ACK (R313). -/
def execLaneSwapAck (p lane phys : Nat) (s : State) : Res := act s fun s => s.laneSwapAck p lane phys

/-! Retry and credits -/

/-- RETRY at its receiver (R316): flits go out again from the one named; a flit resent 16 times recovers the port. -/
def State.retryFrom (s : State) (p seq : Nat) : State :=
  let x := s.port p
  let again := x.sent.dropWhile (fun e => e.1.seq != seq)
  if x.st ≠ .active ∨ again.isEmpty then s
  else if again.any (fun e => decide (15 ≤ e.2)) then s.portDown p 2
  else
    let kept := x.sent.takeWhile (fun e => e.1.seq != seq)
    s.setPort p (again.foldl (fun x e => (x.emit e.1).tally 4) { x with sent := kept ++ again.map (fun e => (e.1, e.2 + 1)) })
/-- RETRY (R316). -/
def execRetry (p seq : Nat) (s : State) : Res := act s fun s => s.retryFrom p seq
/-- RETRY goes out for the flit expected (R316). -/
def Port.askRetry (x : Port) : Port := ({ x with retrying := true }).control ([0x01] ++ leBytes 2 x.rxSeq)
/-- A sequenced flit is discarded (R316): RETRY goes out for the first; every later one is discarded until the flit expected arrives. -/
def Port.missed (x : Port) : Port := if x.retrying then x else x.askRetry
/-- RETRY_REPEAT (R316, R317): what is outstanding goes out again. -/
def execRetryRepeat (p : Nat) (s : State) : Res :=
  act s fun s =>
    let x := s.port p
    if x.st = .init then s.setPort p (x.control creditInitPayload)
    else if x.st ≠ .active then s
    else
      let x1 := if x.retrying then x.askRetry else x
      s.setPort p (match x1.swapping with | some l => x1.control [0x03, b8 l] | none => x1)
/-- CREDIT_INIT at its receiver (R317): with credits of all three classes the port is ACTIVE; an ACTIVE port answers a repeat. -/
def State.creditInit (s : State) (p a b c : Nat) : State :=
  let x := s.port p
  if x.st = .init then s.setPort p ({ x with st := .active, credits := [(0, a), (1, b), (2, c)] }.null)
  else if x.st = .active then s.setPort p (x.control creditInitPayload)
  else s
/-- CREDIT_INIT (R317). -/
def execCreditInit (p posted request response : Nat) (s : State) : Res := act s fun s => s.creditInit p posted request response
/-- DOWN (R317): the partner takes the port out of ACTIVE. -/
def execDown (p reason : Nat) (s : State) : Res :=
  act s fun s => if 1 ≤ reason ∧ reason ≤ 3 then s.leaveActive p .recover else s

/-! Receiving flits -/

/-- A flit's bytes as its sender meant them (Tables 13.5, 13.6). -/
def parseFlit (b : List Byte) : Flit :=
  let h := fld b 0 8
  { ftype := bits h 0 4, poison := h.testBit 4, window := bits h 8 8, transfer := bits h 16 16, index := bits h 32 32
    ndesc := bits h 32 4 + 1, payload := (b.drop 8).take 256, seq := fld b 264 4 % 4096 }
/-- No reserved field is set (R314, Tables 13.5 to 13.8). -/
def flitForm (b : List Byte) : Bool :=
  let f := parseFlit b
  let q := fld b 264 4
  let p := f.payload
  decide (f.ftype < 12) && bits (fld b 0 8) 5 3 == 0 && bits q 24 2 != 3
    && (!f.poison || [1, 4, 6].contains f.ftype)
    && (!unsequenced f.ftype || f.seq == 0)
    && (match f.ftype with
        | 2 => zeroAt p 32 224
        | 3 => zeroAt p 2 254
        | 5 => bits f.index 4 28 == 0
            && (List.range f.ndesc).all (fun i => bits (fld p (16 * i) 2) 12 4 == 0 && bits (fld p (16 * i + 4) 2) 13 3 == 0)
        | 7 => zeroAt p 6 2 && zeroAt p 12 244
        | 8 => zeroAt p 1 3 && zeroAt p 8 248
        | _ => true)
/-- An acknowledgement frees the retry buffer up to its flit, and lets an identifier go whose signal it covers (R316, R319). -/
def Port.acked (x : Port) (ack : Nat) : Port :=
  if x.sent.any (fun e => e.1.seq == ack) then
    let gone := x.sent.takeWhile (fun e => e.1.seq != ack) ++ (x.sent.dropWhile (fun e => e.1.seq != ack)).take 1
    { x with sent := x.sent.drop gone.length
             ids := x.ids.filter (fun i => !gone.any (fun e => e.1.ftype == 7 && e.1.transfer == i.1)) }
  else x
/-- Acknowledgement and credits of a flit are taken (Table 13.5). -/
def Port.takes (x : Port) (b : List Byte) : Port :=
  let q := fld b 264 4
  let c := bits q 24 2
  (({ x with credits := x.credits.put c (x.credits.getD c 0 + bits q 26 6) }).acked (bits q 12 12)).pump
/-- Link control by its kind (Table 13.7); other kinds are reserved, and the flit is discarded. -/
def State.control (s : State) (p : Nat) (b : List Byte) : State :=
  match fld b 0 1 with
  | 1 => s.retryFrom p (fld b 1 2 % 4096)
  | 2 => s.creditInit p (fld b 2 2) (fld b 4 2) (fld b 6 2)
  | 3 => s.laneSwap p (fld b 1 1)
  | 4 => s.laneSwapAck p (fld b 1 1) (fld b 2 1)
  | 5 => if 1 ≤ fld b 1 1 ∧ fld b 1 1 ≤ 3 then s.leaveActive p .recover else s.count 5 1
  | _ => s.count 5 1
/-- FLIT_RECEIVE (R314, R316): a sequenced flit with a good `fcrc` and the expected number is accepted into the receive buffer; any other
is discarded, and the first discarded sends RETRY. -/
def execFlitReceive (p : Nat) (bytes : List Byte) (s : State) : Res :=
  act s fun s =>
    let x := s.port p
    let b := fit 272 bytes
    let f := parseFlit b
    if x.st ≠ .active ∧ x.st ≠ .init then s else
    if crc32c (b.take 268) ≠ fld b 268 4 then
      let s := s.setPort p (x.tally 21)
      let x := x.tally 21
      if unsequenced f.ftype ∨ x.st ≠ .active then s else s.setPort p x.missed
    else if !flitForm b then
      let s1 := s.count 5 1
      if unsequenced f.ftype ∨ x.st ≠ .active then s1 else s1.setPort p (s1.port p).missed
    else if unsequenced f.ftype then
      let s1 := if x.st = .active then s.setPort p (x.takes b) else s
      if f.ftype = 0xB then s1.control p f.payload else s1
    else if x.st ≠ .active then s
    else if f.seq ≠ x.rxSeq then s.setPort p x.missed
    else s.setPort p ((({ x with rx := x.rx ++ [f], rxSeq := (x.rxSeq + 1) % 4096, retrying := false }.takes b).tally 16).null)

/-- The next flit of the receive buffer of a flit's class, in sequence order: the one that a row processes (R314, R315). -/
def Port.next (x : Port) (f : Flit) : Bool := (x.rx.find? (fun g => flitClass g.ftype == flitClass f.ftype)) == some f
/-- A processed flit leaves the buffer, and its credit is returned (R315). -/
def State.freeRx (s : State) (p : Nat) (f : Flit) : State :=
  let x := s.port p
  let c := flitClass f.ftype
  s.setPort p (({ x with rx := x.rx.erase f, due := x.due.put c (x.due.getD c 0 + 1) }.pump).returnAll 64)

/-- LANE_MARKER (R308, Table 13.2): a good marker of the lane is taken; one that names another party puts an ACTIVE port into FAILED
(Table 13.13). -/
def execLaneMarker (p lane : Nat) (bytes : List Byte) (arrive : Nat) (s : State) : Res :=
  act s fun s =>
    let x := s.port p
    let b := fit 272 bytes
    let good := b.take 8 == [0x9A, 0x4F, 0xD2, 0x31, 0x6B, 0x0C, 0xE5, 0x78] && fld b 268 4 == crc32c (b.take 268) && fld b 8 1 == lane
    if !([PState.frame, .init, .active].contains x.st) ∨ !good then s
    else if fld b 12 4 ≠ x.partner ∧ x.st = .active then s.leaveActive p .failed
    else if fld b 12 4 ≠ x.partner then s.failPort p false
    else
      let m : Marker :=
        { logical := fld b 9 1, superframe := fld b 10 2, party := fld b 12 4, depart := fld b 16 8, holdover := fld b 24 1 % 2 == 1, arrive := arrive }
      s.setPort p { x with markers := x.markers.put lane m }

/-! Transfer identifiers (R319) -/

/-- Identifiers of transfers that channels have open on a port. -/
def State.openIds (s : State) (p : Nat) : List Nat :=
  s.wings.flatMap (fun w => w.2.chans.filterMap (fun h => if h.2.port = some p then h.2.chain.bind (fun c => c.transfer) else none))
/-- An identifier may be given out (R319). -/
def State.idFree (s : State) (p i : Nat) : Bool :=
  !(s.openIds p).contains i && (match (s.port p).ids.get i with | some t => decide (t + 10000000 ≤ s.time.now) | none => true)
/-- The first free identifier in increasing order modulo 2^16. -/
def State.findId (s : State) (p i fuel : Nat) : Option Nat :=
  match fuel with
  | 0 => none
  | f + 1 => if s.idFree p (i % 65536) then some (i % 65536) else s.findId p (i + 1) f
/-- A transfer takes its identifier; with all of them held the channel waits (R319). -/
def State.takeId (s : State) (p : Nat) : Option (Nat × State) :=
  (s.findId p (s.port p).nextTransfer 65536).map (fun i =>
    (i, s.setPort p { s.port p with nextTransfer := (i + 1) % 65536, ids := (s.port p).ids.put i s.time.now }))
/-- Flits of a transfer are handed to its port (R319 counts 10 ms from the last). -/
def State.sendOn (s : State) (p i : Nat) (fs : List Flit) : State :=
  let s1 := if fs.isEmpty then s else s.setPort p { s.port p with ids := (s.port p).ids.put i s.time.now }
  s1.send p fs

end Sys2Proof.Machine
end

