-- ==== Sys2Proof/Machine/Dma.lean ====
section
/-! DEFINITION. DMA channels (R227 to R230), descriptors and their walk (R233 to R238), merging (R239), stops and faults (R240, R241). -/

namespace Sys2Proof.Machine

/-! Channels -/

/-- The range that R279 populates for the grade holds an address, and its page is not weeded. -/
def State.populated (s : State) (a : Nat) : Bool :=
  decide (a < 2 ^ 40) && decide (a % 2 ^ 36 < s.grade.stackBytes) && !(s.stk (dpaStack a)).weeded.contains (a / 65536)
/-- DMA_CHANNEL_OPEN (R228). -/
def cmdDmaChannelOpen (m : Mbx) (wing kind stop vector port window status : Nat) (s : State) : State :=
  s.runCmd m { op := 0x0601 } fun _ c s =>
    let fn := portIx m.port
    if 4 ≤ wing ∨ 1 < kind ∨ 1 < stop ∨ 63 < vector ∨ vector < (if fn = 0 then 4 else 1)
        ∨ status % 64 ≠ 0 ∨ !s.populated status ∨ s.secretHit status 64
        ∨ (port ≠ 0xFF ∧ (kind = 0 ∨ port / 2 ≠ wing)) ∨ 255 < window then
      refuse s .badParameter
    else if port ≠ 0xFF ∧ (!(s.port port).present ∨ (s.port port).lost) then refuse s .unitAbsent
    else if !(s.wing wing).ready ∨ !(s.stk (dpaStack status)).ready then refuse s .notReady
    else
      let mine := (s.wing wing).chans.filter (fun h => h.2.ctx == c)
      let range := if kind = 1 then List.range 16 else (List.range 64).map (· + 16)
      match range.find? (fun i => (s.chan wing i).isNone) with
      | none => refuse s .resourceExhausted
      | some i =>
        if 16 ≤ mine.length ∨ (kind = 1 ∧ 8 ≤ mine.countP (fun h => h.2.bulk)) then refuse s .resourceExhausted
        else
          let ch : Channel :=
            { ctx := c, fn := fn, bulk := kind == 1, byDesc := stop == 1, vector := vector, port := if port = 0xFF then none else some port
              window := window, status := status }
          .done .ok [b8 i] (s.setWing wing { s.wing wing with chans := (s.wing wing).chans.put i ch })
def execDmaChannelOpen (m : Mbx) (wing kind stop vector port window status : Nat) (s : State) : Res :=
  act s (cmdDmaChannelOpen m wing kind stop vector port window status)

/-- A channel that is open for a context. -/
def State.ownChan (s : State) (c wing ch : Nat) : Option Channel :=
  if wing < 4 then (s.chan wing ch).filter (fun h => h.ctx == c) else none
/-- DMA_CHANNEL_CLOSE (R228). -/
def cmdDmaChannelClose (m : Mbx) (wing ch : Nat) (s : State) : State :=
  s.runCmd m { op := 0x0602 } fun _ c s =>
    match s.ownChan c wing ch with
    | none => refuse s .badParameter
    | some h =>
      if h.state ≠ .idle then refuse s .busy
      else .done .ok [] (s.setWing wing { s.wing wing with chans := (s.wing wing).chans.del ch })
def execDmaChannelClose (m : Mbx) (wing ch : Nat) (s : State) : Res := act s (cmdDmaChannelClose m wing ch)
/-- DMA_CHANNEL_STOP (R240). -/
def cmdDmaChannelStop (m : Mbx) (wing ch : Nat) (s : State) : State :=
  s.runCmd m { op := 0x0603 } fun o c s =>
    match s.ownChan c wing ch with
    | none => refuse s .badParameter
    | some h =>
      if h.state = .idle then .done .ok [] s
      else .later (s.setChan wing ch { h with state := .stopping, stopOwed := h.stopOwed ++ [o] })
def execDmaChannelStop (m : Mbx) (wing ch : Nat) (s : State) : Res := act s (cmdDmaChannelStop m wing ch)

/-! Descriptors -/

/-- A descriptor's fields (Table 9.2). -/
structure Desc where
  op : Nat
  e : Nat
  smode : Nat
  dmode : Nat
  n : Nat
  nomerge : Bool
  src : Nat
  dst : Nat
  next : Nat
  cnt : List Nat
  ss : List Int
  ds : List Int
deriving DecidableEq, Repr
/-- A 24-bit two's-complement field. -/
def int24 (v : Nat) : Int := if v < 2 ^ 23 then (v : Int) else (v : Int) - 2 ^ 24
/-- The fields that 64 bytes spell. -/
def parseDesc (b : List Byte) : Desc :=
  { op := fld b 0 1 % 16, e := fld b 1 1 % 16, smode := fld b 2 1 % 4, dmode := fld b 3 1 % 4, n := bits (fld b 3 1) 2 4
    nomerge := (fld b 4 2).testBit 0, src := fld b 8 8, dst := fld b 16 8, next := fld b 24 8 % 2 ^ 48
    cnt := (List.range 4).map (fun d => fld b (32 + 2 * d) 2)
    ss := (List.range 4).map (fun d => int24 (fld b (40 + 3 * d) 3)), ds := (List.range 4).map (fun d => int24 (fld b (52 + 3 * d) 3)) }
/-- Element size, element count, bytes covered (R234). -/
def Desc.size (d : Desc) : Nat := 2 ^ d.e
def Desc.count (d : Desc) : Nat := prod d.cnt
def Desc.bytes (d : Desc) : Nat := d.count * d.size
/-- An address as computed; one below 0 lies in no storage. -/
def addrOf (v : Int) : Nat := if v < 0 then 2 ^ 48 else v.toNat
/-- Source and destination address of element i in walk order (R234). -/
def Desc.elemAt (d : Desc) (i : Nat) : Nat × Nat :=
  let c (k : Nat) := d.cnt.getD k 1
  let ix : List Nat := [i % c 0, i / c 0 % c 1, i / (c 0 * c 1) % c 2, i / (c 0 * c 1 * c 2)]
  let off (st : List Int) : Int := ((ix.zip st).map (fun p => (p.1 : Int) * p.2)).sum * d.size
  (addrOf (d.src + off d.ss), addrOf (d.dst + off d.ds))
/-- The elements in walk order. -/
def Desc.walk (d : Desc) : List (Nat × Nat) := (List.range d.count).map d.elemAt
/-- A burst (R240): source, destination, length, its offset in the descriptor, and its element when it is that element's last. -/
structure Burst where
  src : Nat
  dst : Nat
  len : Nat
  off : Nat
  ends : Option (Nat × Nat)
deriving DecidableEq, Repr
/-- Bytes to the next boundary of an address: a granule in a stack, a slot in a carrel. -/
def toBoundary (a : Nat) : Nat := if isCarrel a then 4096 - a % 4096 else 256 - a % 256
/-- The bursts of one element (R240). -/
def burstsOf (d : Desc) (remote : Bool) (fuel sa da left off : Nat) (el : Nat × Nat) : List Burst :=
  match fuel with
  | 0 => []
  | f + 1 =>
    let bs := if isCarrel sa && d.op != 2 then toBoundary sa else 256
    let bd := if remote then 256 - da % 256 else if d.op = 3 then (if isCarrel da then toBoundary da else 256) else toBoundary da
    let b2 := if d.op = 3 ∧ !isCarrel sa then toBoundary sa else 256
    let n := min left (min 256 (min bs (min bd b2)))
    if left ≤ n then [{ src := sa, dst := da, len := left, off := off, ends := some el }]
    else { src := sa, dst := da, len := n, off := off, ends := none } :: burstsOf d remote f (sa + n) (da + n) (left - n) (off + n) el
/-- The bursts of a descriptor, in walk order. -/
def Desc.bursts (d : Desc) (remote : Bool) : List Burst :=
  d.walk.zipIdx.flatMap (fun p => burstsOf d remote 4096 p.1.1 p.1.2 d.size (p.2 * d.size) p.1)

/-- No reserved value (Table 9.2), and the modes and addresses that R235 allows. -/
def descForm (b : List Byte) (remote : Bool) : Bool :=
  let d := parseDesc b
  let w := d.walk
  let okS (l : List Nat) : Bool := l.contains d.smode
  let okD (l : List Nat) : Bool := l.contains d.dmode
  let a := min d.size 8
  let carrelSrc := d.op != 2 && w.any (fun p => isCarrel p.1)
  let carrelDst := !remote && w.any (fun p => isCarrel p.2)
  decide (1 ≤ d.op ∧ d.op ≤ 3) && fld b 0 1 / 16 == 0 && decide (fld b 1 1 ≤ 12) && decide (fld b 2 1 < 4) && decide (fld b 3 1 < 64)
    && decide (fld b 4 2 < 2) && fld b 6 2 == 0 && (d.op == 2 || decide (d.src < 2 ^ 48)) && decide (d.dst < 2 ^ 48)
    && decide (fld b 24 8 < 2 ^ 48) && (d.op != 2 || d.ss.all (· == 0))
    && (match d.op with
        | 1 => okS [0, 2, 3] && okD [0, 1]
        | 2 => okS [0] && okD [0, 1]
        | _ => okS [0, 2, 3] && okD [0, 2, 3])
    && (if d.dmode = 1 then decide (1 ≤ d.n) else d.n == 0)
    && (d.smode == 0 || w.all (fun p => isCarrel p.1)) && (d.dmode == 0 || (!remote && w.all (fun p => isCarrel p.2)))
    && ((!carrelSrc && !carrelDst) || decide (3 ≤ d.e))
    && w.all (fun p => (d.op == 2 || p.1 % a == 0) && p.2 % a == 0)
    && !(remote && d.op == 3)
/-- Why a descriptor cannot be fetched (R231, R233), or none. -/
def State.descFault (s : State) (a : Nat) (chk : Check) (remote : Bool) : Option Status :=
  if a % 64 ≠ 0 ∨ !s.populated a ∨ s.secretHit a 64 then some .badParameter
  else match s.reach a 64 with
    | some .thermalHalt => some .thermalHalt
    | some _ => some .badParameter
    | none =>
      if s.poisoned a 64 then some .uncorrectableMemory
      else if chk = .fail then some .integrityFault
      else if !descForm (s.bytes a 64) remote then some .badParameter
      else none
/-- Bytes of secret data: in a secret region of the context, or a secret slot (R238). -/
def State.secretAt (s : State) (c a n : Nat) : Bool := s.inSecret c a n || (isCarrel a && (s.slot (slotKey a)).secret)
/-- A descriptor is seen to read secret data at its fetch: not yet in a slot that it is to take (R236, R238). -/
def State.secretSource (s : State) (c : Nat) (d : Desc) : Bool :=
  d.op != 2 && d.walk.any (fun p => if d.smode = 0 then s.secretAt c p.1 d.size else s.inSecret c p.1 d.size)
/-- Where secret data may go: only into secret storage of the context (R238). -/
def State.secretDest (s : State) (c : Nat) (d : Desc) (remote : Bool) : Bool :=
  !remote && d.walk.all (fun p => s.inSecret c p.2 d.size || s.inBound c p.2 d.size)
/-- Slots that a descriptor takes, in ascending order, with their modes (R236). -/
def Desc.slots (d : Desc) (remote : Bool) : List (Nat × Nat) :=
  let l := d.walk.flatMap (fun p =>
    (if d.smode = 0 then [] else (slotsOf p.1 d.size).map (fun k => (k, d.smode)))
      ++ (if d.dmode = 0 ∨ remote then [] else (slotsOf p.2 d.size).map (fun k => (k, d.dmode))))
  (addBlocks [] (l.map (fun x => 4 * x.1 + x.2 % 4))).map (fun y => (y / 4, y % 4))

/-! A chain's progress -/

/-- Slot accesses of a channel carry this number. -/
def chanWho (c w ch : Nat) : Nat × Nat × Nat := (c, 1, w * 256 + ch)
def State.setChain (s : State) (w ch : Nat) (x : Chain) : State :=
  match s.chan w ch with
  | some h => s.setChan w ch { h with chain := some x }
  | none => s
/-- The descriptor in flight takes its slots one after the other, until one stalls (R236); `fuel` bounds their number. -/
def State.takeFrom (s : State) (w ch fuel : Nat) : State :=
  match fuel, s.chan w ch with
  | f + 1, some h =>
    match h.chain with
    | some x =>
      match x.toTake with
      | (k, mode) :: rest =>
        let d := parseDesc ((x.flight.map (fun p => p.2)).getD [])
        if !s.allGranted (chanWho h.ctx w ch) then s
        else
          let r : SlotReq := { mode := mode, n := d.n, secret := x.secret && mode == 1, who := chanWho h.ctx w ch }
          ((s.setChain w ch { x with toTake := rest }).request k r).takeFrom w ch f
      | [] => s
    | none => s
  | _, _ => s
def State.takeSlots (s : State) (w ch : Nat) : State :=
  s.takeFrom w ch (((s.chan w ch).bind (fun h => h.chain.map (fun x => x.toTake.length))).getD 0)
/-- PUT accesses that carry secret data say so (R236). -/
def State.markPuts (s : State) (who : Nat × Nat × Nat) (ks : List Nat) : State :=
  ks.foldl (fun s k => { s with slots := s.slots.put k { s.slot k with
    granted := (s.slot k).granted.map (fun r => if r.who = who ∧ r.mode = 1 then { r with secret := true } else r) } }) s

/-- What a source or a destination of a chain cannot reach (R217, R238, Table 9.4). -/
def State.dmaDeny (s : State) (c a n : Nat) : Option Status := s.deny c a n
/-- A mask over 256 bytes of the bytes that a list covers. -/
def maskOf (l : List (Nat × Byte)) : Nat := bitmap 256 (fun i => l.any (fun p => p.1 == i))
/-- One granule of a transfer: a WRITE, after a MASK unless all 256 bytes are given (R318). -/
def granuleFlits (window transfer : Nat) (g : Nat × Bool × List (Nat × Byte)) : List Flit :=
  let m := maskOf g.2.2
  let data := (List.range 256).map (fun i => ((g.2.2.reverse.find? (fun p => p.1 == i)).map (fun p => p.2)).getD 0)
  (if m = 2 ^ 256 - 1 then [] else [flitOf 2 false window transfer g.1 (leBytes 32 m)])
    ++ [flitOf 1 g.2.1 window transfer g.1 data]
/-- Runs of bursts that write one granule of the window, in order: index, poison, byte offsets with their bytes. -/
def granules : List (Nat × Bool × List Byte) → List (Nat × Bool × List (Nat × Byte))
  | [] => []
  | (a, p, bs) :: rest =>
    let mine := bs.zipIdx.map (fun x => ((a + x.2) % 256, x.1))
    match granules rest with
    | (i, q, l) :: t => if i = a / 256 then (i, p || q, mine ++ l) :: t else (a / 256, p, mine) :: (i, q, l) :: t
    | [] => [(a / 256, p, mine)]

/-- What moving some bursts leaves: the state, the bursts moved, the remote writes, the fault and its element's offset, the mismatches
and the first's offset, whether a source was poisoned, and the destination granules that are written poisoned. -/
structure Moved where
  s : State
  n : Nat := 0
  out : List (Nat × Bool × List Byte) := []
  fault : Option (Status × Nat) := none
  mism : Nat := 0
  first : Option Nat := none
  poisoned : Bool := false
  bad : List Nat := []
/-- Offset in its descriptor of a burst's element. -/
def Burst.elemOff (b : Burst) (d : Desc) : Nat := b.off / d.size * d.size
/-- Source and destination of one descriptor overlap (R237). -/
def Desc.overlaps (d : Desc) (remote : Bool) : Bool :=
  d.op == 1 && !remote && d.walk.any (fun p => d.walk.any (fun q => decide (p.1 < q.2 + d.size ∧ q.2 < p.1 + d.size)))
/-- One burst moves (R234, Table 9.4); `mixed`: the descriptor overlaps itself, and its destination bytes are unspecified (R237). -/
def Moved.burst (c : Nat) (d : Desc) (remote mixed : Bool) (m : Moved) (b : Burst) : Moved :=
  if m.fault.isSome then m else
  let s := m.s
  let bad := match (if d.op = 2 then none else s.dmaDeny c b.src b.len) with
    | some e => some e
    | none => if remote then (if 2 ^ 40 ≤ b.dst then some .addressFault else none) else s.dmaDeny c b.dst b.len
  match bad with
  | some e => { m with fault := some (e, b.elemOff d) }
  | none =>
    let p := (d.op != 2 && s.poisoned b.src b.len) || (d.op == 3 && s.poisoned b.dst b.len)
    let data := if d.op = 2 then (List.range b.len).map (fun i => b8 (d.src / 2 ^ (8 * ((b.off % d.size + i) % 8)))) else s.bytes b.src b.len
    let m1 := { m with n := m.n + 1, poisoned := m.poisoned || p }
    if d.op = 3 then
      match b.ends with
      | none => m1
      | some el =>
        if s.bytes el.1 d.size = s.bytes el.2 d.size then m1
        else { m1 with mism := m.mism + 1, first := some (m.first.getD (b.elemOff d)) }
    else if remote then { m1 with out := m.out ++ [(b.dst, p, data)] }
    else if p ∧ !isCarrel b.dst then { m1 with bad := m.bad ++ [b.dst / 256 * 256] }
    else if p ∨ mixed then { m1 with s := s.scramble b.dst b.len }
    else { m1 with s := s.outWrite b.dst data }
/-- Every destination byte of a descriptor becomes unspecified (R237, Table 9.4). -/
def State.scrambleDesc (s : State) (c : Nat) (d : Desc) (remote : Bool) : State :=
  if d.op = 3 ∨ remote then s
  else d.walk.foldl (fun s p => if (s.dmaDeny c p.2 d.size).isSome then s else s.scramble p.2 d.size) s
/-- The chain's transfer on its port, its identifier taken when it has none; none while every identifier is held. -/
def State.chainId (s : State) (w ch : Nat) : Option (Nat × State) :=
  match s.chan w ch with
  | some h =>
    match h.port, h.chain with
    | some p, some x =>
      match x.transfer with
      | some i => some (i, s)
      | none => (s.takeId p).map (fun r => (r.1, r.2.setChain w ch { x with transfer := some r.1 }))
    | _, _ => none
  | none => none
/-- The descriptor in flight moves up to burst `upto`, unless its chain has failed (R229, R234, R241). Secret data that may not go where
the descriptor takes it ends the chain before anything more is read (R238). With every burst moved the descriptor is done: its slots end
(R236), and a poisoned source ends the chain, the destination granules poisoned whole (Table 9.4). -/
def State.moveTo (s : State) (w ch upto : Nat) : State :=
  match s.chan w ch with
  | none => s
  | some h =>
    match h.chain with
    | none => s
    | some x =>
      match x.flight with
      | none => s
      | some (_, db) =>
        let d := parseDesc db
        let remote := h.port.isSome
        let bs := d.bursts remote
        let ready : Option (Nat × State) := if remote then s.chainId w ch else some (0, s)
        if x.fault.isSome then s else
        match ready with
        | none => s
        | some (id, s0) =>
          let now := (bs.take upto).drop x.done
          let hot := if d.op = 2 then [] else now.filter (fun b => s.secretAt h.ctx b.src b.len)
          let denied := if s.secretDest h.ctx d remote then none else hot.head?.map (fun b => (Status.addressFault, b.elemOff d))
          let s0 := if d.dmode = 1 then s0.markPuts (chanWho h.ctx w ch) (hot.flatMap (fun b => slotsOf b.dst b.len)) else s0
          let m := now.foldl (Moved.burst h.ctx d remote (d.overlaps remote)) ({ s := s0, fault := denied } : Moved)
          let covered (k : Nat) : Nat := ((bs.take k).map (fun b => b.len)).sum
          let start := x.moved - covered x.done
          let fs := (granules m.out).flatMap (granuleFlits h.window id)
          let s1 := match h.port with | some p => m.s.sendOn p id fs | none => m.s
          let x1 := { x with
            transfer := if remote then some id else none, flits := x.flits + fs.countP (fun (f : Flit) => f.ftype == 1)
            sentAt := if remote then (now.take m.n).foldl (fun (l : Tbl Nat) (b : Burst) =>
              if (l.get (b.dst / 256)).isSome then l else l.put (b.dst / 256) (start + b.elemOff d)) x.sentAt else []
            tainted := x.tainted || m.poisoned, bad := x.bad ++ m.bad
            mismatches := x.mismatches + m.mism, first := match x.first with | some f => some f | none => m.first.map (· + start) }
          match m.fault with
          | some f =>
            let mem := m.s
            let s1 := if f.1 == .addressFault && bs.any (fun b => b.elemOff d == f.2 && ((d.op != 2 && mem.foreign h.ctx b.src b.len)
              || (!remote && mem.foreign h.ctx b.dst b.len))) then s1.count 2 1 else s1
            (s1.scrambleDesc h.ctx d remote).setChain w ch { x1 with
              fault := some f.1, faultAt := start + f.2, done := x.done + m.n, moved := start + covered (x.done + m.n) }
          | none =>
            let s2 := x1.bad.foldl (fun (s : State) a => s.writePoison a 256) s1
            let x2 := { x1 with done := upto, moved := start + covered upto }
            if upto < bs.length then s2.setChain w ch x2
            else
              (s2.setChain w ch { x2 with
                flight := none, done := 0, toTake := [], tainted := false, bad := []
                fault := if x1.tainted then some .uncorrectableMemory else none, faultAt := x2.moved }).endAccesses (chanWho h.ctx w ch)
/-- The descriptor in flight can complete: its chain has not failed, and every slot it needs is its own. -/
def State.canFinish (s : State) (w ch : Nat) : Bool :=
  match s.chan w ch with
  | some h => match h.chain with
    | some x => x.flight.isSome && x.fault.isNone && x.toTake.isEmpty && s.allGranted (chanWho h.ctx w ch)
    | none => false
  | none => false
/-- The number of bursts of the descriptor in flight. -/
def Chain.burstCount (x : Chain) (remote : Bool) : Nat := match x.flight with | some f => ((parseDesc f.2).bursts remote).length | none => 0
/-- Bytes of the descriptor in flight that have not moved (R240). -/
def Chain.rest (x : Chain) (remote : Bool) : Nat :=
  match x.flight with
  | some f => (parseDesc f.2).bytes - ((((parseDesc f.2).bursts remote).take x.done).map (fun b => b.len)).sum
  | none => 0
/-- How the transfer of the descriptor in flight passed its checks, one retry included (R241, R449, R450): a failure leaves its
destination unspecified and ends the chain. -/
def State.flightChecked (s : State) (w ch : Nat) (data : Check) : State :=
  match s.chan w ch with
  | some h => match h.chain with
    | some x => match x.flight with
      | some f =>
        let d := parseDesc f.2
        let s1 := s.checked w (if d.op != 2 then d.src else if h.port.isSome then f.1 else d.dst) data
        if data = .fail then
          (s1.scrambleDesc h.ctx d h.port.isSome).setChain w ch { x with fault := some .integrityFault, faultAt := x.moved }
        else s1
      | none => s
    | none => s
  | none => s
/-- The descriptor in flight completes, when it can. -/
def State.finishFlight (s : State) (w ch : Nat) (data : Check) : State :=
  match s.chan w ch with
  | some h => match h.chain with
    | some x => if s.canFinish w ch then (s.flightChecked w ch data).moveTo w ch (x.burstCount h.port.isSome) else s
    | none => s
  | none => s
/-- A descriptor that can merge (R239): one run of at most 4 KiB, RAW on both sides. -/
def Desc.single (d : Desc) : Bool :=
  d.op == 1 && d.smode == 0 && d.dmode == 0 && d.cnt.drop 1 == [1, 1, 1] && d.ss.getD 0 0 == 1 && d.ds.getD 0 0 == 1 && decide (d.bytes ≤ 4096)
/-- The merged group that a descriptor joins, or none (R239); a remote destination holds no source byte (R229). -/
def joins (g : List (Nat × Nat × Nat)) (d : Desc) (remote : Bool) : Option (List (Nat × Nat × Nat)) :=
  let g1 := g ++ [(d.src, d.dst, d.bytes)]
  match g.getLast? with
  | some l =>
    if d.single && !d.nomerge && d.src == l.1 + l.2.2 && d.dst == l.2.1 + l.2.2 && decide ((g1.map (fun x => x.2.2)).sum ≤ 65536)
        && (remote || !g1.any (fun a => g1.any (fun b => decide (a.1 < b.2.1 + b.2.2 ∧ b.2.1 < a.1 + a.2.2)))) then some g1 else none
  | none => none
/-- The next descriptor is fetched and checked, and its slots are asked for; a fetch that fails ends the chain (R233, R235, R238). -/
def State.fetchDesc (s : State) (w ch : Nat) (chk : Check) : State :=
  match s.chan w ch with
  | some h =>
    match h.chain with
    | some x =>
      let remote := h.port.isSome
      let stop (s : State) (st : Status) (off : Nat) : State := s.setChain w ch { x with fault := some st, faultAt := x.moved + off }
      match x.desc with
      | none => s
      | some a =>
      if x.flight.isSome ∨ x.fault.isSome then s
      else if (h.port.map (fun p => (s.port p).st != .active)).getD false then stop s .linkDown 0
      else
        let s1 := s.checked w a chk
        match s1.descFault a chk remote with
        | some st => stop s1 st 0
        | none =>
          let b := s1.bytes a 64
          let d := parseDesc b
          if s1.secretSource h.ctx d && !s1.secretDest h.ctx d remote then
            stop (s1.scrambleDesc h.ctx d remote) .addressFault
              ((((d.walk.zipIdx.find? (fun p => s1.secretAt h.ctx p.1.1 d.size)).map (fun p => p.2)).getD 0) * d.size)
          else
            let g := match joins x.group d remote with | some g => g | none => if d.single then [(d.src, d.dst, d.bytes)] else []
            let x1 := { x with
              desc := if d.next = 0 then none else some d.next, flight := some (a, b), done := 0, toTake := d.slots remote, secret := s1.secretSource h.ctx d, group := g }
            (s1.setChain w ch x1).takeSlots w ch
    | none => s
  | none => s
/-- DESCRIPTOR_FETCH (R233 to R238, R241): the descriptor in flight completes when it can, its transfer checked as `chk.data` says, and the
next one is fetched. -/
def execDescriptorFetch (wing ch : Nat) (chk : FetchChecks) (s : State) : Res :=
  act s fun s =>
    match s.chan wing ch with
    | some h => if h.state = .active then (s.finishFlight wing ch chk.data).fetchDesc wing ch chk.fetch else s
    | none => s

/-! Starting and ending chains -/

/-- The bays of the group that a core channel's command may be placed on: they work for its context, or for none (R70, R230). -/
def State.dmBays (s : State) (w c : Nat) : List Nat :=
  (s.group w c).filter (fun b => !(s.bay b).applying && ((s.bay b).ctx == some c || (s.inFlight b == 0 && !s.bayPieces b)))
/-- Pieces given to a core. -/
def State.corePieces (s : State) (i : Nat) : Nat := ((s.core i).engines.map (fun g => g.2.pieces.length)).sum
/-- The DM engine of a chain on a bay (R230): that of the core whose carrel holds the first descriptor's destination, else its source,
else of the enabled core with the fewest queued pieces. DESIGN CHOICE, log entry 84: the lowest of those with equally few, and every
piece that the core's engines hold counts. -/
def State.dmCore (s : State) (bay a : Nat) : Nat :=
  let d := parseDesc (s.bytes a 64)
  let up := ((List.range 16).filter (fun j => (s.bay bay).cores.testBit j)).map (bay * 16 + ·)
  let on (v : Nat) : Option Nat := if isCarrel v then up.find? (· == (v - carrelBase) / 0x80000) else none
  let few := up.foldl (fun m i => if s.corePieces i < s.corePieces m then i else m) (up.headD (bay * 16))
  if (s.reach a 64).isSome then few else (on d.dst).getD ((if d.op = 2 then none else on d.src).getD few)
/-- A chain starts on an idle channel (R230, R231). Which bay the scheduler places a core channel's command on is open: DESIGN CHOICE, log
entry 84, a free one of those that may take it. -/
def State.startChain (s : State) (w ch c n k : Nat) (x : Chain) : State :=
  match s.chan w ch, s.entry c n k with
  | some h, some e =>
    let bs := s.dmBays w c
    match if h.bulk then none else bs[Config.free s.draw 8 % max 1 bs.length]? with
    | none => (s.setEntry c n k { e with phase := .issued, awaits := true }).setChan w ch { h with state := .active, chain := some x }
    | some b =>
      let t := ((({ s with draw := s.draw + 1 } : State).turnTo b c).getD s).setEntry c n k { e with phase := .issued, awaits := true, bay := some b }
      t.setChan w ch { h with state := .active, chain := some { x with core := some (t.dmCore b (x.desc.getD 0)) } }
  | _, _ => s
/-- Bytes that the next descriptor covers, 0 where none can be read. -/
def State.descBytes (s : State) (d : Option Nat) : Nat :=
  match d with
  | some a => if (s.reach a 64).isSome then 0 else (parseDesc (s.bytes a 64)).bytes
  | none => 0
/-- `desc` and `residue` of the record of a chain that ends here (Table 9.3); `clean`: between descriptors, by a `DESCRIPTOR` stop. -/
def State.chainAt (s : State) (h : Channel) (x : Chain) (clean : Bool) : Nat × Nat :=
  match x.flight with
  | some f => (f.1, x.rest h.port.isSome)
  | none => (x.desc.getD 0, if clean then 0 else s.descBytes x.desc)
/-- The stop record (Table 9.3). -/
def stopRecord (tag : Nat) (st : Status) (byDesc forced done : Bool) (stops desc residue moved : Nat) : List Byte :=
  leBytes 2 tag ++ [b8 st.code, b8 ((if byDesc then 1 else 0) + (if forced then 2 else 0) + if done then 4 else 0)] ++ leBytes 4 stops
    ++ leBytes 8 desc ++ leBytes 8 residue ++ leBytes 8 moved ++ zeros 32
/-- The next command that waits for a channel, among those that still wait (R230). -/
def State.nextWaiting (s : State) (c : Nat) : List (Nat × Nat) → Option (Nat × Nat × List (Nat × Nat))
  | [] => none
  | (n, k) :: rest =>
    match s.entry c n k with
    | some e => if e.phase = .waiting then some (n, k, rest) else s.nextWaiting c rest
    | none => s.nextWaiting c rest
/-- A chain ends with a status (R232, R240, R241): its command completes, a stop under way writes its record, posts its vector and
completes its stop commands, and the channel is idle. -/
def State.endChain (s : State) (w ch : Nat) (st : Status) (forced : Bool) : State :=
  match s.chan w ch with
  | none => s
  | some h =>
    match h.chain with
    | none => s
    | some x =>
      let c := h.ctx
      let stopping := h.state == .stopping
      let at_ := if st = .ok then (0, 0) else s.chainAt h x (st == .aborted && h.byDesc && !forced)
      let s1 := ((if st = .ok then s.endAccesses (entryWho c x.stream x.entry) else s).dropAccess (chanWho c w ch)).setChan w ch { h with
        state := .idle, chain := none, stopOwed := [], stops := if stopping then h.stops + 1 else h.stops }
      match s1.entry c x.stream x.entry with
      | none => s1
      | some e =>
        let aux := if st = .addressFault then x.faultAt else x.first.getD 0
        let dm := e.cmd.op == 0x502
        let out : Rec := if dm then { e.out with count := x.mismatches, cValid := true, aux := aux, aValid := true }
          else if st = .addressFault then { e.out with aux := aux, aValid := true } else e.out
        let e1 := { e with out := out }
        let s2 :=
          if stopping && !(s1.ctx c).wiping then
            let r := stopRecord e.cmd.tag st h.byDesc forced (st == .ok) (h.stops + 1) at_.1 at_.2 x.moved
            let s' := if (s1.reach h.status 64).isSome then s1 else s1.outWrite h.status r
            h.stopOwed.foldl (fun s o => s.complete o .ok []) (if h.fn = 0 then s'.irq 4 h.vector else s'.msi h.fn h.vector)
          else s1
        let s3 := s2.finish c x.stream x.entry e1 st
        if stopping then
          h.waiting.foldl (fun s q => match s.entry c q.1 q.2 with
            | some e => if e.phase = .waiting then s.finish c q.1 q.2 e .stopped else s
            | none => s) (match s3.chan w ch with | some h2 => s3.setChan w ch { h2 with waiting := [] } | none => s3)
        else s3
/-- The remote part of a chain is done: its signal flit, if it has one, has gone out, and every flit is acknowledged (R231, R256, R257). -/
def State.chainSignal (s : State) (w ch : Nat) : State :=
  match s.chan w ch with
  | some h =>
    match h.port, h.chain with
    | some p, some x =>
      match s.entry h.ctx x.stream x.entry with
      | some e =>
        if e.cmd.op = 0x502 ∧ e.cmd.signal ∧ !x.signalled then
          match s.chainId w ch with
          | none => s
          | some (i, s1) =>
            let f := flitOf 7 false h.window i 0 (leBytes 4 x.flits ++ leBytes 2 e.cmd.sigId ++ zeros 2 ++ leBytes 4 e.cmd.delta)
            (s1.sendOn p i [f]).setChain w ch { x with transfer := some i, signalled := true }
        else s
      | none => s
    | _, _ => s
  | none => s
/-- Nothing of a chain is left to do. -/
def State.chainDone (s : State) (w ch : Nat) : Bool :=
  match s.chan w ch with
  | some h =>
    match h.chain with
    | some x =>
      x.desc.isNone && x.flight.isNone && x.fault.isNone
        && (match h.port with
            | none => true
            | some p =>
              (match x.transfer with | some i => !(s.port p).owes h.window i | none => true)
                && (x.signalled || (match s.entry h.ctx x.stream x.entry with
                  | some e => !(e.cmd.op == 0x502 && e.cmd.signal) | none => true))
                && (x.transfer.isSome || (match s.entry h.ctx x.stream x.entry with
                  | some e => e.cmd.op == 0x502 | none => true)))
    | none => false
  | none => false

/-! Starting -/

/-- A port under test takes no new local chain (Table 18.6). -/
def State.portHeld (s : State) (p : Nat) : Bool := s.tests.any (fun t => t.cls == 2 && t.idx == p)
/-- The checks of `dm.go` (R231, R257). -/
def State.chkGo (s : State) (c : Nat) (x : Stream) (e : Entry) : Except Status (Nat × Channel) := do
  let a := bits e.cmd.imm 0 48
  let ch := bits e.cmd.imm 48 8
  need (e.handles [false, false, false, false]) .badParameter
  need (bits e.cmd.imm 56 72 == 0) .badParameter
  need (a % 64 == 0 && s.populated a && (match s.reach a 64 with | some .thermalHalt => true | r => r.isNone)
    && !s.secretHit a 64) .badParameter
  match s.ownChan c x.wing ch with
  | none => .error .badParameter
  | some h => do
    need (!(e.cmd.signal && (h.port.map (fun p => (s.port p).role == 2)).getD false)) .badParameter
    .ok (ch, h)
/-- A command of a stream takes its channel, or waits for it in order (R230). `start` is its chain. -/
def State.onChannel (s : State) (w ch c n k : Nat) (h : Channel) (start : Chain) : State :=
  if (h.port.map s.portHeld).getD false then s
  else if h.state = .idle ∧ (h.bulk ∨ s.dmBays w c ≠ []) then
    match s.nextWaiting c h.waiting with
    | none => (match s.chan w ch with | some h => s.setChan w ch { h with waiting := [] } | none => s).startChain w ch c n k start
    | some (n1, k1, rest) =>
      if n1 = n ∧ k1 = k then
        (s.setChan w ch { h with waiting := rest }).startChain w ch c n k start
      else if h.waiting.contains (n, k) then s else s.setChan w ch { h with waiting := h.waiting ++ [(n, k)] }
  else if h.waiting.contains (n, k) then s
  else s.setChan w ch { h with waiting := h.waiting ++ [(n, k)] }
/-- DM_GO (R230, R231): refused at issue, waiting for its channel, or under way. A core channel needs a bay (R197). -/
def execDmGo (c n k : Nat) (s : State) : Res :=
  act s fun s =>
    match s.issueReady c n k 0x502 with
    | none => s
    | some (x, e, _) =>
      match s.chkGo c x e with
      | .error st => s.finish c n k e st
      | .ok (ch, h) =>
        if !h.bulk ∧ s.group x.wing c = [] then s.finish c n k e (if s.admitting x.wing c = [] then .notReady else .unitAbsent)
        else s.onChannel x.wing ch c n k h { stream := n, entry := k, desc := some (bits e.cmd.imm 0 48) }

/-- DMA_CHAIN_END (R232, R240, R241, R256): a chain whose work is done, or that has failed, ends its command. -/
def execDmaChainEnd (wing : Nat) (ch : ChainEnd) (s : State) : Res :=
  act s fun s =>
    let data := ch.data
    let ch := ch.ch
    let s1 := s.finishFlight wing ch data
    match s1.chan wing ch with
    | some h =>
      match h.chain with
      | some x =>
        match x.fault with
        | some st => s1.endChain wing ch st false
        | none =>
          if x.desc.isSome ∨ x.flight.isSome then s1
          else
            let s2 := s1.chainSignal wing ch
            if s2.chainDone wing ch then s2.endChain wing ch .ok false else s2
      | none => s1
    | none => s1

/-! Stops -/

/-- The stop lands where the chain stands (R240): done, failed, or with the descriptor and the residue that the record names. -/
def State.stopHere (s : State) (w ch : Nat) (forced : Bool) : State :=
  match s.chan w ch with
  | some h =>
    match h.chain with
    | some x =>
      match x.fault with
      | some st => s.endChain w ch st forced
      | none =>
        if x.flight.isSome then s.endChain w ch (if x.tainted then .uncorrectableMemory else .aborted) forced
        else if x.desc.isNone then
          let s2 := s.chainSignal w ch
          if s2.chainDone w ch then s2.endChain w ch .ok forced else s2
        else s.endChain w ch .aborted forced
    | none => s
  | none => s
/-- How many bursts of the descriptor in flight have moved or may, the slots of those being granted. -/
def State.reachable (s : State) (c w ch : Nat) (x : Chain) (remote : Bool) : Nat :=
  match x.flight with
  | none => 0
  | some f =>
    let d := parseDesc f.2
    let mine (k : Nat) : Bool := (s.slot k).granted.any (fun r => r.who == chanWho c w ch)
    x.done + (((d.bursts remote).drop x.done).takeWhile (fun b => (d.smode == 0 || (slotsOf b.src b.len).all mine)
      && (d.dmode == 0 || remote || (slotsOf b.dst b.len).all mine))).length
/-- A `BURST` stop (R240): the channel stops after a burst of the descriptor in flight; which one is open, since the time of the stop is.
A descriptor that has read poison completes first, when it can (Table 9.4). -/
def State.stopBurst (s : State) (w ch : Nat) (forced : Bool) : State :=
  match s.chan w ch with
  | some h =>
    match h.chain with
    | some x =>
      let hi := s.reachable h.ctx w ch x h.port.isSome
      let t := x.done + Config.free s.draw 3 % (hi - x.done + 1)
      if x.flight.isSome && x.fault.isNone then
        let s1 := ({ s with draw := s.draw + 1 } : State).moveTo w ch t
        let dirty := ((s1.chan w ch).bind (fun h => h.chain)).any (fun y => y.tainted)
        (if dirty then s1.finishFlight w ch .pass else s1).stopHere w ch forced
      else s.stopHere w ch forced
    | none => s
  | none => s
/-- The rest of a merged group moves before a `DESCRIPTOR` stop (R239, R240). -/
def State.finishGroup (s : State) (w ch fuel : Nat) : State :=
  match fuel, s.chan w ch with
  | f + 1, some h =>
    match h.chain with
    | some x =>
      match x.desc with
      | none => s
      | some a =>
        if x.flight.isSome ∨ x.fault.isSome ∨ (s.descFault a .pass h.port.isSome).isSome then s
        else if (joins x.group (parseDesc (s.bytes a 64)) h.port.isSome).isSome then
          (((s.fetchDesc w ch .pass).finishFlight w ch .pass)).finishGroup w ch f
        else s
    | none => s
  | _, _ => s
/-- DMA_STOP_TAKES_EFFECT (R240). -/
def execDmaStopTakesEffect (wing ch : Nat) (s : State) : Res :=
  act s fun s =>
    match s.chan wing ch with
    | some h =>
      match h.chain with
      | some x =>
        if h.state ≠ .stopping then s
        else if !h.byDesc then s.stopBurst wing ch false
        else if x.flight.isSome && !s.canFinish wing ch then
          -- only a descriptor that waits on its first slot is withdrawn; one that has moved waits for its boundary
          if x.done = 0 && s.slots.all (fun p => p.2.granted.all (fun r => r.who != chanWho h.ctx wing ch)) then
            match x.flight with
            | some f => (s.setChain wing ch { x with flight := none, desc := some f.1, toTake := [] }).stopHere wing ch false
            | none => s
          else s
        else
          let s1 := s.finishFlight wing ch .pass
          -- a descriptor that waits for a transfer identifier has not reached its boundary
          if ((s1.chan wing ch).bind (fun h => h.chain)).any (fun y => y.flight.isSome && y.fault.isNone) then s1
          else (s1.finishGroup wing ch 65536).stopHere wing ch false
      | none => s
    | none => s
/-- DMA_STOP_FORCED (R240): 1 ms after a `DESCRIPTOR` stop request the channel stops as in `BURST`, and the record says so. -/
def execDmaStopForced (wing ch : Nat) (s : State) : Res :=
  act s fun s =>
    match s.chan wing ch with
    | some h => if h.state = .stopping ∧ h.byDesc then s.stopBurst wing ch true else s
    | none => s

/-! Slots -/

/-- A grant lets a channel take its next slot (R236). -/
def State.afterGrant (s : State) (who : Nat × Nat × Nat) : State :=
  if who.2.1 = 1 then s.takeSlots (who.2.2 / 256) (who.2.2 % 256) else s
/-- SLOT_ACCESS_GRANT (R64): the oldest stalled request that the slot's tag and its other accesses allow is granted. -/
def execSlotAccessGrant (slot : Nat) (s : State) : Res :=
  act s fun s =>
    match (s.slot slot).waiting.find? (s.slot slot).grants with
    | some r => (s.grantNext slot).afterGrant r.who
    | none => s
/-- A channel's access to a slot ends (R236): the bursts up to the descriptor's last one there move first, when they can. -/
def State.endChannelAccess (s : State) (slot : Nat) (r : SlotReq) : State :=
  let w := r.who.2.2 / 256
  let ch := r.who.2.2 % 256
  match s.chan w ch with
  | some h =>
    match h.chain with
    | some x =>
      match x.flight with
      | some f =>
        let d := parseDesc f.2
        let remote := h.port.isSome
        let here (b : Burst) : Bool := (d.smode != 0 && (slotsOf b.src b.len).contains slot) || (d.dmode != 0 && !remote && (slotsOf b.dst b.len).contains slot)
        let upto := (((d.bursts remote).zipIdx.filter (fun p => here p.1)).map (fun p => p.2 + 1)).foldl max 0
        if s.reachable h.ctx w ch x remote < upto ∨ x.fault.isSome then s
        else
          let s1 := if x.done < upto then s.moveTo w ch upto else s
          match (s1.slot slot).granted.find? (fun q => q.who == r.who && q.mode == r.mode) with
          | some q => s1.endAccess slot q
          | none => s1
      | none => s
    | none => s
  | none => s

end Sys2Proof.Machine
end

