-- ==== Sys2Proof/Machine/Ring.lean ====
section
/-! DEFINITION. Ciphertext arithmetic in evaluation form: the reading of keys (R82, R85, R86), the hybrid key switch (R77, R112),
and what each homomorphic operation does to residues (R110 to R117, R119). -/

namespace Sys2Proof.Machine

/-- A free number below n: value `i` of draw `s.draw` under a salt, for what R40 leaves to the module. -/
def State.freeIn (s : State) (salt i n : Nat) : Nat := Config.free s.draw (salt * 2 ^ 44 + i) % n

/-! Keys -/

/-- The seed of a key, in the header page of its first extent (R85). -/
def State.keySeed (s : State) (cd : Card) : List Byte := s.bytes (cd.extents.getD 0 0 + 64) 32
/-- Regenerated words of a seeded a block (R82). -/
def State.expandKey (s : State) (p : ParamSet) (cd : Card) (dg lb : Nat) : List Nat :=
  let q := p.prime lb
  expandWords (4 * p.n) q p.n
    (shake256 (s.keySeed cd ++ ascii "OLT-A" ++ leBytes 2 cd.keyIndex ++ leBytes 2 dg ++ leBytes 2 lb ++ [1]) (32 * p.n))
/-- One limb of a key's component in evaluation form: its stored block, its expansion, or unspecified residues when the block has been
overwritten (R82, R85, R86). -/
def State.keyLimb (s : State) (p : ParamSet) (cd : Card) (salt dg lb cp : Nat) : List Nat :=
  let q := p.prime lb
  let fr (k : Nat) : Nat := s.freeIn salt (2 ^ 40 + ((dg * 128 + lb) * 2 + cp) * 2 ^ 17 + k) q
  match (storedBlocks p cd).findIdx? (· == (dg, if hybrid cd.keyKind then pairOf p.split lb else 0, cp)) with
  | some b =>
    let changed := cd.altersBlock p b
    (List.range p.n).map (fun k =>
      let v := unpack p.split lb (s.num (blockAddr p cd b + 8 * k) 8)
      if v < q && !changed then v else fr k)
  | none => s.expandKey p cd dg lb

/-! Limb maps -/

/-- A function of the prime on each limb, and on each pair of limbs. -/
def ParamSet.limbs (p : ParamSet) (f : Nat → List Nat → List Nat) (c : List (List Nat)) : List (List Nat) :=
  c.zipIdx.map (fun x => f (p.prime x.2) x.1)
def ParamSet.limbs2 (p : ParamSet) (f : Nat → List Nat → List Nat → List Nat) (a b : List (List Nat)) : List (List Nat) :=
  (a.zip b).zipIdx.map (fun x => f (p.prime x.2) x.1.1 x.1.2)
/-- An integer polynomial as the limbs of a level. -/
def ParamSet.lift (p : ParamSet) (level : Nat) (v : List Int) : List (List Nat) :=
  (List.range (level + 1)).map (fun i => nttFwd (p.prime i) p.log2n (v.map (modInt (p.prime i))))
/-- The integers of limbs in coefficient form, in [0, product) (CRT), and centred. -/
def ParamSet.unlift (p : ParamSet) (limbs : List (List Nat)) : List Nat :=
  let qs := (List.range limbs.length).map p.prime
  (column (p.limbs (fun q x => nttInv q p.log2n x) limbs) p.n).map (crt qs)
def ParamSet.unliftC (p : ParamSet) (limbs : List (List Nat)) : List Int :=
  let Q := prod ((List.range limbs.length).map p.prime)
  (p.unlift limbs).map (fun x => if 2 * x < Q then (x : Int) else (x : Int) - Q)
/-- A ciphertext read at a lower level (R97). -/
def Ct.cut (a : Ct) (level : Nat) : Ct := { level := level, comps := a.comps.map (fun c => c.take (level + 1)) }
/-- A function on every component. -/
def Ct.map (a : Ct) (f : List (List Nat) → List (List Nat)) : Ct := { a with comps := a.comps.map f }
/-- v centred into (−t/2, t/2]. -/
def centreT (t v : Nat) : Int := let x := v % t; if 2 * x ≤ t then (x : Int) else (x : Int) - t
/-- Every residue times an integer (R119). -/
def Ct.scaleBy (p : ParamSet) (a : Ct) (c : Int) : Ct := a.map (p.limbs (fun q x => scaleL q (modInt q c) x))

/-! Operations -/

/-- Addition and subtraction; a third component of one operand is carried, negated from B in a subtraction (R110). -/
def Ct.add (p : ParamSet) (sub : Bool) (a b : Ct) : Ct :=
  let l := min a.level b.level
  let a := a.cut l
  let b := b.cut l
  { level := l
    comps := (List.range (max a.comps.length b.comps.length)).map (fun k =>
      match a.comps[k]?, b.comps[k]? with
      | some x, some y => p.limbs2 (if sub then subL else addL) x y
      | some x, none => x
      | none, some y => if sub then p.limbs negL y else y
      | none, none => []) }
/-- Negation (R110). -/
def Ct.neg (p : ParamSet) (a : Ct) : Ct := a.map (p.limbs negL)
/-- The integer by which a plaintext is multiplied before it is added (R111): the correction factor modulo t, ⌊Q_ℓ/t⌋, or 1. -/
def plainFactor (p : ParamSet) (scale level : Nat) : Nat :=
  match p.scheme with
  | 2 => scale % p.t
  | 3 => prod (p.qs.take (level + 1)) / p.t
  | _ => 1
/-- A plaintext is added into or subtracted from c0 (R111). -/
def Ct.addPlain (p : ParamSet) (sub : Bool) (scale : Nat) (a : Ct) (m : List (List Nat)) : Ct :=
  let k := plainFactor p scale a.level
  { a with comps := a.comps.zipIdx.map (fun x =>
      if x.2 = 0 then p.limbs2 (fun q u v => (if sub then subL else addL) q u (scaleL q (k % q) v)) x.1 m else x.1) }
/-- Every component times a plaintext (R111). -/
def Ct.mulPlain (p : ParamSet) (a : Ct) (m : List (List Nat)) : Ct := a.map (fun c => p.limbs2 mulL c m)
/-- Sum of two components. -/
def ParamSet.plus (p : ParamSet) (a b : List (List Nat)) : List (List Nat) := p.limbs2 addL a b
/-- The tensor product (R112): pointwise for CKKS and BGV; for BFV the integer product times t/Q_ℓ, rounded. -/
def Ct.tensor (p : ParamSet) (a b : Ct) : Ct :=
  let l := min a.level b.level
  let a := a.cut l
  let b := b.cut l
  let c (x : Ct) (k : Nat) : List (List Nat) := x.comps.getD k []
  if p.scheme = 3 then
    let z (x : Ct) (k : Nat) : List Int := p.unliftC (c x k)
    let Q := prod (p.qs.take (l + 1))
    let out (v : List Int) : List (List Nat) := p.lift l (v.map (fun y => roundEvenI (y * p.t) Q))
    let sum (u v : List Int) : List Int := List.zipWith (· + ·) u v
    { level := l
      comps := [out (negMul (z a 0) (z b 0)), out (sum (negMul (z a 0) (z b 1)) (negMul (z a 1) (z b 0))), out (negMul (z a 1) (z b 1))] }
  else
    let m := p.limbs2 mulL
    { level := l, comps := [m (c a 0) (c b 0), p.plus (m (c a 0) (c b 1)) (m (c a 1) (c b 0)), m (c a 1) (c b 1)] }

/-- The digits of a component: for each, its chain indices and its integer coefficients up to a multiple of its product, which the
fast conversion leaves open (R77, R116). -/
def State.digitsOf (s : State) (p : ParamSet) (level salt : Nat) (d : List (List Nat)) : List (List Nat × List Int) :=
  let coef := p.limbs (fun q x => nttInv q p.log2n x) d
  (List.range (p.digits level)).map (fun g =>
    let ix := p.digit level g
    let qs := ix.map p.prime
    let Q : Int := prod qs
    (ix, (column (ix.map (fun i => coef.getD i [])) p.n).zipIdx.map (fun x =>
      (crt qs x.1 : Int) + ((s.freeIn salt (g * 2 ^ 20 + x.2) (ix.length + 1) : Int) - 1) * Q)))
/-- ModDown by P of an accumulator over the limbs of a level and the P limbs: rounded, up to a multiple of P that the conversion
leaves open; for BGV by a multiple of t (R103, R112). -/
def State.modDown (s : State) (p : ParamSet) (level salt : Nat) (acc : List (Nat × List Nat)) : List (List Nat) :=
  let P := prod p.ps
  let ints := (column ((acc.drop (level + 1)).map (fun x => nttInv (p.prime x.1) p.log2n x.2)) p.n).zipIdx.map (fun x =>
    let r : Int := (crt p.ps x.1 : Int) + ((s.freeIn salt (2 ^ 30 + x.2) (p.K + 1) : Int) - 1) * P
    if p.scheme = 2 then r + P * centreT p.t (modInt p.t (-r) * invMod p.t P) else r)
  (acc.take (level + 1)).map (fun x =>
    let q := p.prime x.1
    scaleL q (invMod q P) (subL q x.2 (nttFwd q p.log2n (ints.map (modInt q)))))
/-- The inner products of extended digits, under an automorphism g, with a key, brought down by P (R77, R113). -/
def State.innerProduct (s : State) (p : ParamSet) (level : Nat) (cd : Card) (salt g : Nat) (d : List (List Nat))
    (dig : List (List Nat × List Int)) : List (List (List Nat)) :=
  let ix := List.range (level + 1) ++ (List.range p.K).map (· + p.L)
  [0, 1].map (fun cp =>
    s.modDown p level (2 * salt + cp + 1) (ix.map (fun j =>
      let q := p.prime j
      (j, dig.zipIdx.foldl (fun acc x =>
        let e := if x.1.1.contains j then d.getD j [] else nttFwd q p.log2n (x.1.2.map (modInt q))
        addL q acc (mulL q (autoEval p.log2n g e) (s.keyLimb p cd salt x.2 j cp))) (List.replicate p.n 0)))))
/-- The key switch of a component: two components over the limbs of the level (R77, R112). -/
def State.keySwitch (s : State) (p : ParamSet) (level : Nat) (cd : Card) (salt : Nat) (d : List (List Nat)) : List (List (List Nat)) :=
  s.innerProduct p level cd salt 1 d (s.digitsOf p level salt d)
/-- Relinearisation: d2 is switched and added into d0 and d1 (R112). -/
def State.relin (s : State) (p : ParamSet) (cd : Card) (salt : Nat) (a : Ct) : Ct :=
  let k := s.keySwitch p a.level cd salt (a.comps.getD 2 [])
  { a with comps := [p.plus (a.comps.getD 0 []) (k.getD 0 []), p.plus (a.comps.getD 1 []) (k.getD 1 [])] }
/-- σ_g of both components, switched back to s, on a shared decomposition of c1 (R113). -/
def State.rotateH (s : State) (p : ParamSet) (cd : Card) (salt : Nat) (a : Ct) (dig : List (List Nat × List Int)) : Ct :=
  let g := cd.aux
  let k := s.innerProduct p a.level cd salt g (a.comps.getD 1 []) dig
  { a with comps := [p.plus ((a.comps.getD 0 []).map (autoEval p.log2n g)) (k.getD 0 []), k.getD 1 []] }
/-- One rotation (R113). -/
def State.rotate (s : State) (p : ParamSet) (cd : Card) (salt : Nat) (a : Ct) : Ct :=
  s.rotateH p cd salt a (s.digitsOf p a.level salt (a.comps.getD 1 []))
/-- The highest limb is removed with scaling (R114). -/
def Ct.rescale (p : ParamSet) (a : Ct) : Ct :=
  let l := a.level
  let ql := p.prime l
  { level := l - 1
    comps := a.comps.map (fun c =>
      let top := (nttInv ql p.log2n (c.getD l [])).map (fun x =>
        let v := centre ql x
        if p.scheme = 2 then v + ql * centreT p.t (modInt p.t (-v) * invMod p.t ql) else v)
      p.limbs (fun q x => scaleL q (invMod q ql) (subL q x (nttFwd q p.log2n (top.map (modInt q))))) (c.take l)) }
/-- Limb 0 as centred integers, reduced modulo the primes up to a level (R115). -/
def Ct.modraise (p : ParamSet) (a : Ct) (level : Nat) : Ct :=
  let q0 := p.prime 0
  { level := level
    comps := a.comps.map (fun c => c.take 1 ++ (p.lift level ((nttInv q0 p.log2n (c.getD 0 [])).map (centre q0))).drop 1) }
/-- The product by X^(N/2) (R132): the monomial's evaluation form. -/
def Ct.monomial (p : ParamSet) (a : Ct) : Ct :=
  let x := (List.range p.n).map (fun i => if i = p.n / 2 then 1 else 0)
  a.map (p.limbs (fun q c => mulL q c (nttFwd q p.log2n x)))
/-- A constant is added in every slot (Table 5.3 `ADDC`): an integer in c0's coefficient 0. -/
def Ct.addConst (p : ParamSet) (a : Ct) (v : Int) : Ct :=
  { a with comps := a.comps.zipIdx.map (fun x =>
      if x.2 = 0 then p.limbs (fun q c => c.map (fun y => (y + modInt q v) % q)) x.1 else x.1) }
/-- The linear transform by baby and giant steps (R117): `diag k` are the limbs of the diagonal polynomial k. -/
def State.linear (s : State) (p : ParamSet) (salt n1 n2 : Nat) (keys : List Card) (diag : Nat → List (List Nat)) (a : Ct) : Ct :=
  let none' : Card := { kind := .key }
  let dig := s.digitsOf p a.level salt (a.comps.getD 1 [])
  let baby := a :: (List.range (n1 - 1)).map (fun i => s.rotateH p (keys.getD i none') (salt + 8 * (i + 1)) a dig)
  let giant (j : Nat) : Ct :=
    (baby.zipIdx.map (fun x => x.1.mulPlain p (diag (j * n1 + x.2)))).foldl (fun acc y => if acc.comps.isEmpty then y else acc.add p false y)
      { level := a.level, comps := [] }
  (List.range n2).foldl (fun acc j =>
    let g := giant j
    let y := if j = 0 then g else s.rotate p (keys.getD (n1 - 1 + (j - 1)) none') (salt + 8 * (n1 + j)) g
    if acc.comps.isEmpty then y else acc.add p false y) { level := a.level, comps := [] }

/-- Fast base conversion of one coefficient (R116). -/
def bconv (qa : List Nat) (x : List Nat) (pj : Nat) : Nat :=
  let Q := prod qa
  ((List.zipWith (fun q v => v * invMod q (Q / q % q) % q * (Q / q)) qa x).sum) % pj

end Sys2Proof.Machine
end

