-- ==== Sys2Proof/Machine/Plans.lean ====
section
/-! DEFINITION. Refresh plans (R125 to R129): their registration, the bookkeeping of the macro, its primitives (R132), and the verdict of
a homomorphic command with auto-refresh (R107, R109, R137). -/

namespace Sys2Proof.Machine

/-! The EvalMod program -/

/-- A step word (Table 5.3), refused when a field it does not use is nonzero. -/
def parseStep (w : Nat) : Option EvalStep :=
  let op := bits w 0 4
  let b := bits w 10 3
  let k := bits w 13 8
  if 8 ≤ op ∨ w / 2 ^ 21 ≠ 0 ∨ (b ≠ 0 ∧ op ≠ 1 ∧ op ≠ 2 ∧ op ≠ 3) ∨ (k ≠ 0 ∧ op ≠ 4 ∧ op ≠ 5) then none
  else some { op := op, d := bits w 4 3, a := bits w 7 3, b := b, k := k }
/-- The steps of a program up to its END (R126). -/
def parseSteps : List Nat → Option (List EvalStep)
  | [] => none
  | w :: r =>
    match parseStep w with
    | none => none
    | some t => if t.op = 0 then some [] else (parseSteps r).map (t :: ·)
/-- The constant of `he.scale` CONST on CKKS: round(c · 2^e), when c is finite and the result acceptable (R119). -/
def scaleConst (x e : Nat) : Option Int :=
  if !fisFinite fp64 x || decide (62 < e) then none else
  let r := fratio fp64 x
  let n := roundEven (r.2.1 * 2 ^ e) r.2.2
  if 1 ≤ n ∧ n < 2 ^ 63 then some (if r.1 then -(n : Int) else n) else none
/-- A signed number as a primitive's argument. -/
def argOf (v : Int) : Nat := (v + 2 ^ 64).toNat
def intOf (a : Nat) : Int := (a : Int) - 2 ^ 64

/-- Primitives of the macro that no stream command names. -/
def pAddc : Nat := 1
def pCopy : Nat := 2
def pMono : Nat := 3

/-- Registers of a trace: level and scale of each register written. -/
abbrev Regs := Tbl (Nat × Nat)
/-- One step's bookkeeping: its primitive and the registers after it, or nothing when a command refuses it (R127), the capacity test of
R107 under a message bound included. -/
def evalStep (q : ParamSet) (bm : Nat) (consts : List (Nat × Nat)) (st : Regs × List Prim) (t : EvalStep) : Option (Regs × List Prim) :=
  let r := st.1
  let put (l sc op arg : Nat) : Option (Regs × List Prim) :=
    if capBad q bm l sc then none else some (r.put t.d (l, sc), st.2 ++ [{ op := op, d := t.d, a := t.a, b := t.b, arg := arg }])
  match r.get t.a with
  | none => none
  | some (l, sc) =>
    let k := consts.getD t.k (0, 0)
    match t.op with
    | 1 => (r.get t.b).bind (fun y => put (min l y.1) (fmul fp64 0 sc y.2).1 0x106 0)
    | 2 => (r.get t.b).bind (fun y => if y.2 = sc then put (min l y.1) sc 0x100 0 else none)
    | 3 => (r.get t.b).bind (fun y => if y.2 = sc then put (min l y.1) sc 0x101 0 else none)
    | 4 => (scaleConst k.1 k.2).bind (fun v => put l (fmul fp64 0 sc (fround fp64 false (2 ^ k.2) 1).1).1 0x110 (argOf v))
    | 5 => put l sc pAddc (argOf (encodeInt (fmul fp64 0 k.1 sc).1).1)
    | 6 =>
      let z := (fdivNat fp64 0 sc (q.prime l)).1
      if 1 ≤ l ∧ !scaleBelow z then put (l - 1) z 0x10A 0 else none
    | 7 => put l sc pCopy 0
    | _ => none
/-- The whole program from V0 at a level and scale: its primitives, and V0's level and scale at its end. -/
def Plan.run (p : Plan) (q : ParamSet) (bm level scale : Nat) : Option (List Prim × Nat × Nat) :=
  match p.steps.foldlM (evalStep q bm p.consts) (([(0, (level, scale))] : Regs), []) with
  | some (r, ps) => (r.get 0).map (fun v => (ps, v.1, v.2))
  | none => none

/-! The macro's bookkeeping (R127, Table 5.4) -/

/-- A stage: `he.lin` by its diagonals' scale, then `he.rescale`, each within the capacity test. -/
def stageScale (q : ParamSet) (bm : Nat) (lv : Nat × Nat) (dscale : Nat) : Option (Nat × Nat) :=
  let z := (fmul fp64 0 lv.2 dscale).1
  let y := (fdivNat fp64 0 z (q.prime lv.1)).1
  if 1 ≤ lv.1 ∧ !capBad q bm lv.1 z ∧ !scaleBelow y ∧ !capBad q bm (lv.1 - 1) y then some (lv.1 - 1, y) else none
/-- The levels and scales at which EvalMod begins, and at which the macro ends, every command of it within its checks under a message
bound: the context's at registration, and 0, which none exceeds, once the plan stands. -/
def Plan.trace (p : Plan) (q : ParamSet) (bm : Nat) (dscale : Nat → Nat) : Option ((Nat × Nat) × Nat × Nat) :=
  match (p.cts.map (fun (t : Stage) => dscale t.diag)).foldlM (stageScale q bm) (q.L - 1, p.scaleIn) with
  | none => none
  | some a =>
    match p.run q bm a.1 a.2 with
    | none => none
    | some (_, l, sc) => ((p.stc.map (fun (t : Stage) => dscale t.diag)).foldlM (stageScale q bm) (l, sc)).map (fun z => (a, z))
/-- Level after EvalMod. -/
def Plan.midLevel (p : Plan) (q : ParamSet) : Nat := q.L - 1 - p.cts.length - p.modLevels
/-- The macro ends as the record says (R127). -/
def Plan.traceOk (p : Plan) (q : ParamSet) (bm : Nat) (dscale : Nat → Nat) : Bool :=
  match p.trace q bm dscale with
  | some (a, z) => ((p.run q bm a.1 a.2).map (fun v => v.2.1)) == some (p.midLevel q) && z == (p.outLevel q, p.scaleOut)
  | none => false

/-- Fold keys (Table 5.1). -/
def Plan.folds (p : Plan) (q : ParamSet) : Nat := q.log2n - 1 - p.log2slots
/-- The primitives of one refresh of operand `pos` (Table 5.4). Registers 0 to 7 and 8 to 15 are the program's on the two ciphertexts,
20 and 21 the macro's; every operand has 32 of its own. Where Split leaves one ciphertext (`log2slots` below log2 N − 1), Table 5.4 does
not say how its two halves join: DESIGN CHOICE, X^(N/2) times (conjugate − itself) is added to (itself + conjugate), in that order of the
`he.sub`. Log entry 62. -/
def Plan.prims (p : Plan) (q : ParamSet) (dscale : Nat → Nat) (pos : Nat) (drop c2s : Bool) : List Prim :=
  let raise : List Prim :=
    if drop then [⟨0x10B, 20, pos, 1, 0⟩, ⟨0x10C, 20, 20, 0, q.L - 1⟩] else [⟨0x10C, 20, pos, 1, q.L - 1⟩]
  let full := p.folds q == 0
  let stages (n base src : Nat) : List Prim :=
    (List.range n).flatMap (fun i => [⟨0x10E, 20, if i = 0 then src else 20, 0, base + i⟩, ⟨0x10A, 20, 20, 0, 0⟩])
  let fold : List Prim := (List.range (p.folds q)).flatMap (fun j => [⟨0x108, 21, 20, 0, p.fold + j⟩, ⟨0x100, 20, 20, 21, 0⟩])
  let split : List Prim :=
    [⟨0x108, 21, 20, 0, p.conj⟩, ⟨0x100, 0, 20, 21, 0⟩, ⟨0x101, 8, 21, 20, 0⟩, ⟨pMono, if full then 8 else 0, 8, 0, if full then 0 else 1⟩]
  let prog : List Prim := match p.trace q 0 dscale with
    | some (a, _) => ((p.run q 0 a.1 a.2).map (fun v => v.1)).getD []
    | none => []
  let eval : List Prim := if full then prog.flatMap (fun x => [x, { x with d := x.d + 8, a := x.a + 8, b := x.b + 8 }]) else prog
  let combine : List Prim := if full then [⟨pMono, 8, 8, 0, 0⟩, ⟨0x100, 20, 0, 8, 0⟩] else []
  let body := raise ++ stages p.cts.length 0 20 ++ fold ++ split ++ eval ++ combine
    ++ (if c2s then [] else stages p.stc.length 64 (if full then 20 else 0))
  -- a raise from the operand's card has b = 1 and the operand's position as its source
  body.map (fun x =>
    { x with d := x.d + 32 * pos, a := if (x.op == 0x10B || x.op == 0x10C) && x.b == 1 then x.a else x.a + 32 * pos
             b := if x.op == 0x10B || x.op == 0x10C then x.b else x.b + 32 * pos })
/-- The register that holds a refresh's result. -/
def Plan.outReg (p : Plan) (q : ParamSet) (pos : Nat) (c2s : Bool) : Nat := 32 * pos + if c2s && p.folds q != 0 then 0 else 20

/-- Keys and diagonals that a plan names (R131). -/
def State.planKeys (s : State) (c : Nat) (p : Plan) (q : ParamSet) : List Card :=
  let hs := [p.relin, p.conj] ++ (List.range (p.folds q)).map (· + p.fold)
    ++ (p.cts ++ p.stc).flatMap (fun t => (List.range (t.n1 + t.n2 - 2)).map (· + t.keys))
  hs.filterMap (s.card c)
def State.planDiags (s : State) (c : Nat) (p : Plan) : List Card := (p.cts ++ p.stc).filterMap (fun t => s.card c t.diag)
def State.diagScale (s : State) (c h : Nat) : Nat := ((s.card c h).map (fun x => x.scale)).getD 0

/-- Keys that a primitive streams (Table 5.4). The two EvalMod ciphertexts share a pass (R133), which the first one takes. -/
def Plan.primKeys (p : Plan) (x : Prim) : List Nat :=
  if x.op = 0x108 then [x.arg]
  else if x.op = 0x106 then (if x.d % 32 < 8 then [p.relin] else [])
  else if x.op = 0x10E then
    match if x.arg < 64 then p.cts[x.arg]? else p.stc[x.arg - 64]? with
    | some t => (List.range (t.n1 + t.n2 - 2)).map (· + t.keys)
    | none => []
  else []

/-! Scratch (R133, R134) -/

/-- Refreshes of a plan in flight. -/
def Ctx.jobsOf (x : Ctx) (id : Nat) : List Job :=
  x.streams.flatMap (fun t => t.2.window.filterMap (fun e => if e.2.phase == .issued then e.2.job.filter (fun j => j.plan == id) else none))
/-- Where a refresh keeps its intermediates: carrels when it may, else the first free scratch slot, or none free. -/
def State.placeJob (s : State) (c id : Nat) (p : Plan) (q : ParamSet) (prims : List Prim) : Job :=
  let held := (s.ctx c).jobsOf id
  let carrel := p.carrel && held.isEmpty && decide (refreshSlots q ≤ (s.boundFree p.wing c).length)
  let free := (List.range p.scratchSlots).find? (fun k => held.all (fun j => j.inCarrel || j.scratch != k))
  { plan := id, prims := prims, regs := [], inCarrel := carrel, scratch := free.getD p.scratchSlots }
/-- The range test of a refresh (R131). -/
def rangeFails (x : Ctx) (p : Plan) (q : ParamSet) (v : Nat) : Bool :=
  decide (256 * (Nat.log2 (q.prime 0) : Int) - p.margin < oplus (scaleBits true p.scaleIn + x.bm) v) || v == 0xFFFF
/-- What ends a refresh at its checks 6 to 8 (R131, R135): `v` the estimate of its operand, `d` its result. -/
def State.refreshFate (s : State) (c : Nat) (p : Plan) (q : ParamSet) (v : Nat) (d : Card) (poisoned : Bool) : Option Status :=
  if poisoned || (s.planDiags c p).any (fun k => k.poison) then some .poisonedInput
  else if capFails (s.ctx c) q d then some .levelExhausted
  else if precFails q d || rangeFails (s.ctx c) p q v then some .noiseExhausted
  else none
/-- The refresh of one operand of an auto-refresh (R109, R130, R131, R137): the status that refuses it, or what ends it at issue. -/
def State.refreshCheck (s : State) (c : Nat) (p : Plan) (q : ParamSet) (a : Card) : Except Status (Option Status) := do
  need (a.comps == 2 && !a.raised) .badParameter
  need (p.set == a.set && a.scale == p.scaleIn) .parameterMismatch
  need ((s.planKeys c p q).all (fun k => !k.damaged)) .uncorrectableMemory
  .ok (s.refreshFate c p q a.noise (p.refreshed q a) false)
/-- The refreshes of every operand: the first that does not end with OK decides. -/
def State.refreshChecks (s : State) (c : Nat) (p : Plan) (q : ParamSet) : List Card → Except Status (Option Status)
  | [] => .ok none
  | a :: r => match s.refreshCheck c p q a with
    | .ok none => s.refreshChecks c p q r
    | z => z

/-- The verdict of a homomorphic command from its bookkeeping (R107), with auto-refresh of its ciphertext operands (R109, R137). The wrap test
of R154 alone, which is none of R107's, starts no refresh (DEDUCED, log entry 68). -/
def State.heVerdict (s : State) (c : Nat) (t : Stream) (p : ParamSet) (ops : List Card) (build : List Card → Except Status HeOut) : Checked :=
  let x := s.ctx c
  match build ops with
  | .error e => .error e
  | .ok o =>
    let fail (o : HeOut) : Option Status :=
      if o.cap then some .levelExhausted else if o.prec || o.wrap then some .noiseExhausted else none
    let v : Verdict := { dests := o.dests, keys := o.keys, level := o.level }
    if o.poisoned then .ok { v with fate := some .poisonedInput }
    else match fail o with
      | none => .ok v
      | some st =>
        match x.autoRefresh && p.scheme == 1 && (o.cap || o.prec), x.planFor ((ops.headD { kind := .clear }).accession) t.wing with
        | true, some (id, plan) =>
          match s.refreshChecks c plan p ops, build (ops.map (plan.refreshed p)) with
          | .error e, _ => .error e
          | .ok (some e), _ => .ok { v with fate := some e }
          | .ok none, .error e => .error e
          | .ok none, .ok o2 =>
            let v2 : Verdict := { dests := o2.dests, keys := o2.keys, level := o2.level, fate := fail o2 }
            let prims := ops.zipIdx.flatMap (fun a => plan.prims p (s.diagScale c) a.2 (decide (0 < a.1.level)) false)
            if v2.fate.isSome then .ok v2 else
            let jb := { s.placeJob c id plan p prims with keys := o2.keys, level := o2.level }
            let k := plan.primKeys (prims.headD ⟨0, 0, 0, 0, 0⟩)
            .ok { v2 with job := some jb, keys := k, level := 0 }
        | _, _ => .ok { v with fate := some st }

/-! Registration -/

/-- A stage entry, refused when its reserved bytes are not zero (Table 5.2). -/
def parseStage (b : List Byte) (i : Nat) : Option Stage :=
  let a := 64 + 16 * i
  if zeroAt b (a + 6) 10 then some { diag := fld b a 2, keys := fld b (a + 2) 2, n1 := fld b (a + 4) 1, n2 := fld b (a + 5) 1 } else none
/-- `n` records of `len` bytes, in order. -/
def recordsOf (len : Nat) : Nat → List Byte → List (List Byte)
  | 0, _ => []
  | n + 1, b => b.take len :: recordsOf len n (b.drop len)
/-- The program and constants of a program card (R126). -/
def State.readProgram (s : State) (c h : Nat) : Except Status (List EvalStep × List (Nat × Nat)) :=
  match s.card c h with
  | none => .error .badParameter
  | some cd =>
    if cd.kind ≠ .clear ∨ cd.rank ≠ 1 ∨ cd.pitch.getD 0 0 ≠ 1 ∨ cd.slotCount * cd.elem.size ≠ 5120 then .error .badParameter
    else match s.get c cd.base cd.base 5120 with
      | .error e => .error e.1
      | .ok b =>
        let consts := recordsOf 16 256 (b.drop 1024)
        if consts.any (fun r => !zeroAt r 9 7) then .error .badParameter
        else match parseSteps ((recordsOf 4 256 b).map leNat) with
          | none => .error .badParameter
          | some st => .ok (st, consts.map (fun r => (fld r 0 8, fld r 8 1)))
/-- A key of a plan: kind, home wing and g (R127). -/
def planKeyOk (wing kind : Nat) (g : Option Nat) (k : Option Card) : Bool :=
  match k with
  | some k => k.kind == .key && k.keyKind == kind && k.wing == wing && (match g with | some g => k.aux == g | none => true)
  | none => false
/-- A stage's diagonals and keys suit it (R117). -/
def State.stageOk (s : State) (c wing level : Nat) (q : ParamSet) (t : Stage) : Bool :=
  (match s.card c t.diag with
   | some d => d.kind == .plaintext && d.layout == .bitrev && decide (t.n1 * t.n2 ≤ d.polys ∧ level ≤ d.level)
   | none => false)
  && decide (1 ≤ t.n1 ∧ 1 ≤ t.n2 ∧ t.n1 * t.n2 ≤ q.n / 2 ∧ t.keys + (t.n1 + t.n2 - 2) ≤ 65536)
  && (t.n1 + t.n2 != 2 || t.keys == 0)
  && ((List.range (t.n1 - 1)).map (fun i => (i, i + 1)) ++ (List.range (t.n2 - 1)).map (fun j => (t.n1 - 1 + j, (j + 1) * t.n1))).all (fun r =>
      planKeyOk wing kGalois (some (powMod (2 * q.n) 5 r.2)) (s.card c (t.keys + r.1)))
/-- The scratch extent lies where it may (R127). -/
def State.scratchOk (s : State) (c wing a slots : Nat) (q : ParamSet) : Bool :=
  let n := slots * scratchBytes q
  a % 65536 == 0 && decide (dpaStack a / 4 = wing ∧ a < 2 ^ 40 ∧ a % 2 ^ 36 + n ≤ s.grade.stackBytes)
    && !s.hitsKey c 65536 a n && !s.hitsCard c 65536 a n (fun y => y.place == .hbm)

/-- The plan that a record spells, or why it is refused with BAD_PARAMETER, PARAMETER_MISMATCH or KEY_MISMATCH (R127, R128). -/
def State.planOf (s : State) (c : Nat) (b : List Byte) : Except Status (Nat × Plan) :=
  let n1 := fld b 18 1
  let n2 := fld b 19 1
  let bad : Except Status (Nat × Plan) := .error .badParameter
  match s.pset c (fld b 4 4), (List.range (n1 + n2)).mapM (parseStage b) with
  | some q, some st =>
    if b.length ≠ 64 + 16 * (n1 + n2) then bad
    else match s.readProgram c (fld b 50 2) with
      | .error e => .error e
      | .ok pr =>
        let p : Plan :=
          { set := fld b 4 4, accession := fld b 8 8, wing := fld b 16 1, log2slots := fld b 17 1, modLevels := fld b 20 1
            scratchSlots := fld b 21 1, carrel := (fld b 22 1).testBit 0, scaleIn := fld b 24 8, scaleOut := fld b 32 8
            margin := fld b 40 2, err := fld b 42 2, relin := fld b 44 2, conj := fld b 46 2, fold := fld b 48 2
            program := fld b 50 2, scratch := fld b 56 8, cts := st.take n1, stc := st.drop n1, steps := pr.1, consts := pr.2 }
        let used := n1 + n2 + p.modLevels
        if fld b 0 4 = 0 ∨ q.scheme ≠ 1 ∨ q.K = 0 ∨ p.accession = 0 ∨ 3 < p.wing ∨ p.log2slots < 3 ∨ q.log2n - 1 < p.log2slots
            ∨ n1 < 1 ∨ 4 < n1 ∨ n2 < 1 ∨ 4 < n2 ∨ p.modLevels < 1 ∨ 16 < p.modLevels ∨ p.scratchSlots < 1 ∨ 16 < p.scratchSlots
            ∨ 2 ≤ fld b 22 1 ∨ fld b 23 1 ≠ 0 ∨ fld b 52 4 ≠ 0 ∨ (p.folds q = 0 ∧ p.fold ≠ 0) ∨ 65536 < p.fold + p.folds q ∨ q.L - 1 < used then bad
        else if !planKeyOk p.wing kRelin none (s.card c p.relin) || !planKeyOk p.wing kGalois (some (2 * q.n - 1)) (s.card c p.conj)
            || !(List.range (p.folds q)).all (fun j => planKeyOk p.wing kGalois (some (powMod (2 * q.n) 5 (2 ^ (p.log2slots + j)))) (s.card c (p.fold + j)))
            || !p.cts.zipIdx.all (fun t => s.stageOk c p.wing (q.L - 1 - t.2) q t.1)
            || !p.stc.zipIdx.all (fun t => s.stageOk c p.wing (p.midLevel q - t.2) q t.1)
            || !s.scratchOk c p.wing p.scratch p.scratchSlots q || !p.traceOk q (s.ctx c).bm (s.diagScale c)
            || (s.ctx c).plans.any (fun x => x.1 == fld b 0 4 || (x.2.accession == p.accession && x.2.wing == p.wing)) then bad
        else if (s.planKeys c p q ++ s.planDiags c p).any (fun k => k.set != p.set) then .error .parameterMismatch
        else if (s.planKeys c p q).any (fun k => k.accession != p.accession) then .error .keyMismatch
        else .ok (fld b 0 4, p)
  | _, _ => bad

/-- REFRESH_PLAN_LOAD (R125 to R128). -/
def cmdRefreshPlanLoad (m : Mbx) (s : State) : State :=
  s.runCmd m { op := 0x0202, buf := true } fun _ c s =>
    match s.anyBuf m with
    | .error e => refuse s e
    | .ok b =>
      match s.planOf c b with
      | .error e => refuse s e
      | .ok (id, p) =>
        let x := s.ctx c
        if !(s.stk (dpaStack p.scratch)).ready then refuse s .notReady
        else if 8 ≤ x.plans.length then refuse s .resourceExhausted
        else .done .ok [] (s.setCtx c { x with plans := x.plans.put id p })
def execRefreshPlanLoad (m : Mbx) (s : State) : Res := act s (cmdRefreshPlanLoad m)

end Sys2Proof.Machine
end

