-- ==== Sys2Proof/Machine/Homomorphic.lean ====
section
/-! DEFINITION. The homomorphic commands (R95 to R119): their checks in the order of Table 4.6, the bookkeeping they set at issue, and
what they compute. -/

namespace Sys2Proof.Machine

/-- What a work command's run gives: the state with its writes, the fields of its record, and cards as OK leaves them; or the status
that ends it with the record's `aux` offset. -/
abbrev Ran := Except (Status × Nat) (State × Rec × Tbl Card)

/-! Shared checks -/

/-- A source of the command is poisoned (check 6). -/
def State.anyPoison (s : State) (c : Nat) (e : Entry) : Bool := e.reads.any (fun h => (s.card c h).any (fun x => x.poison))
/-- A result's outcome under Table 4.5. -/
def heOut (x : Ctx) (p : ParamSet) (h : Nat) (d : Card) (poisoned force : Bool) (keys : List Nat) (level : Nat) : HeOut :=
  { dests := [(h, d)], poisoned := poisoned, cap := force || capFails x p d, prec := precFails p d, keys := keys, level := level }
/-- A plaintext operand (R95 to R97): BITREV, at or above the ciphertext's level. -/
def State.ptArg (s : State) (c : Nat) (o : Option Card) (level : Nat) : Except Status Card :=
  match o with
  | some m => if m.kind == .plaintext && m.layout == .bitrev && decide (level ≤ m.level) then .ok m else .error .badParameter
  | none => .error .badParameter
/-- Estimate of `he.mulp` (Table 4.4). -/
def mulpNoise (x : Ctx) (p : ParamSet) (v : Int) (mp : Nat) (scale : Nat) : Int :=
  let w := x.noiseWorst
  match p.scheme with
  | 1 => oplus (v + mp) (scaleLog true scale + x.bm + tE w p.log2n)
  | 2 => v + mp
  | _ => oplus (v + mp) (tM w p.log2n p.t + mp)
/-- Scale of a product (R111, R112). -/
def mulScale (p : ParamSet) (a b : Nat) : Nat := if p.scheme = 1 then (fmul fp64 0 a b).1 else a

/-! Checks and bookkeeping -/

/-- `he.add`, `he.sub` (R98, R110). -/
def chkAdd (s : State) (c : Nat) (x : Stream) (e : Entry) : Checked := do
  need (e.handles [true, true, true, false] && e.cmd.imm == 0) .badParameter
  let (a, p) ← s.ctArg c (s.opnd c e 0) [1, 2, 3]
  let (b, _) ← s.ctArg c (s.opnd c e 1) [1, 2, 3]
  let sec := a.secret || b.secret
  let d ← s.ctDst c (s.opnd c e 2) p (max a.comps b.comps) (min a.level b.level) sec
  need (b.set == a.set && d.set == a.set) .parameterMismatch
  need (a.scale == b.scale) .parameterMismatch
  need (a.accession == b.accession) .keyMismatch
  let poisoned := s.anyPoison c e
  s.heVerdict c x p [a, b] (fun ops =>
    let a := ops.getD 0 a
    let b := ops.getD 1 b
    let l := min a.level b.level
    match s.ctDst c (s.opnd c e 2) p (max a.comps b.comps) l sec with
    | .error st => .error st
    | .ok d =>
      let v := estimate [a.noise, b.noise] (oplus a.noise b.noise)
      .ok (heOut (s.ctx c) p (e.hnd 2) (result d [a, b] l (max a.comps b.comps) a.scale v a.accession) poisoned false [] l))
/-- `he.neg` (R110). -/
def chkNeg (s : State) (c : Nat) (x : Stream) (e : Entry) : Checked := do
  need (e.handles [true, false, true, false] && e.cmd.imm == 0) .badParameter
  let (a, p) ← s.ctArg c (s.opnd c e 0) [1, 2, 3]
  let d ← s.ctDst c (s.opnd c e 2) p a.comps a.level a.secret
  need (d.set == a.set) .parameterMismatch
  s.heVerdict c x p [a] (fun ops =>
    let a := ops.getD 0 a
    match s.ctDst c (s.opnd c e 2) p a.comps a.level a.secret with
    | .error st => .error st
    | .ok d => .ok (heOut (s.ctx c) p (e.hnd 2) (result d [a] a.level a.comps a.scale a.noise a.accession) (s.anyPoison c e) false [] a.level))
/-- `he.addp`, `he.subp` and `he.mulp` (R97, R98, R111). -/
def chkPlain (mul : Bool) (s : State) (c : Nat) (x : Stream) (e : Entry) : Checked := do
  need (e.handles [true, true, true, false] && e.cmd.imm == 0) .badParameter
  let (a, p) ← s.ctArg c (s.opnd c e 0) [1, 2, 3]
  let m ← s.ptArg c (s.opnd c e 1) a.level
  let sec := a.secret || m.secret
  let d ← s.ctDst c (s.opnd c e 2) p a.comps a.level sec
  need (m.set == a.set && d.set == a.set) .parameterMismatch
  need (mul || a.scale == m.scale) .parameterMismatch
  s.heVerdict c x p [a] (fun ops =>
    let a := ops.getD 0 a
    let y := s.ctx c
    match s.ctDst c (s.opnd c e 2) p a.comps a.level sec, s.ptArg c (s.opnd c e 1) a.level with
    | .error st, _ => .error st
    | _, .error st => .error st
    | .ok d, .ok m =>
      if !mul && a.scale != m.scale then .error .parameterMismatch else
      let term := match p.scheme with | 1 => tE y.noiseWorst p.log2n | 2 => tM y.noiseWorst p.log2n p.t | _ => p.logT
      let v := if mul then estimate [a.noise, m.noise] (mulpNoise y p a.noise m.noise a.scale) else estimate [a.noise] (oplus a.noise term)
      .ok (heOut y p (e.hnd 2) (result d [a, m] a.level a.comps (if mul then mulScale p a.scale m.scale else a.scale) v a.accession)
        (s.anyPoison c e) false [] a.level))
/-- `he.mul` (R112). -/
def chkMul (s : State) (c : Nat) (x : Stream) (e : Entry) : Checked := do
  let norelin := e.cmd.imm.testBit 0
  need (e.handles [true, true, true, !norelin] && decide (e.cmd.imm < 2)) .badParameter
  let (a, p) ← s.ctArg c (s.opnd c e 0) [1, 2, 3]
  let (b, _) ← s.ctArg c (s.opnd c e 1) [1, 2, 3]
  need (a.comps == 2 && b.comps == 2) .badParameter
  let ks ← if norelin then .ok [] else (s.keyArg c x.wing (e.cmd.h.getD 3 none) (· == kRelin)).map (fun k => [k])
  let sec := a.secret || b.secret
  let n := if norelin then 3 else 2
  let d ← s.ctDst c (s.opnd c e 2) p n (min a.level b.level) sec
  need (ks.all (fun k => !(s.wing k.wing).lost)) .unitAbsent
  need (b.set == a.set && d.set == a.set) .parameterMismatch
  need (ks.all (fun k => k.set == a.set)) .parameterMismatch
  need (a.accession == b.accession) .keyMismatch
  s.keyChecks ks a.set a.accession
  s.heVerdict c x p [a, b] (fun ops =>
    let a := ops.getD 0 a
    let b := ops.getD 1 b
    let l := min a.level b.level
    let y := s.ctx c
    let w := y.noiseWorst
    match s.ctDst c (s.opnd c e 2) p n l sec with
    | .error st => .error st
    | .ok d =>
      let v1 : Int := a.noise
      let v2 : Int := b.noise
      let t : Int := match p.scheme with
        | 1 => oplus (oplus (v1 + scaleLog true b.scale + y.bm) (v2 + scaleLog true a.scale + y.bm)) (v1 + v2)
        | 2 => v1 + v2
        | _ => oplus (oplus v1 v2 + p.logT + tS w p.log2n + 256) (tR w p.log2n)
      let v := match ks with
        | k :: _ => estimate [a.noise, b.noise, k.noise] (oplus t (tKS w p l k.noise))
        | [] => estimate [a.noise, b.noise] t
      let sc := match p.scheme with | 1 => (fmul fp64 0 a.scale b.scale).1 | 2 => a.scale * b.scale % p.t | _ => a.scale
      .ok (heOut y p (e.hnd 2) (result d [a, b] l n sc v a.accession) (s.anyPoison c e) false (if norelin then [] else [e.hnd 3]) l))
/-- `he.relin` and `he.rot` (R112, R113): a command with one key switch. -/
def chkSwitch (comps kind : Nat) (s : State) (c : Nat) (x : Stream) (e : Entry) : Checked := do
  need (e.handles [true, false, true, true] && e.cmd.imm == 0) .badParameter
  let (a, p) ← s.ctArg c (s.opnd c e 0) [1, 2, 3]
  need (a.comps == comps) .badParameter
  let k ← s.keyArg c x.wing (e.cmd.h.getD 3 none) (· == kind)
  let d ← s.ctDst c (s.opnd c e 2) p 2 a.level a.secret
  need (!(s.wing k.wing).lost) .unitAbsent
  need (d.set == a.set) .parameterMismatch
  s.keyChecks [k] a.set a.accession
  s.heVerdict c x p [a] (fun ops =>
    let a := ops.getD 0 a
    match s.ctDst c (s.opnd c e 2) p 2 a.level a.secret with
    | .error st => .error st
    | .ok d =>
      let v := estimate [a.noise, k.noise] (oplus a.noise (tKS (s.ctx c).noiseWorst p a.level k.noise))
      .ok (heOut (s.ctx c) p (e.hnd 2) (result d [a] a.level 2 a.scale v a.accession) (s.anyPoison c e) false [e.hnd 3] a.level))
/-- The cards of a run of keys (R88, R113, R117). -/
def State.keyRun (s : State) (c w : Nat) (first : Option Nat) (n : Nat) : Except Status (List Card) :=
  (List.range n).mapM (fun i => s.keyArg c w (first.map (· + i)) (· == kGalois))
/-- `he.roth` (R113): k outputs that share one outcome. -/
def chkRoth (s : State) (c : Nat) (x : Stream) (e : Entry) : Checked := do
  let k := e.cmd.imm
  need (e.handles [true, false, true, true] && decide (1 ≤ k ∧ k ≤ 16)) .badParameter
  let (a, p) ← s.ctArg c (s.opnd c e 0) [1, 2, 3]
  need (a.comps == 2) .badParameter
  let ks ← s.keyRun c x.wing (e.cmd.h.getD 3 none) k
  let hs := (List.range k).map (· + e.hnd 2)
  need (!hs.contains (e.hnd 0)) .badParameter
  let ds ← hs.mapM (fun h => s.ctDst c (s.card c h) p 2 a.level a.secret)
  need (ks.all (fun k => !(s.wing k.wing).lost)) .unitAbsent
  need (ds.all (fun d => d.set == a.set)) .parameterMismatch
  s.keyChecks ks a.set a.accession
  s.heVerdict c x p [a] (fun ops =>
    let a := ops.getD 0 a
    let y := s.ctx c
    match hs.mapM (fun h => s.ctDst c (s.card c h) p 2 a.level a.secret) with
    | .error st => .error st
    | .ok ds =>
      let rs := (ds.zip ks).map (fun z =>
        result z.1 [a] a.level 2 a.scale (estimate [a.noise, z.2.noise] (oplus a.noise (tKS y.noiseWorst p a.level z.2.noise))) a.accession)
      .ok { dests := hs.zip rs, poisoned := s.anyPoison c e, cap := rs.any (capFails y p), prec := rs.any (precFails p)
            keys := (List.range k).map (· + e.hnd 3), level := a.level })
/-- `he.rescale` (R107, R114). -/
def chkRescale (s : State) (c : Nat) (x : Stream) (e : Entry) : Checked := do
  need (e.handles [true, false, true, false] && e.cmd.imm == 0) .badParameter
  let (a, p) ← s.ctArg c (s.opnd c e 0) [1, 2, 3]
  let sc (a : Card) : Nat :=
    if a.level = 0 then a.scale else
    let q := p.prime a.level
    match p.scheme with
    | 1 => (fdivNat fp64 0 a.scale q).1
    | 2 => a.scale * invMod p.t q % p.t
    | _ => a.scale
  need (!(p.scheme == 1 && scaleBelow (sc a))) .badParameter
  let d ← s.ctDst c (s.opnd c e 2) p a.comps (a.level - 1) a.secret
  need (d.set == a.set) .parameterMismatch
  s.heVerdict c x p [a] (fun ops =>
    let a := ops.getD 0 a
    let y := s.ctx c
    let w := y.noiseWorst
    if p.scheme = 1 ∧ scaleBelow (sc a) then .error .badParameter else
    match s.ctDst c (s.opnd c e 2) p a.comps (a.level - 1) a.secret with
    | .error st => .error st
    | .ok d =>
      let r : Int := a.noise - log2Down (p.prime a.level) 1
      let t : Int := match p.scheme with
        | 1 => oplus r (tR w p.log2n)
        | 2 => oplus r (p.logT + tR w p.log2n)
        | _ => oplus (oplus r (tR w p.log2n)) (tM w p.log2n p.t)
      let v := if a.level = 0 then a.noise else estimate [a.noise] t
      .ok (heOut y p (e.hnd 2) (result d [a] (a.level - 1) a.comps (sc a) v a.accession) (s.anyPoison c e) (a.level == 0) [] a.level))
/-- `he.moddrop` (R107, R114). -/
def chkModdrop (s : State) (c : Nat) (x : Stream) (e : Entry) : Checked := do
  let t := e.cmd.imm
  need (e.handles [true, false, true, false] && decide (t < 256)) .badParameter
  let (a, p) ← s.ctArg c (s.opnd c e 0) [1, 2]
  need (a.level == 0 || decide (t < a.level)) .badParameter
  let d ← s.ctDst c (s.opnd c e 2) p a.comps (min t a.level) a.secret
  need (d.set == a.set) .parameterMismatch
  s.heVerdict c x p [a] (fun ops =>
    let a := ops.getD 0 a
    if a.level ≠ 0 ∧ a.level ≤ t then .error .badParameter else
    let l := min t a.level
    match s.ctDst c (s.opnd c e 2) p a.comps l a.secret with
    | .error st => .error st
    | .ok d => .ok (heOut (s.ctx c) p (e.hnd 2) (result d [a] l a.comps a.scale a.noise a.accession) (s.anyPoison c e) (a.level == 0) [] a.level))
/-- `he.modraise` (R108, R115). -/
def chkModraise (s : State) (c : Nat) (x : Stream) (e : Entry) : Checked := do
  let t := e.cmd.imm
  need (e.handles [true, false, true, false] && decide (t < 256)) .badParameter
  let (a, p) ← s.ctArg c (s.opnd c e 0) [1]
  need (a.level == 0 && decide (1 ≤ t ∧ t < p.L)) .badParameter
  let d ← s.ctDst c (s.opnd c e 2) p a.comps t a.secret
  need (d.set == a.set) .parameterMismatch
  s.heVerdict c x p [a] (fun ops =>
    let a := ops.getD 0 a
    if a.level ≠ 0 then .error .badParameter else
    let v := estimate [a.noise] (oplus a.noise (log2Up (p.prime 0) 1 + tR (s.ctx c).noiseWorst p.log2n))
    let r := { result d [a] t a.comps a.scale v a.accession with raised := true }
    .ok (heOut (s.ctx c) p (e.hnd 2) r (s.anyPoison c e) false [] 0))
/-- A polynomial operand (R96, R116). -/
def State.polyArg (s : State) (c : Nat) (o : Option Card) (first n : Nat) : Except Status (Card × ParamSet) :=
  match o with
  | some k =>
    let p := s.psetOf c k
    if k.kind == .poly && k.layout == .limb && p.ring && decide (1 ≤ n ∧ n ≤ 80 ∧ first + n ≤ p.L + p.K ∧ k.level ≤ first
        ∧ first + n ≤ k.level + k.limbs) then .ok (k, p) else .error .badParameter
  | none => .error .badParameter
/-- `he.bconv` (R116). -/
def chkBconv (s : State) (c : Nat) (_ : Stream) (e : Entry) : Checked := do
  let i := e.cmd.imm
  need (e.handles [true, false, true, false] && decide (i < 2 ^ 32) && e.hnd 0 != e.hnd 2) .badParameter
  let (a, _) ← s.polyArg c (s.opnd c e 0) (bits i 0 8) (bits i 8 8)
  let (d, _) ← s.polyArg c (s.opnd c e 2) (bits i 16 8) (bits i 24 8)
  need (!a.secret || s.secretOk c d) .badParameter
  need (d.set == a.set) .parameterMismatch
  .ok { dests := [(e.hnd 2, { d with secret := a.secret })], fate := if s.anyPoison c e then some .poisonedInput else none }
/-- `he.lin` (R117). -/
def chkLin (s : State) (c : Nat) (x : Stream) (e : Entry) : Checked := do
  let n1 := bits e.cmd.imm 0 8
  let n2 := bits e.cmd.imm 8 8
  let nk := n1 + n2 - 2
  need (e.handles [true, true, true, nk != 0] && decide (e.cmd.imm < 2 ^ 16) && e.hnd 0 != e.hnd 2) .badParameter
  let (a, p) ← s.ctArg c (s.opnd c e 0) [1, 2, 3]
  need (a.comps == 2 && decide (1 ≤ n1 ∧ 1 ≤ n2 ∧ n1 * n2 ≤ p.n / 2)) .badParameter
  let m ← s.ptArg c (s.opnd c e 1) a.level
  need (decide (n1 * n2 ≤ m.polys)) .badParameter
  let ks ← s.keyRun c x.wing (e.cmd.h.getD 3 none) nk
  let rs := (List.range (n1 - 1)).map (· + 1) ++ (List.range (n2 - 1)).map (fun j => (j + 1) * n1)
  need ((ks.zip rs).all (fun z => z.1.aux == powMod (2 * p.n) 5 z.2)) .badParameter
  let sec := a.secret || m.secret
  let d ← s.ctDst c (s.opnd c e 2) p 2 a.level sec
  need (ks.all (fun k => !(s.wing k.wing).lost)) .unitAbsent
  need (m.set == a.set && d.set == a.set) .parameterMismatch
  s.keyChecks ks a.set a.accession
  s.heVerdict c x p [a] (fun ops =>
    let a := ops.getD 0 a
    let y := s.ctx c
    match s.ctDst c (s.opnd c e 2) p 2 a.level sec, s.ptArg c (s.opnd c e 1) a.level with
    | .error st, _ => .error st
    | _, .error st => .error st
    | .ok d, .ok m =>
      let best (l : List Card) : Int := (l.map (fun k => tKS y.noiseWorst p a.level k.noise)).foldl max 0
      let w : Int := if n1 = 1 then a.noise else oplus a.noise (best (ks.take (n1 - 1)))
      let u := mulpNoise y p w m.noise a.scale + log2Up n1 1
      let v := (if n2 = 1 then u else oplus u (best (ks.drop (n1 - 1)))) + log2Up n2 1
      let ns := a.noise :: m.noise :: ks.map (fun k => k.noise)
      .ok (heOut y p (e.hnd 2) (result d [a, m] a.level 2 (mulScale p a.scale m.scale) (estimate ns v) a.accession)
        (s.anyPoison c e) false ((List.range nk).map (· + e.hnd 3)) a.level))
/-- `he.encode` (R118). -/
def chkEncode (s : State) (c : Nat) (_ : Stream) (e : Entry) : Checked := do
  let i := e.cmd.imm
  let level := bits i 64 8
  let real := i.testBit 72
  need (e.handles [true, false, true, false] && decide (i < 2 ^ 73)) .badParameter
  match s.opnd c e 0, s.opnd c e 2 with
  | some a, some d =>
    let p := s.psetOf c d
    need (a.kind == .clear && a.elem == .fp64 && d.kind == .plaintext && d.layout == .bitrev && p.scheme == 1) .badParameter
    need (scaleOk (i % 2 ^ 64) && decide (level < p.L)) .badParameter
    need (if real then decide (a.count ≤ p.n / 2) else a.count % 2 == 0 && decide (a.count / 2 ≤ p.n / 2)) .badParameter
    need (d.holds p 1 level && (!a.secret || s.secretOk c d)) .badParameter
    .ok { dests := [(e.hnd 2, { d with level := level, scale := i % 2 ^ 64, accession := 0, floor := 0, secret := a.secret })]
          fate := if s.anyPoison c e then some .poisonedInput else none }
  | _, _ => .error .badParameter
/-- The result scale of `he.scale`, and the constant it multiplies by, or none where the residues are copied (R119). -/
def scaleRule (p : ParamSet) (a : Card) (imm : Nat) : Option (Nat × Option Int) :=
  let v := imm % 2 ^ 64
  let ex := bits imm 64 6
  match p.scheme, bits imm 72 2 with
  | 1, 0 => (scaleConst v ex).map (fun k => ((fmul fp64 0 a.scale (fround fp64 false (2 ^ ex) 1).1).1, some k))
  | 1, 1 => if v = 0 then none else
      let r := fratio fp64 a.scale
      some (if fisFinite fp64 a.scale then (fround fp64 r.1 (r.2.1 * v) r.2.2).1 else a.scale, none)
  | 2, 0 => if v < p.t then some (a.scale, some (centreT p.t v)) else none
  | 3, 0 => if v < p.t then some (a.scale, some (centreT p.t v)) else none
  | 2, 1 => if v % p.t ≠ 0 then some (a.scale * v % p.t, none) else none
  | 3, 1 => if v % p.t ≠ 0 then some (a.scale, some (centreT p.t (invMod p.t v))) else none
  | 2, 2 => if 1 ≤ v ∧ v < p.t ∧ a.scale % p.t ≠ 0 then some (v, some (centreT p.t (v * invMod p.t a.scale))) else none
  | _, _ => none
/-- `he.scale` in a mode (R119). The estimate of CONST with the constant 0 for BGV and BFV, whose log2 the spec does not give, is 0:
DESIGN CHOICE, log entry 63. -/
def chkScale (s : State) (c : Nat) (x : Stream) (e : Entry) : Checked := do
  let i := e.cmd.imm
  need (e.handles [true, false, true, false] && bits i 70 2 == 0 && decide (i < 2 ^ 74)) .badParameter
  let (a, p) ← s.ctArg c (s.opnd c e 0) [1, 2, 3]
  need (scaleRule p a i).isSome .badParameter
  let d ← s.ctDst c (s.opnd c e 2) p a.comps a.level a.secret
  need (d.set == a.set) .parameterMismatch
  s.heVerdict c x p [a] (fun ops =>
    let a := ops.getD 0 a
    let y := s.ctx c
    match s.ctDst c (s.opnd c e 2) p a.comps a.level a.secret, scaleRule p a i with
    | .error st, _ => .error st
    | _, none => .error .badParameter
    | .ok d, some (sc, k) =>
      let v : Int := match k with
        | none => a.noise
        | some 0 => 0
        | some k =>
          let g := log2Up k.natAbs 1
          match p.scheme with
          | 1 => oplus (a.noise + g) (scaleTerm a.scale (y.bm - 256))
          | 2 => a.noise + g
          | _ => oplus (a.noise + g) (tM y.noiseWorst p.log2n p.t + g)
      .ok (heOut y p (e.hnd 2) (result d [a] a.level a.comps sc (estimate [a.noise] v) a.accession) (s.anyPoison c e) false [] a.level))

/-! The rows -/

/-- HE_ADD (R110). -/
def execHeAdd (c n k : Nat) (s : State) : Res := act s fun s => s.issue c n k 0x100 anyImm (chkAdd s c)
/-- HE_SUB (R110). -/
def execHeSub (c n k : Nat) (s : State) : Res := act s fun s => s.issue c n k 0x101 anyImm (chkAdd s c)
/-- HE_NEG (R110). -/
def execHeNeg (c n k : Nat) (s : State) : Res := act s fun s => s.issue c n k 0x102 anyImm (chkNeg s c)
/-- HE_ADDP (R111). -/
def execHeAddp (c n k : Nat) (s : State) : Res := act s fun s => s.issue c n k 0x103 anyImm (chkPlain false s c)
/-- HE_SUBP (R111). -/
def execHeSubp (c n k : Nat) (s : State) : Res := act s fun s => s.issue c n k 0x104 anyImm (chkPlain false s c)
/-- HE_MULP (R111). -/
def execHeMulp (c n k : Nat) (s : State) : Res := act s fun s => s.issue c n k 0x105 anyImm (chkPlain true s c)
/-- HE_MUL (R112). -/
def execHeMul (c n k : Nat) (s : State) : Res := act s fun s => s.issue c n k 0x106 anyImm (chkMul s c)
/-- HE_RELIN (R112). -/
def execHeRelin (c n k : Nat) (s : State) : Res := act s fun s => s.issue c n k 0x107 anyImm (chkSwitch 3 kRelin s c)
/-- HE_ROT (R113). -/
def execHeRot (c n k : Nat) (s : State) : Res := act s fun s => s.issue c n k 0x108 anyImm (chkSwitch 2 kGalois s c)
/-- HE_ROTH (R113). -/
def execHeRoth (c n k : Nat) (s : State) : Res := act s fun s => s.issue c n k 0x109 anyImm (chkRoth s c)
/-- HE_RESCALE (R114). -/
def execHeRescale (c n k : Nat) (s : State) : Res := act s fun s => s.issue c n k 0x10A anyImm (chkRescale s c)
/-- HE_MODDROP (R114). -/
def execHeModdrop (c n k : Nat) (s : State) : Res := act s fun s => s.issue c n k 0x10B anyImm (chkModdrop s c)
/-- HE_MODRAISE (R115). -/
def execHeModraise (c n k : Nat) (s : State) : Res := act s fun s => s.issue c n k 0x10C anyImm (chkModraise s c)
/-- HE_BCONV (R116). -/
def execHeBconv (c n k : Nat) (s : State) : Res := act s fun s => s.issue c n k 0x10D anyImm (chkBconv s c)
/-- HE_LIN (R117). -/
def execHeLin (c n k : Nat) (s : State) : Res := act s fun s => s.issue c n k 0x10E anyImm (chkLin s c)
/-- HE_ENCODE (R118). -/
def execHeEncode (c n k : Nat) (s : State) : Res := act s fun s => s.issue c n k 0x10F anyImm (chkEncode s c)
/-- HE_SCALE_CONST (R119); the reserved mode is refused in this row too. -/
def execHeScaleConst (c n k : Nat) (s : State) : Res :=
  act s fun s => s.issue c n k 0x110 (fun i => bits i 72 2 == 0 || bits i 72 2 == 3) (chkScale s c)
/-- HE_SCALE_DIVIDE (R119). -/
def execHeScaleDivide (c n k : Nat) (s : State) : Res := act s fun s => s.issue c n k 0x110 (fun i => bits i 72 2 == 1) (chkScale s c)
/-- HE_SCALE_ALIGN (R119). -/
def execHeScaleAlign (c n k : Nat) (s : State) : Res := act s fun s => s.issue c n k 0x110 (fun i => bits i 72 2 == 2) (chkScale s c)

/-! What they compute -/

/-- Ciphertext operand `i`, at handle position `j`: its card's value, or its refreshed copy (R97, R109). -/
def State.heArg (s : State) (c : Nat) (e : Entry) (p : ParamSet) (j i level : Nat) : Except (Status × Nat) Ct :=
  match e.job with
  | some jb => .ok ((((jb.regs.get (32 * i + 20)).getD { level := 0, comps := [] })).cut level)
  | none => match s.operand c e j with
    | some cd => s.ctOf c cd p level
    | none => .error (.addressFault, 0)
/-- Limbs of a plaintext polynomial up to a level. -/
def State.ptLimbs (s : State) (c : Nat) (m : Card) (p : ParamSet) (poly level : Nat) : Except (Status × Nat) (List (List Nat)) :=
  s.component c m p poly 0 (level + 1)
/-- A ciphertext is written to a destination. -/
def State.putCt (s : State) (c h : Nat) (p : ParamSet) (a : Ct) : Except (Status × Nat) State :=
  match s.card c h with
  | some d => s.putComps c d p 0 a.comps
  | none => .error (.addressFault, 0)
def ran (r : Except (Status × Nat) State) : Ran := r.map (fun s => (s, {}, []))
/-- The ciphertext commands with one destination (R110 to R114, R119). -/
def State.heValue (s : State) (c : Nat) (e : Entry) (a : Card) (p : ParamSet) (x : Ct) : Except (Status × Nat) Ct :=
  let l := e.level
  let key (j : Nat) : Card := (s.opnd c e j).getD a
  match e.cmd.op with
  | 0x100 => (s.heArg c e p 1 1 l).map (fun y => x.add p false y)
  | 0x101 => (s.heArg c e p 1 1 l).map (fun y => x.add p true y)
  | 0x102 => .ok (x.neg p)
  | 0x103 => (s.ptLimbs c (key 1) p 0 l).map (fun m => x.addPlain p false a.scale m)
  | 0x104 => (s.ptLimbs c (key 1) p 0 l).map (fun m => x.addPlain p true a.scale m)
  | 0x105 => (s.ptLimbs c (key 1) p 0 l).map (fun m => x.mulPlain p m)
  | 0x106 => (s.heArg c e p 1 1 l).map (fun y =>
      let t := x.tensor p y
      if e.cmd.imm.testBit 0 then t else s.relin p (key 3) 8 t)
  | 0x107 => .ok (s.relin p (key 3) 8 x)
  | 0x108 => .ok (s.rotate p (key 3) 8 x)
  | 0x10A => .ok (x.rescale p)
  | 0x10B => .ok (x.cut e.cmd.imm)
  | 0x10C => .ok (x.modraise p e.cmd.imm)
  | 0x10E =>
    let n1 := bits e.cmd.imm 0 8
    let n2 := bits e.cmd.imm 8 8
    match (List.range (n1 * n2)).mapM (fun k => s.ptLimbs c (key 1) p k l) with
    | .error er => .error er
    | .ok ds =>
      let ks := (List.range (n1 + n2 - 2)).map (fun i => (s.card c (e.hnd 3 + i)).getD a)
      .ok (s.linear p 8 n1 n2 ks (fun k => ds.getD k []) x)
  | _ => match scaleRule p a e.cmd.imm with
    | some (_, some k) => .ok (x.scaleBy p k)
    | _ => .ok x
/-- Values of FP64 slots as (real, imaginary) patterns (R118). -/
def slotPairs (real : Bool) : List Nat → List (Nat × Nat)
  | [] => []
  | a :: r => if real then (a, 0) :: slotPairs real r else match r with
    | b :: r2 => (a, b) :: slotPairs real r2
    | [] => []
/-- log2 of Δ times a slot's magnitude, in 1/256, rounded up. -/
def magLog (delta : Nat) (z : Nat × Nat) : Int :=
  let d := fratio fp64 delta
  let x := fratio fp64 z.1
  let y := fratio fp64 z.2
  let num := (x.2.1 * y.2.2) ^ 2 + (y.2.1 * x.2.2) ^ 2
  if num = 0 then -(2 ^ 30) else halfLogUp (d.2.1 ^ 2 * num) (d.2.2 ^ 2 * (x.2.2 * y.2.2) ^ 2)
/-- Fixed point of the inverse transform's roots of unity. -/
def rootOne : Int := 2 ^ 128
/-- (cos, sin) of π / 2^t by half angles. -/
def rootHalf : Nat → Int × Int
  | 0 => (-rootOne, 0)
  | 1 => (0, rootOne)
  | t + 1 => let c := (rootHalf t).1
             ((isqrt (((rootOne + c) * rootOne / 2).toNat) : Int), (isqrt (((rootOne - c) * rootOne / 2).toNat) : Int))
/-- (cos, sin) of π·i / 2^n, for i below 2^(n+1). -/
def rootAt (n i : Nat) : Int × Int :=
  ((List.range (n + 1)).filter i.testBit).foldl (fun z b =>
    let r := rootHalf (n - b)
    ((z.1 * r.1 - z.2 * r.2) / rootOne, (z.1 * r.2 + z.2 * r.1) / rootOne)) (rootOne, 0)
/-- A finite FP64 value as an integer over 2^1074. -/
def fixed64 (x : Nat) : Int := let r := fratio fp64 x; (if r.1 then -1 else 1) * (r.2.1 * 2 ^ 1074 / r.2.2 : Nat)
/-- The FP64 inverse transform (R27, R118): the coefficients m_k with m(ζ^(5^j)) = z_j, that is (2/N)·Σ Re(z_j·ζ^(−5^j·k)), each within
the rounding of N binary64 additions in an open order: a free error of at most 2N units of 2^−50 of the largest part, rounded to FP64
(DESIGN CHOICE: R118 and R40 leave the order open, and no bound is stated; log entry 64). Inputs that are not finite, or so large that a
partial sum may overflow, leave every coefficient open. The flags are those of the open order. -/
def slotTransform (draw n : Nat) (z : List (Nat × Nat)) : List Nat × Nat :=
  let N := 2 ^ n
  let big (x : Nat) : Bool := !fisFinite fp64 x || decide (2 ^ 1000 ≤ (fixed64 x).natAbs / 2 ^ 1074)
  if z.any (fun x => big x.1 || big x.2) then
    ((List.range N).map (fun k => Config.free draw (2 ^ 44 + k) % 2 ^ 64), Config.free draw (2 ^ 44 + N) % 32 &&& 0x1D)
  else
    let v := z.map (fun x => (fixed64 x.1, fixed64 x.2))
    let top := (v.map (fun x => max x.1.natAbs x.2.natAbs)).foldl max 0
    let tol : Nat := top * 2 ^ 128 * 2 * N / 2 ^ 50
    let coef (k : Nat) : Nat :=
      let sum : Int := (v.zipIdx.map (fun x =>
        let r := rootAt n (powMod (2 * N) 5 x.2 * k % (2 * N))
        x.1.1 * r.1 + x.1.2 * r.2)).sum
      let err : Int := (Config.free draw (2 ^ 44 + k) % (2 * tol + 1) : Nat) - (tol : Int)
      (froundI fp64 (sum * 2 / N + err) (2 ^ (1074 + 128))).1
    ((List.range N).map coef, if top = 0 then 0 else Config.free draw (2 ^ 44 + N) % 32 &&& (fInexact + fUnderflow))
/-- `he.encode`: the inverse transform, the rounding of every coefficient, the magnitude (R105, R118). -/
def State.runEncode (s : State) (c : Nat) (e : Entry) (worst : Bool) : Ran :=
  match s.opnd c e 0, s.opnd c e 2 with
  | some a, some d =>
    match s.slotElems c a with
    | .error er => .error er
    | .ok v =>
      let p := s.psetOf c d
      let z := slotPairs (e.cmd.imm.testBit 72) v
      let zero := z.all (fun x => x.1 % 2 ^ 63 == 0 && x.2 % 2 ^ 63 == 0)
      let t := if zero then (List.replicate p.n 0, 0) else slotTransform s.draw p.log2n z
      let r := t.1.map (fun x =>
        let y := fmul fp64 s.draw x d.scale
        let i := encodeInt y.1
        (i.1, y.2 ||| i.2))
      let m := (r.map (fun x => x.1.natAbs)).foldl max 0
      let finite := v.all (fisFinite fp64)
      let mp := if (if finite then zero else m == 0) then 0
        else if finite then clampEst (oplus ((z.map (magLog d.scale)).foldl max (-(2 ^ 30))) (tE worst p.log2n))
        else clampEst (256 * p.log2n + log2Up m 1)
      match s.putComps c d p 0 [p.lift d.level (r.map (fun x => x.1))] with
      | .error er => .error er
      | .ok s1 =>
        .ok (s1, { fpflags := (r.map (fun x => x.2)).foldl (· ||| ·) t.2, fpValid := true }, [(e.hnd 2, { d with noise := if 1 < d.polys then max mp d.noise else mp })])
  | _, _ => .error (.addressFault, 0)
/-- `he.bconv` (R116). -/
def State.runBconv (s : State) (c : Nat) (e : Entry) : Ran :=
  let i := e.cmd.imm
  match s.opnd c e 0, s.opnd c e 2 with
  | some a, some d =>
    let p := s.psetOf c a
    let ia := (List.range (bits i 8 8)).map (· + bits i 0 8)
    let ib := (List.range (bits i 24 8)).map (· + bits i 16 8)
    let limb (cd : Card) (j : Nat) : Nat × Nat := (cd.wordAddr p 0 0 (pairOf p.split (j - cd.level)) 0, 8 * p.n)
    match s.getAll c a.base (ia.map (limb a)), s.canAll c d.base (ib.map (limb d)) with
    | .error er, _ => .error er
    | _, .error er => .error er
    | .ok _, .ok _ =>
      let x (j : Nat) : List Nat := s.limbAt a p 0 0 (j - a.level)
      let cols := column (ia.map x) p.n
      let out (j : Nat) : List Nat := if ia.contains j then x j else cols.map (fun y => bconv (ia.map p.prime) y (p.prime j))
      ran (.ok (ib.foldl (fun s j => s.putLimb d p 0 0 (j - d.level) (out j)) s))
  | _, _ => .error (.addressFault, 0)
/-- `he.roth` (R113). -/
def State.runRoth (s : State) (c : Nat) (e : Entry) (p : ParamSet) (x : Ct) : Ran :=
  let dig := s.digitsOf p x.level 8 (x.comps.getD 1 [])
  ran ((List.range e.cmd.imm).foldlM (fun (t : State) i =>
    match s.card c (e.hnd 3 + i) with
    | some k => t.putCt c (e.hnd 2 + i) p (s.rotateH p k (8 * (i + 1)) x dig)
    | none => .error (.addressFault, 0)) s)
/-- What a homomorphic command computes. -/
def State.runHe (s : State) (c : Nat) (e : Entry) : Ran :=
  if e.cmd.op = 0x10F then s.runEncode c e (s.ctx c).noiseWorst
  else if e.cmd.op = 0x10D then s.runBconv c e
  else match s.operand c e 0 with
    | none => .error (.addressFault, 0)
    | some a =>
      let p := s.psetOf c a
      match s.heArg c e p 0 0 e.level with
      | .error er => .error er
      | .ok x =>
        if e.cmd.op = 0x109 then s.runRoth c e p x else
        match s.heValue c e a p x with
        | .error er => .error er
        | .ok y => ran (s.putCt c (e.hnd 2) p y)

end Sys2Proof.Machine
end

