-- ==== Sys2Proof/Machine/Buckets.lean ====
section
/-! DEFINITION. Reductions (R331 to R346): `red.accum`, the checks on a block that arrives, the closing of buckets. -/

namespace Sys2Proof.Machine

/-! Fields and storage -/

/-- Fields of the immediate (Table 14.1). -/
def raOp (i : Nat) : Nat := bits i 2 2
def raTag (i : Nat) : Nat := bits i 8 12
def raChan (i : Nat) : Nat := bits i 20 8

/-- Bytes of a card's logical extent, when it is contiguous and each of its granules lies in one limb (R334; a SPLIT word holds
two limbs). -/
def reduceBytes (cd : Card) (p : ParamSet) : Option Nat :=
  match cd.kind with
  | .ciphertext =>
    if cd.limbs = cd.level + 1 ∧ (cd.layout = .limb ∨ cd.layout = .bitrev) ∧ !p.split then some (cd.span p) else none
  | .poly =>
    if (cd.layout ≠ .coef ∨ cd.limbs = 1) ∧ !p.split then some (cd.span p) else none
  | .clear => if cd.span p = cd.slotCount * cd.elem.size then some (cd.span p) else none
  | _ => none
/-- A card's kind and type suit an operation (R334). -/
def suits (op : Nat) (cd : Card) : Bool :=
  match op with
  | 0 => cd.kind == .ciphertext || cd.kind == .poly
  | 1 => cd.kind == .clear && cd.elem == .u64
  | 2 => cd.kind == .clear && cd.elem == .fp32
  | _ => cd.kind == .clear && cd.elem == .fp64
/-- Modulus and chain index of each limb in block order, as modulus + chain index × 2^64. -/
def limbModuli (cd : Card) (p : ParamSet) : List Nat :=
  (List.range (cd.polys * cd.comps)).flatMap (fun _ => (List.range cd.limbs).map (fun i => p.prime (cd.chain i) + cd.chain i * 2 ^ 64))
/-- Modulus and chain index of block j. -/
def Bucket.limbOf (b : Bucket) (j : Nat) : Nat × Nat :=
  if b.op = 0 then let v := b.moduli.getD (j / (b.blocks / b.moduli.length)) 0; (v % 2 ^ 64, v / 2 ^ 64) else (0, 0)
/-- The number of blocks of a card that may hold a bucket (R334). -/
def bucketBlocks (cd : Card) (p : ParamSet) (op : Nat) : Option Nat :=
  match reduceBytes cd p with
  | some n =>
    if suits op cd && cd.place == .hbm && !cd.secret && cd.base % 256 == 0 && n % 256 == 0 && decide (0 < n)
        && decide (bucketBytes (n / 256) ≤ cd.capacity) && dpaStack cd.base == dpaStack (cd.base + bucketBytes (n / 256) - 1) then
      some (n / 256) else none
  | none => none
/-- Two cards have one kind, type, parameter set and shape (R334, R337). -/
def sameForm (a b : Card) : Bool :=
  a.kind == b.kind && a.elem == b.elem && a.layout == b.layout && a.polys == b.polys && a.comps == b.comps && a.limbs == b.limbs
    && a.rank == b.rank && a.dims == b.dims && (a.kind != .poly || a.level == b.level)
/-- A bucket may stand in a stack: below T4, in service, its adders enabled (R345, R451). -/
def State.nmaUp (s : State) (k : Nat) : Bool := decide ((s.stk k).step < 4) && !(s.stk k).lost && !(s.stk k).nmaOff
/-- A range is filled with zeros, which replaces any poison in its blocks. -/
def State.zeroFill (s : State) (a n : Nat) : State :=
  ({ s.clear a n with poison := s.poison.filter (fun b => !decide (a ≤ 64 * b ∧ 64 * b + 64 ≤ a + n)) }).repaired a n

/-! OPEN -/

/-- A tag is in the 10 ms hold after its bucket's close (R335). -/
def State.tagHeld (s : State) (tag : Nat) : Bool := (s.tagHolds.get tag).any (fun t => decide (s.time.now < t))

/-- The checks of `OPEN` (Table 14.1, R334, R335): the bucket, placed by R345. -/
def State.chkOpen (s : State) (c n k : Nat) (e : Entry) : Except Status Bucket := do
  let i := e.cmd.imm
  let op := raOp i
  need (!e.has 1 && e.has 2 && bits i 6 2 == 0 && bits i 20 12 == 0) .badParameter
  need ((!i.testBit 4 && !i.testBit 5) || decide (2 ≤ op)) .badParameter
  need (bits i 32 16 != 0 && bits i 48 40 != 0 && decide (bits i 88 24 < bits i 48 40) && (op == 0 || bits i 112 16 == 0)) .badParameter
  match s.opnd c e 2 with
  | none => .error .badParameter
  | some d => do
    let p := s.psetOf c d
    match bucketBlocks d p op with
    | none => .error .badParameter
    | some nb => do
      let alt := s.opnd c e 3
      need (!e.has 3 || alt.any (fun a => sameForm a d && a.set == d.set && a.capacity == d.capacity && a.secret == d.secret
        && bucketBlocks a p op == some nb && dpaStack a.base != dpaStack d.base && dpaStack a.base / 4 == dpaStack d.base / 4)) .badParameter
      let tpl := s.opnd c e 0
      need (if d.kind == .ciphertext then tpl.any (fun t =>
          t.kind == .ciphertext && t.set == d.set && t.layout == d.layout && t.level == d.level && t.comps == d.comps)
        else !e.has 0) .badParameter
      let r := dpaStack d.base
      let up (a : Card) : Bool := s.nmaUp (dpaStack a.base)
      let cool := alt.any (fun a => up a && decide ((s.stk (dpaStack a.base)).step < 3))
      let steer := decide (3 ≤ (s.stk r).step ∨ (s.stk r).nmaOff = true) && cool
      let inAlt := steer || (!s.nmaUp r && alt.any up)
      need (inAlt || s.nmaUp r) .thermalHalt
      .ok { ctx := c, op := op, mean := i.testBit 4, quarantine := i.testBit 5, expected := bits i 32 16
            deadline := s.time.now + bits i 48 40, margin := bits i 88 24, vc := bits i 112 16
            result := e.hnd 2, alt := e.cmd.h.getD 3 none, base := if inAlt then (alt.map (fun a => a.base)).getD 0 else d.base
            inAlt := inAlt, blocks := nb, moduli := limbModuli d p, steered := steer, opener := some (n, k) }
/-- `OPEN` issues (R335): refused, waiting for its tag's hold to end, or placed with its storage being filled. -/
def State.openBucket (s : State) (c n k : Nat) (e : Entry) : State :=
  let tag := raTag e.cmd.imm
  match s.chkOpen c n k e with
  | .error .thermalHalt => if s.bucket tag |>.isSome then s.finish c n k e .busy else s.finish c n k e .thermalHalt
  | .error st => s.finish c n k e st
  | .ok b =>
    if (s.opnd c e 0).any (fun t => t.poison) then (s.poisonCards c [b.result]).finish c n k e .poisonedInput
    else if (s.bucket tag).isSome then s.finish c n k e .busy
    else if 1024 ≤ s.buckets.countP (fun x => x.2.ctx == c) then s.finish c n k e .resourceExhausted
    else if s.tagHeld tag then
      if s.tagWaits.contains (tag, c, n, k) then s else { s with tagWaits := s.tagWaits ++ [(tag, c, n, k)] }
    else
      let s1 := ({ s with buckets := s.buckets.put tag b }).zeroFill b.base (bucketBytes b.blocks)
      let book (x : Card) : Card :=
        match s.opnd c e 0 with
        | some t => { x with level := t.level, scale := t.scale, accession := t.accession, floor := t.floor, poison := true }
        | none => { x with poison := true }
      ((s1.modCard c b.result book).markPending c e true).setEntry c n k { e with phase := .issued, awaits := true }
/-- A phase of `red.accum` may issue. -/
def State.reduceReady (s : State) (c n k phase : Nat) : Option (Stream × Entry) :=
  match s.issueReady c n k 0x600 with
  | some (x, e, _) => if e.cmd.imm % 4 = phase then some (x, e) else none
  | none => none
/-- RED_ACCUM_OPEN (R332, R335, R345); the reserved phase is refused here. -/
def execRedAccumOpen (c n k : Nat) (s : State) : Res :=
  act s fun s =>
    match s.reduceReady c n k 0, s.reduceReady c n k 3 with
    | some (_, e), _ => s.openBucket c n k e
    | none, some (_, e) => s.finish c n k e .badCommand
    | none, none => s
/-- BUCKET_ZERO_FILL_DONE (Table 14.5): the bucket accepts contributions, and its `OPEN` completes. -/
def execBucketZeroFillDone (tag : Nat) (s : State) : Res :=
  act s fun s =>
    match s.bucket tag with
    | none => s
    | some b =>
      if b.state ≠ .filling then s else
      let s1 := s.setBucket tag { b with state := if b.aborted then .verifying else .accepting, opener := none }
      match b.opener with
      | none => s1
      | some (n, k) =>
        match s1.entry b.ctx n k with
        | some e => if e.phase = .issued then s1.finish b.ctx n k e (e.fate.getD .ok) else s1
        | none => s1
/-- BUCKET_TAG_HOLD_END (R335): 10 ms after the close the hold ends, and the first `OPEN` that waits for the tag goes on. -/
def execBucketTagHoldEnd (tag : Nat) (s : State) : Res :=
  act s fun s =>
    if s.tagHeld tag then s else
    let s1 : State := { s with tagHolds := s.tagHolds.del tag, tagWaits := s.tagWaits.filter (fun w => w.1 != tag) }
    match s.tagWaits.find? (fun w => w.1 == tag) with
    | some (_, c, n, k) =>
      match s1.reduceReady c n k 0 with
      | some (_, e) => s1.openBucket c n k e
      | none => s1
    | none => s1

/-! A block arrives (R336, R338, R339) -/

/-- Open contributions of the module. -/
def State.openCount (s : State) : Nat := (s.buckets.map (fun b => b.2.openC.length)).sum
/-- The words of a tally block (R336). -/
def tallyForm (data : List Byte) : Bool :=
  let w := words64 data
  let z (i : Nat) : Bool := w.getD i 0 == 0
  (w.drop 4).all (· == 0) && ((w.getD 1 0 == 1 && z 2 && z 3) || (z 0 && z 1 && w.getD 3 0 == 1))
/-- What the checks of Table 14.4 say of a block. -/
inductive Arrives | take | hold | refuse (st : Status)
deriving DecidableEq, Repr
/-- The checks of Table 14.4 on block j of a bucket; `j` none is a granule outside it. -/
def State.arrives (s : State) (c tag : Nat) (x : Contribution) (j : Option Nat) (chain : Nat) (k : Block) : Arrives :=
  match s.bucket tag with
  | none => .refuse .notReady
  | some b =>
    let limb := b.limbOf (j.getD 0)
    if b.state = .filling then .refuse .notReady
    else if b.ctx ≠ c then .refuse .badParameter
    else if k.op ≠ b.op ∧ !(j == some b.blocks && k.op == 1) then .refuse .parameterMismatch
    else if j.all (fun j => decide (b.blocks < j)) then .refuse .addressFault
    else if j = some b.blocks ∧ (k.op ≠ 1 ∨ chain ≠ 0 ∨ k.modulus ≠ 0 ∨ !tallyForm k.data) then .refuse .badParameter
    else if j ≠ some b.blocks ∧ (chain, k.modulus) ≠ (limb.2, limb.1) then .refuse .parameterMismatch
    else if b.openC.contains x then (if b.ended then .refuse (if b.endedNma then .unitAbsent else .thermalHalt) else .take)
    else if b.tornSet.contains x ∨ b.state ≠ .accepting then .refuse .late
    else if b.ended then .refuse (if b.endedNma then .unitAbsent else .thermalHalt)
    else if 1024 ≤ s.openCount then .hold
    else .take
/-- A block is applied; the first opens its contribution, the tally block ends it (R339). -/
def State.takeBlock (s : State) (tag : Nat) (x : Contribution) (j : Nat) (k : Block) : State :=
  match s.bucket tag with
  | none => s
  | some b =>
    let b1 := if b.openC.contains x then b else { b with openC := b.openC ++ [x] }
    let s1 := ((s.setBucket tag b1).applyTo tag b1 j k).stkCount (dpaStack b.base) 13 1
    -- a residue that fails at arrival counts against the controller's adders (R450, R451)
    let bad := match s1.bucket tag with | some b2 => b2.residue && !b.residue | none => false
    let s2 := if bad then s1.suspectAdders (dpaStack b.base) else s1
    if j < b.blocks then s2
    else match s2.bucket tag with
      | some b2 => (s2.setBucket tag { b2 with openC := b2.openC.erase x }).closing tag
      | none => s2
/-- A refused block (R338, R339): a first block that comes late is counted; a contribution that has begun is torn. -/
def State.refuseBlock (s : State) (tag : Nat) (x : Contribution) (st : Status) : State :=
  match s.bucket tag with
  | none => s
  | some b =>
    if b.openC.contains x then (s.tear tag x st).closing tag
    else if st = .late ∧ !b.tornSet.contains x then s.bump b 4 1
    else s

/-! ADD -/

/-- Weight of a contribution (R337): as given, or word 0 of the source's tally granule. -/
def State.weightOf (s : State) (cd : Card) (nb i : Nat) : Nat := if i.testBit 7 then s.num (cd.base + 256 * nb) 8 else bits i 32 32
/-- v_c + log2 of a weight, rounded up under R101; 0 for no weight (R337, R342). -/
def weightNoise (vc w : Nat) : Int := if w = 0 then 0 else vc + log2Up w 1
/-- The checks of `ADD` on its own operands (Table 14.1, R337): the source, its set and its blocks. -/
def State.chkAddForm (s : State) (c : Nat) (e : Entry) : Except Status (Card × ParamSet × Nat) := do
  let i := e.cmd.imm
  let remote := raChan i != 0xFF
  need (e.handles [true, false, !remote, false] && !i.testBit 4 && !i.testBit 6 && bits i 28 4 == 0 && bits i 96 32 == 0) .badParameter
  need (remote || (!i.testBit 5 && bits i 64 32 == 0)) .badParameter
  need (!i.testBit 5 || decide (2 ≤ raOp i)) .badParameter
  need (if i.testBit 7 then bits i 32 32 == 0 else bits i 32 32 != 0) .badParameter
  match s.opnd c e 0 with
  | none => .error .badParameter
  | some a => do
    let p := s.psetOf c a
    match reduceBytes a p with
    | none => .error .badParameter
    | some n => do
      need (suits (raOp i) a && !a.secret && n % 256 == 0 && decide (0 < n)) .badParameter
      need (!i.testBit 7 || (decide (n + 256 ≤ a.capacity) && (s.reach (a.base + n) 256).isNone && !s.poisoned (a.base + n) 256)) .badParameter
      .ok (a, p, n / 256)
/-- The checks of a local `ADD` against its bucket (R333, R337, Table 14.4). -/
def State.chkAddLocal (s : State) (c : Nat) (e : Entry) (a : Card) (nb : Nat) (x : Contribution) : Except Status Bucket := do
  let i := e.cmd.imm
  match s.bucket (raTag i) with
  | none => .error .notReady
  | some b => do
    need (b.state != .filling) .notReady
    need (b.ctx == c && b.result == e.hnd 2) .badParameter
    need (b.op == raOp i) .parameterMismatch
    match s.card c b.result with
    | none => .error .badParameter
    | some d => do
      need (sameForm a d && nb == b.blocks) .badParameter
      need (a.kind != .ciphertext || a.level == d.level) .badParameter
      need (b.op != 0 || a.kind != .ciphertext || decide ((a.noise : Int) ≤ weightNoise b.vc (s.weightOf a nb i))) .badParameter
      need (a.set == d.set && (a.kind != .ciphertext || a.scale == d.scale)) .parameterMismatch
      need (a.kind != .ciphertext || a.accession == d.accession) .keyMismatch
      need (!a.poison) .poisonedInput
      need (b.state == .accepting && !b.tornSet.contains x) .late
      need (!b.ended) (if b.endedNma then .integrityFault else .thermalHalt)
      .ok b
/-- A source's non-finite elements. -/
def State.sourceDirty (s : State) (op : Nat) (a : Card) (nb : Nat) : Bool :=
  match opFmt op with
  | some f => (List.range nb).any (fun j => decide (0 < nonFinite f (s.bytes (a.base + 256 * j) 256)))
  | none => false
/-- The tally block of a contribution (R336). -/
def tallyBlock (w : Nat) (clean : Bool) : Block :=
  let d := (if clean then leBytes 8 w ++ leBytes 8 1 ++ zeros 16 else zeros 16 ++ leBytes 8 w ++ leBytes 8 1) ++ zeros 224
  { op := 1, modulus := 0, residue := res8191 d, count := 0, poison := false, data := d }
/-- The blocks of a contribution with their block numbers and chain indices (R336, R337). -/
def State.addBlocksOf (s : State) (a : Card) (p : ParamSet) (nb op w : Nat) (clean : Bool) : List (Nat × Nat × Block) :=
  let ms := limbModuli a p
  (if clean then (List.range nb).map (fun j =>
      let d := s.bytes (a.base + 256 * j) 256
      let v := if op = 0 then ms.getD (j / (nb / ms.length)) 0 else 0
      (j, v / 2 ^ 64, ({ op := op, modulus := v % 2 ^ 64, residue := res8191 d, count := 0
                         poison := s.poisoned (a.base + 256 * j) 256, data := d } : Block))) else [])
    ++ [(nb, 0, tallyBlock w clean)]
/-- A remote contribution's flits (R337): an `ACCH` before every 16 `ACCUM`. -/
def addFlits (window transfer first tag : Nat) (fuel : Nat) (bs : List (Nat × Nat × Block)) : List Flit :=
  match fuel, bs with
  | 0, _ => []
  | _, [] => []
  | f + 1, bs =>
    let g := bs.take 16
    flitOf 5 false window transfer (g.length - 1) (g.flatMap (fun x =>
        leBytes 2 tag ++ [b8 x.2.2.op, b8 x.2.1] ++ leBytes 2 x.2.2.residue ++ leBytes 2 x.2.2.count ++ leBytes 8 x.2.2.modulus))
      :: g.map (fun x => flitOf 6 x.2.2.poison window transfer (first + x.1) x.2.2.data)
      ++ addFlits window transfer first tag f (bs.drop 16)
/-- The transfer of a remote `ADD` that holds its channel is handed to the port, once: its slots granted, its identifier given out
(R319, R337). -/
def State.sendAdd (s : State) (c n k : Nat) (w ch : Nat) (e : Entry) (a : Card) (p : ParamSet) (nb : Nat) : State :=
  match s.chan w ch with
  | some h =>
    match h.port, h.chain with
    | some q, some x =>
      if x.stream ≠ n ∨ x.entry ≠ k ∨ x.transfer.isSome ∨ x.fault.isSome ∨ !s.allGranted (entryWho c n k) then s
      else if (s.port q).st ≠ .active then s.setChain w ch { x with fault := some .linkDown }
      else match s.deny c a.base (256 * nb) with
        | some st => s.setChain w ch { x with fault := some st }
        | none =>
          match s.chainId w ch with
          | none => s
          | some (id, s1) =>
            let i := e.cmd.imm
            let clean := !(i.testBit 5 && s.sourceDirty (raOp i) a nb)
            let bs := s.addBlocksOf a p nb (raOp i) (s.weightOf a nb i) clean
            let lost := clean && s.poisoned a.base (256 * nb)
            let s2 := (s1.sendOn q id (addFlits h.window id (bits i 64 32) (raTag i) (nb + 1) bs)).setChain w ch
              { x with transfer := some id, flits := bs.length, moved := 256 * (bs.length - 1)
                       fault := if lost then some .uncorrectableMemory else none }
            if clean then s2 else s2.setEntry c n k { e with out := { e.out with fpflags := fInvalid, fpValid := true } }
    | _, _ => s
  | none => s
/-- A remote `ADD` issues on its bulk channel (R230, R337), or is refused. -/
def State.addRemote (s : State) (c n k : Nat) (x : Stream) (e : Entry) (a : Card) (p : ParamSet) (nb : Nat) : State :=
  let ch := raChan e.cmd.imm
  match s.ownChan c x.wing ch with
  | none => s.finish c n k e .badParameter
  | some h =>
    if !h.bulk ∨ h.port.isNone then s.finish c n k e .badParameter
    else if a.poison then s.finish c n k e .poisonedInput
    else
      let s1 := s.onChannel x.wing ch c n k h { stream := n, entry := k, desc := none }
      match s1.entry c n k with
      | some e1 => if e1.phase = .issued then ((s1.expandSeed c (e.hnd 0)).requestCard c n k a false).sendAdd c n k x.wing ch e1 a p nb else s1
      | none => s1
/-- RED_ACCUM_ADD (R333, R336, R337): issued, or, when a remote transfer waited for its slots or identifier, sent. -/
def execRedAccumAdd (c n k : Nat) (s : State) : Res :=
  act s fun s =>
    match s.reduceReady c n k 1 with
    | some (x, e) =>
      match s.chkAddForm c e with
      | .error st => s.finish c n k e st
      | .ok (a, p, nb) =>
        if raChan e.cmd.imm ≠ 0xFF then s.addRemote c n k x e a p nb
        else
          let me : Contribution := { port := 8, window := c, transfer := entryKey n k }
          match s.chkAddLocal c e a nb me with
          | .error .late => (s.refuseBlock (raTag e.cmd.imm) me .late).finish c n k e .late
          | .error st => s.finish c n k e st
          | .ok b =>
            if 1024 ≤ s.openCount then s
            else
              let s1 := (s.expandSeed c (e.hnd 0)).setBucket (raTag e.cmd.imm) { b with openC := b.openC ++ [me] }
              (s1.setEntry c n k { e with phase := .issued }).requestCard c n k a false
    | none =>
      match s.stream c n, s.entry c n k with
      | some x, some e =>
        if e.phase = .issued ∧ e.cmd.op = 0x600 ∧ e.cmd.imm % 4 = 1 ∧ raChan e.cmd.imm ≠ 0xFF then
          match s.chkAddForm c e with
          | .ok (a, p, nb) => s.sendAdd c n k x.wing (raChan e.cmd.imm) e a p nb
          | .error _ => s
        else s
      | _, _ => s
/-- A local `ADD` runs (R331, R336, R339): its blocks are applied, or the status that it ends with. -/
def State.runAdd (s : State) (c n k : Nat) (e : Entry) : Except Status (State × Rec) :=
  let i := e.cmd.imm
  let tag := raTag i
  let me : Contribution := { port := 8, window := c, transfer := entryKey n k }
  match s.bucket tag, s.opnd c e 0 with
  | some b, some a =>
    let p := s.psetOf c a
    if !b.openC.contains me then .error .late
    else if b.ended then .error (if b.endedNma then .integrityFault else .thermalHalt)
    else match s.deny c a.base (256 * b.blocks) with
      | some st => .error st
      | none =>
        let clean := !(b.quarantine && s.sourceDirty b.op a b.blocks)
        let bs := s.addBlocksOf a p b.blocks b.op (s.weightOf a b.blocks i) clean
        let lost := clean && s.poisoned a.base (256 * b.blocks)
        let s1 := bs.foldl (fun (s : State) (x : Nat × Nat × Block) => s.takeBlock tag me x.1 x.2.2) s
        if lost then .ok (s1, { count := 1 })
        else .ok (s1, if clean then {} else { fpflags := fInvalid, fpValid := true })
  | _, _ => .error .late
/-- A local `ADD` ends (R337, R339): its contribution is whole or is not there. -/
def State.endAdd (s : State) (c n k : Nat) (e : Entry) (fate : Option Status) : State :=
  let tag := raTag e.cmd.imm
  let me : Contribution := { port := 8, window := c, transfer := entryKey n k }
  let drop (s : State) : State :=
    match s.bucket tag with
    | some b => (s.setBucket tag { b with openC := b.openC.erase me }).closing tag
    | none => s
  match fate with
  | some st => (drop s).finish c n k e st
  | none =>
    match s.runAdd c n k e with
    | .error st => (drop s).finish c n k e st
    | .ok (s1, r) =>
      let s2 := s1.endAccesses (entryWho c n k)
      -- a poisoned block was applied: the command that read it ends with UNCORRECTABLE_MEMORY (R286)
      if r.count = 1 then s2.finish c n k e .uncorrectableMemory else s2.finish c n k { e with out := r } .ok

/-! Closing -/

/-- BUCKET_ADMISSION_CLOSE (Table 14.5): tick D − G. -/
def execBucketAdmissionClose (tag : Nat) (s : State) : Res :=
  act s fun s =>
    match s.bucket tag with
    | some b =>
      if b.state = .accepting ∧ b.deadline ≤ s.time.now + b.margin then (s.setBucket tag { b with state := .closing }).closing tag else s
    | none => s
/-- BUCKET_DEADLINE (Table 14.5): tick D; open contributions are torn. -/
def execBucketDeadline (tag : Nat) (s : State) : Res :=
  act s fun s =>
    match s.bucket tag with
    | some b =>
      if (b.state = .accepting ∨ b.state = .closing) ∧ b.deadline ≤ s.time.now then
        ((s.setBucket tag { b with state := .closing }).tearAll tag .late).closing tag
      else s
    | none => s
/-- The close pass finds a block, the tally granule or a contribution count that does not check (R340). -/
def State.closeFails (s : State) (b : Bucket) : Bool :=
  let bad (j m : Nat) : Bool :=
    let x := s.sideOf b j
    (res8191 (s.bytes (b.block j) 256) + x.rho * m) % 8191 != x.racc % 8191
  (decide (b.op < 2) && (List.range b.blocks).any (fun j => bad j (if b.op = 1 then 4096 else (b.limbOf j).1 % 8191)))
    || bad b.blocks 4096
    || (List.range b.blocks).any (fun j => (s.sideOf b j).cb != s.tallyWord b 1)
/-- `MEAN`: every element is divided by k; with k = 0 every element becomes NaN (R343). -/
def State.divideAll (s : State) (tag : Nat) (b : Bucket) : State :=
  match opFmt b.op with
  | none => s
  | some f =>
    let z := (f.eb + f.mb + 1) / 8
    let k := s.tallyWord b 0
    let rs : List (Nat × Nat) := (List.range (256 * b.blocks / z)).map (fun i =>
      if k = 0 then (fnan f (Config.free s.draw (2 ^ 62 + i)), fInvalid)
      else fdivNat f (Config.free s.draw (2 ^ 62 + i)) (s.num (b.base + z * i) z) k)
    let s1 := ({ s with draw := s.draw + 1 }).write b.base (rs.flatMap (fun (r : Nat × Nat) => leBytes z r.1))
    s1.setBucket tag { b with fpflags := rs.foldl (fun (a : Nat) (r : Nat × Nat) => a ||| r.2) b.fpflags }
/-- BUCKET_CLOSE_PASS (R340, R343): `reread` is how the checked reads went; a mismatch that persists fails the bucket and counts
against its controller's adders. -/
def execBucketClosePass (tag : Nat) (reread : Check) (s : State) : Res :=
  act s fun s =>
    match s.bucket tag with
    | some b =>
      let k := dpaStack b.base
      if b.state ≠ .verifying then s
      else if b.ended ∨ !s.bucketUp b then s.setBucket tag { b with state := .closed, ended := true, closedAt := s.time.now }
      else
        let fails := reread == .fail || (b.torn.isNone && s.closeFails b)
        let s1 := if fails then s.suspectAdders k else if reread = .transient then s.transientRec (k / 4) 0xFF (k % 4) 4 else s
        match s1.bucket tag with
        | none => s1
        | some b1 =>
          let s2 := if b1.mean then s1.divideAll tag b1 else s1
          match s2.bucket tag with
          | some b2 => s2.setBucket tag { b2 with state := .closed, failed := fails, closedAt := s.time.now }
          | none => s2
    | none => s

/-! COLLECT -/

/-- The checks of `COLLECT` (Table 14.1, R342, R343). -/
def State.chkCollect (s : State) (c : Nat) (e : Entry) : Except Status Bucket := do
  let i := e.cmd.imm
  need (!e.has 0 && !e.has 1 && e.has 2 && bits i 2 4 == 0 && !i.testBit 7 && bits i 20 108 == 0) .badParameter
  match s.bucket (raTag i) with
  | none => .error .badParameter
  | some b => do
    need (b.ctx == c && b.result == e.hnd 2 && b.alt == e.cmd.h.getD 3 none && b.collector.isNone) .badParameter
    match s.card c b.result with
    | none => .error .badParameter
    | some d => do
      need (!i.testBit 6 || (d.kind == .ciphertext && (s.psetOf c d).scheme != 3)) .badParameter
      .ok b
/-- RED_ACCUM_COLLECT (R342): the command takes its place until the bucket is closed. -/
def execRedAccumCollect (c n k : Nat) (s : State) : Res :=
  act s fun s =>
    match s.reduceReady c n k 2 with
    | none => s
    | some (_, e) =>
      match s.chkCollect c e with
      | .error st => s.finish c n k e st
      | .ok b => ((s.setBucket (raTag e.cmd.imm) { b with collector := some (n, k) }).markPending c e true).setEntry c n k { e with phase := .issued, awaits := true }
/-- The result of a closed bucket (R342, R343): how `COLLECT` ends, and the result card's bookkeeping when it ends with OK. -/
def State.collected (s : State) (c : Nat) (b : Bucket) (divide : Bool) (d : Card) : Status × Card × Bool :=
  let p := s.psetOf c d
  let k := s.tallyWord b 0
  let noise := if k = 0 then 0 else clampEst (weightNoise b.vc k)
  let inv := divide && k != 0 && p.scheme == 2 && decide (k % p.t = 0)
  let scale :=
    if !divide ∨ k = 0 ∨ inv then d.scale
    else if p.scheme = 2 then d.scale * k % p.t
    else let r := fratio fp64 d.scale
      if fisFinite fp64 d.scale then (fround fp64 r.1 (r.2.1 * k) r.2.2).1 else d.scale
  let d1 := if b.op = 0 ∧ d.kind = .ciphertext then { d with noise := noise, scale := scale } else d
  let bad := (List.range (b.blocks + 1)).any (fun j => (s.sideOf b j).poison)
  let st : Status :=
    if b.aborted then .aborted
    else if b.ended then (if b.endedNma then .integrityFault else .thermalHalt)
    else match b.torn with
      | some t => t
      | none =>
        if b.failed then .integrityFault
        else if bad then (if b.residue then .integrityFault else .uncorrectableMemory)
        else if s.poisoned b.base (bucketBytes b.blocks) then .uncorrectableMemory
        else if b.op = 0 && d.kind == .ciphertext && (capFails (s.ctx c) p d1 || precFails p d1) then .noiseExhausted
        else .ok
  (st, d1, inv)
/-- The bucket's record (R342). -/
def State.collectRec (s : State) (b : Bucket) (inv : Bool) : Rec :=
  let fl := (if inv then 2 ^ 40 else 0) + (if b.tainted then 2 ^ 41 else 0) + (if b.steered then 2 ^ 42 else 0) + if b.drained then 2 ^ 43 else 0
  let up := s.bucketUp b
  let w (i : Nat) : Nat := if up then s.tallyWord b i else 0
  { fpflags := b.fpflags, fpValid := decide (2 ≤ b.op), count := w 0, cValid := true
    aux := min (w 1) (2 ^ 20 - 1) + min (w 3) (2 ^ 20 - 1) * 2 ^ 20 + fl, aValid := true }
/-- `COLLECT` completes (R342): the result card, the record, the exchange with the alternate card, and the tag, which its hold begins. -/
def State.endCollect (s : State) (c n k : Nat) (e : Entry) : State :=
  let tag := raTag e.cmd.imm
  match s.bucket tag with
  | none => s.finish c n k e (e.fate.getD .badParameter)
  | some b =>
    if b.state ≠ .closed then s else
    match s.card c b.result with
    | none => s
    | some d =>
      let r := s.collected c b (e.cmd.imm.testBit 6) d
      let out := s.collectRec b r.2.2
      let ok := r.1 == .ok
      let d1 := { (if ok then r.2.1 else d) with poison := !ok, pending := false }
      let s1 :=
        match (if b.inAlt then b.alt else none) with
        | some h =>
          match s.card c h with
          | some a => (s.setCard c b.result { d1 with base := a.base, capacity := a.capacity }).setCard c h { a with base := d.base, capacity := d.capacity }
          | none => s.setCard c b.result d1
        | none => s.setCard c b.result d1
      let s2 : State := { s1 with buckets := s1.buckets.del tag, tagHolds := s1.tagHolds.put tag (b.closedAt + 10000000) }
      s2.finish c n k { e with out := out } r.1

end Sys2Proof.Machine
end

