-- ==== Sys2Proof/Machine/Refresh.lean ====
section
/-! DEFINITION. The refresh macro (R130 to R137): its command and its primitives. -/

namespace Sys2Proof.Machine

/-- The plan that `he.refresh` selects (R130). -/
def State.refreshPlan (s : State) (c : Nat) (x : Stream) (a : Card) (imm : Nat) : Option (Nat × Plan) :=
  let id := imm % 2 ^ 32
  if id = 0 then (s.ctx c).planFor a.accession x.wing else ((s.ctx c).plans.get id).map (fun p => (id, p))
/-- `he.refresh` (R130, R131, R135). -/
def chkRefresh (s : State) (c : Nat) (x : Stream) (e : Entry) : Checked := do
  need (e.handles [true, false, true, false] && decide (e.cmd.imm < 2 ^ 33)) .badParameter
  let (a, q) ← s.ctArg c (s.opnd c e 0) [1]
  need (a.comps == 2 && !a.raised) .badParameter
  match s.refreshPlan c x a e.cmd.imm with
  | none => .error .badParameter
  | some (id, p) =>
    let lost := (s.wing p.wing).lost
    need (lost || p.wing == x.wing) .badParameter
    let c2s := e.cmd.imm.testBit 32
    let l := if c2s then p.midLevel q else p.outLevel q
    let sec := a.secret || (s.planDiags c p).any (fun k => k.secret)
    let d ← s.ctDst c (s.opnd c e 2) q 2 l sec
    need (!lost) .unitAbsent
    need (p.set == a.set && d.set == a.set && a.scale == p.scaleIn) .parameterMismatch
    need (a.accession == p.accession) .keyMismatch
    need ((s.planKeys c p q).all (fun k => !k.damaged)) .uncorrectableMemory
    let r := p.refreshed q a
    let d1 := { result d [a] l 2 r.scale r.noise a.accession with secret := sec, raised := false }
    let prims := p.prims q (s.diagScale c) 0 (decide (0 < a.level)) c2s
    .ok { dests := [(e.hnd 2, d1)], fate := s.refreshFate c p q a.noise d1 (s.anyPoison c e), keys := p.primKeys (prims.headD ⟨0, 0, 0, 0, 0⟩)
          job := some { s.placeJob c id p q prims with c2s := c2s } }
/-- HE_REFRESH (R130 to R135). -/
def execHeRefresh (c n k : Nat) (s : State) : Res := act s fun s => s.issue c n k 0x111 anyImm (chkRefresh s c)

/-- A scratch slot's range. -/
def scratchRange (p : Plan) (q : ParamSet) (jb : Job) : Nat × Nat := (p.scratch + jb.scratch * scratchBytes q, scratchBytes q)
/-- A refresh releases its scratch slot, whose content is then open, or zeroed when the command is secret (R136). One in carrels gives back
its slots as it leaves its bays. -/
def State.endJob (s : State) (c : Nat) (e : Entry) : State :=
  match e.job with
  | none => s
  | some jb =>
    match (s.ctx c).plans.get jb.plan with
    | none => s
    | some p =>
      match s.pset c p.set with
      | none => s
      | some q =>
        let r := scratchRange p q jb
        if jb.inCarrel || (s.reach r.1 r.2).isSome then s
        else if (e.reads ++ e.writes).any (fun h => (s.card c h).any (fun x => x.secret)) then s.write r.1 (zeros r.2)
        else s.scramble r.1 r.2

/-- What a primitive computes (Table 5.4, Table 5.3). -/
def State.primValue (s : State) (c : Nat) (e : Entry) (p : Plan) (q : ParamSet) (jb : Job) (x : Prim) : Except (Status × Nat) Ct :=
  let reg (i : Nat) : Ct := (jb.regs.get i).getD { level := 0, comps := [] }
  let a := reg x.a
  let b := reg x.b
  let card (h : Nat) : Card := (s.card c h).getD { kind := .key }
  let src : Except (Status × Nat) Ct :=
    if x.b = 1 then (match s.operand c e x.a with | some cd => s.ctOf c cd q 0 | none => .error (.addressFault, 0)) else .ok a
  match x.op with
  | 0x100 => .ok (a.add q false b)
  | 0x101 => .ok (a.add q true b)
  | 0x106 => .ok (s.relin q (card p.relin) 8 (a.tensor q b))
  | 0x108 => .ok (s.rotate q (card x.arg) 8 a)
  | 0x10A => .ok (a.rescale q)
  | 0x10B => src
  | 0x10C => src.map (fun y => y.modraise q x.arg)
  | 0x10E =>
    match if x.arg < 64 then p.cts[x.arg]? else p.stc[x.arg - 64]? with
    | none => .error (.addressFault, 0)
    | some t =>
      match (List.range (t.n1 * t.n2)).mapM (fun k => s.ptLimbs c (card t.diag) q k a.level) with
      | .error er => .error er
      | .ok ds => .ok (s.linear q 8 t.n1 t.n2 ((List.range (t.n1 + t.n2 - 2)).map (fun i => card (t.keys + i))) (fun k => ds.getD k []) a)
  | 0x110 => .ok (a.scaleBy q (intOf x.arg))
  | 1 => .ok (a.addConst q (intOf x.arg))
  | 3 => let m := a.monomial q
         .ok (if x.arg = 1 then (reg x.d).add q false m else m)
  | _ => .ok a
/-- A refresh ends with a primitive's status (R136). -/
def State.failRefresh (s : State) (c n k : Nat) (e : Entry) (st : Status × Nat) : State :=
  (s.endJob c e).failEntry c n k { e with out := { e.out with aux := st.2, aValid := st.2 != 0 } } st.1
/-- REFRESH_PRIMITIVE_BOUNDARY (R132, R136): a pending fault or abort ends the refresh; else the primitive whose keys have streamed
completes, and the next one issues. The macro draws at its raise: DESIGN CHOICE, log entry 79, R168 names the macro and not the place nor
the amount. -/
def execRefreshPrimitiveBoundary (c n k : Nat) (s : State) : Res :=
  act s fun s =>
    match s.stream c n, s.entry c n k with
    | some t, some e =>
      let busy : Bool := s.hasPieces ⟨c, n, k⟩
      match e.job, e.phase == .issued && !busy, e.fate with
      | some _, true, some st => s.failRefresh c n k e (st, 0)
      | some jb, true, none =>
        match jb.prims, (s.ctx c).plans.get jb.plan with
        | x :: rest, some p =>
          if !e.keys.isEmpty || !e.todo.isEmpty then s else
          match s.pset c p.set with
          | none => s
          | some q =>
            let r := scratchRange p q jb
            match if x.op = 0x10C ∧ s.hex.drbgError then some .cryptoFail else if jb.inCarrel then none else s.deny c r.1 r.2 with
            | some st => s.failRefresh c n k e (st, 0)
            | none =>
              match s.primValue c e p q jb x with
              | .error st => s.failRefresh c n k e st
              | .ok v =>
                let regs := jb.regs.put x.d v
                let jb1 := { jb with prims := rest, regs := regs }
                let e1 := match rest with
                  | y :: _ => { e with job := some jb1, keys := p.primKeys y, level := ((regs.get y.a).map (fun z => z.level)).getD 0 }
                  | [] => { e with job := some jb1, keys := jb.keys, level := jb.level }
                let s := if x.op = 0x10C then s.drew c t.wing 1 else s
                (({ s with draw := s.draw + 1 }.setEntry c n k e1).startPieces t.wing c n k e1).wantPass t.wing c n k e1
        | _, _ => s
      | _, _, _ => s
    | _, _ => s

/-- What `he.refresh` writes when its macro has run (R132, R135). -/
def State.runRefresh (s : State) (c : Nat) (e : Entry) : Ran :=
  match e.job, s.card c (e.hnd 2) with
  | some jb, some d =>
    match (s.ctx c).plans.get jb.plan with
    | some p =>
      let q := s.psetOf c d
      ran (s.putCt c (e.hnd 2) q ((jb.regs.get (p.outReg q 0 jb.c2s)).getD { level := 0, comps := [] }))
    | none => .error (.addressFault, 0)
  | _, _ => .error (.addressFault, 0)

end Sys2Proof.Machine
end

