-- ==== Sys2Proof/Machine/Lookup.lean ====
section
/-! DEFINITION. Scheme switching and table lookup (R138 to R144): extraction, programmable bootstrapping, packing. -/

namespace Sys2Proof.Machine

/-! Noise (Table 5.8) -/

/-- ⌈log2 q⌉ in 1/256. -/
def qBits (q : Nat) : Int := 256 * clog2 q
/-- The terms of Table 5.8. DESIGN CHOICE: log2 c and ½·log2(…) of one product are rounded up once, as one term; the spec does not say
whether R101 rounds each. Log entry 65. -/
def lutKL (worst : Bool) (n q vk aux : Nat) : Int :=
  let l := gadgetLen aux
  let b := gadgetLog aux
  if worst then oplus (vk + log2Up (2 ^ n * l * 2 ^ b) 2) (qBits q - 256 * (l * b) - 256 + 256 * n)
  else oplus (vk + halfLogUp (c2Num n * 2 ^ n * l * 4 ^ b) (12 * c2Den)) (qBits q - 256 * (l * b) + halfLogUp (c2Num n * 2 ^ n) (12 * c2Den))
def lutMS (worst : Bool) (ng q lweN : Nat) : Int :=
  if worst then qBits q - 256 * (ng + 2) + log2Up (lweN + 1) 1
  else qBits q - 256 * (ng + 1) + halfLogUp (c2Num ng * (lweN + 2)) (24 * c2Den)
def lutBR (worst : Bool) (ng q lweN vk aux : Nat) : Int :=
  let l := gadgetLen aux
  let b := gadgetLog aux
  if worst then oplus (vk + log2Up (lweN * 2 * l * 2 ^ ng * 2 ^ b) 2) (qBits q - 256 * (l * b) - 256 + log2Up (lweN * (2 ^ ng + 1)) 1)
  else oplus (vk + halfLogUp (c2Num ng * lweN * 2 * l * 2 ^ ng * 4 ^ b) (12 * c2Den))
    (qBits q - 256 * (l * b) + halfLogUp (c2Num ng * lweN * (2 ^ ng + 1)) (12 * c2Den))

/-! Checks -/

/-- An LWE batch operand and its set. -/
def State.lweArg (s : State) (c : Nat) (o : Option Card) (dim : ParamSet → Nat) : Except Status (Card × ParamSet) :=
  match o with
  | some k => let p := s.psetOf c k
              if k.kind == .lwe && k.lweDim == dim p then .ok (k, p) else .error .badParameter
  | none => .error .badParameter
/-- An LWE batch destination with room for a number of samples. -/
def State.lweDst (s : State) (c : Nat) (o : Option Card) (dim : ParamSet → Nat) (k : Nat) (secret : Bool) : Except Status (Card × ParamSet) := do
  let (d, p) ← s.lweArg c o dim
  need (decide (k ≤ d.count) && (!secret || s.secretOk c d)) .badParameter
  .ok (d, p)
/-- `lu.extract` (R138, R140, R143). -/
def chkExtract (s : State) (c : Nat) (x : Stream) (e : Entry) : Checked := do
  let i := e.cmd.imm
  let j0 := bits i 0 16
  let stride := bits i 16 16
  let k := bits i 32 16
  need (e.handles [true, false, true, true] && decide (i < 2 ^ 48 ∧ 1 ≤ stride ∧ 1 ≤ k ∧ k ≤ 4096)) .badParameter
  match s.opnd c e 0 with
  | none => .error .badParameter
  | some a =>
    let p := s.psetOf c a
    need (a.kind == .ciphertext && (p.scheme == 1 || p.scheme == 2) && a.level == 0 && a.comps == 2) .badParameter
    need (decide (j0 + (k - 1) * stride < p.n)) .badParameter
    let ky ← s.keyArg c x.wing (e.cmd.h.getD 3 none) (· == kLweks)
    let (d, q) ← s.lweDst c (s.opnd c e 2) (fun q => q.lweN) k a.secret
    need (!(s.wing ky.wing).lost) .unitAbsent
    need (ky.set == d.set && q.prime 0 == p.prime 0 && bits ky.aux 16 8 == p.log2n) .parameterMismatch
    need (a.accession == ky.accession) .keyMismatch
    need (!ky.damaged) .uncorrectableMemory
    let kl := lutKL (s.ctx c).noiseWorst p.log2n (p.prime 0) ky.noise ky.aux
    let v0 : Int := if p.scheme = 2 then a.noise - log2Down p.t 1 else a.noise
    let v := estimate [a.noise, ky.noise] (oplus v0 kl)
    .ok { dests := [(e.hnd 2, { d with noise := v, floor := a.floor, accession := a.accession, secret := a.secret })]
          fate := if s.anyPoison c e then some .poisonedInput else none, keys := [e.hnd 3] }
/-- A bay of the context's group on a wing has LU (R73, R197). -/
def State.hasLu (s : State) (w c : Nat) : Bool := (s.group w c).any (fun b => (s.bay b).lu)
/-- `lu.eval` (R138, R141, R143, R144). -/
def chkEval (s : State) (c : Nat) (x : Stream) (e : Entry) : Checked := do
  let i := e.cmd.imm
  need (e.handles [true, true, true, true] && decide (1 ≤ i ∧ i ≤ 10) && e.hnd 0 != e.hnd 2) .badParameter
  let (a, q) ← s.lweArg c (s.opnd c e 0) (fun q => q.lweN)
  let (d, _) ← s.lweDst c (s.opnd c e 2) (fun q => q.n) a.count a.secret
  let ky ← s.keyArg c x.wing (e.cmd.h.getD 3 none) (· == kBoot)
  match s.opnd c e 1 with
  | none => .error .badParameter
  | some t =>
    need (t.kind == .clear && t.elem == .res64 && t.slotCount == 2 ^ i) .badParameter
    need (s.hasLu x.wing c && !(s.wing ky.wing).lost) .unitAbsent
    need (d.set == a.set && ky.set == a.set) .parameterMismatch
    need (a.accession == ky.accession) .keyMismatch
    need (!ky.damaged) .uncorrectableMemory
    let w := (s.ctx c).noiseWorst
    let tooNoisy := a.noise == 0xFFFF || decide (256 * ((Nat.log2 (q.prime 0) : Int) - (i + 2)) < oplus a.noise (lutMS w q.log2n (q.prime 0) q.lweN))
    let v := estimate [ky.noise] (lutBR w q.log2n (q.prime 0) q.lweN ky.noise ky.aux)
    .ok { dests := [(e.hnd 2, { d with noise := v, floor := a.floor, accession := a.accession, secret := a.secret || t.secret })]
          fate := if s.anyPoison c e then some .poisonedInput else if tooNoisy then some .noiseExhausted else none
          keys := List.replicate ((a.count + 3) / 4) (e.hnd 3) }
/-- `lu.pack` (R138, R142, R143). -/
def chkPack (s : State) (c : Nat) (x : Stream) (e : Entry) : Checked := do
  let i := e.cmd.imm
  let lk := bits i 64 16
  need (e.handles [true, true, true, true] && decide (i < 2 ^ 80) && scaleOk (i % 2 ^ 64)) .badParameter
  let (a, q) ← s.lweArg c (s.opnd c e 0) (fun q => q.n)
  match s.opnd c e 2 with
  | none => .error .badParameter
  | some d0 =>
    let p := s.psetOf c d0
    need (p.scheme == 1 && decide (lk ≤ p.log2n) && a.count == 2 ^ lk) .badParameter
    let d ← s.ctDst c (some d0) p 2 0 a.secret
    let gs ← s.keyRun c x.wing (e.cmd.h.getD 1 none) p.log2n
    let sw ← s.keyArg c x.wing (e.cmd.h.getD 3 none) (· == kSwitch)
    need (gs.zipIdx.all (fun g => g.1.aux == 2 ^ (g.2 + 1) + 1)) .badParameter
    let ks := sw :: gs
    need (ks.all (fun k => !(s.wing k.wing).lost)) .unitAbsent
    need (q.prime 0 == p.prime 0) .parameterMismatch
    s.keyChecks ks d.set a.accession
    let w := (s.ctx c).noiseWorst
    let kg := gs.map (fun g => g.noise) |>.foldl max 0
    let v := estimate [a.noise, sw.noise, kg] (oplus (oplus a.noise (tKS w p 0 sw.noise)) (tKS w p 0 kg) + 256 * p.log2n)
    let r := { d with level := 0, comps := 2, scale := i % 2 ^ 64, noise := v, floor := a.floor, accession := sw.target
                      secret := a.secret, raised := false }
    .ok { dests := [(e.hnd 2, r)]
          fate := if s.anyPoison c e then some .poisonedInput else if capFails (s.ctx c) p r then some .levelExhausted
            else if precFails p r then some .noiseExhausted else none
          keys := e.hnd 3 :: (List.range p.log2n).map (· + e.hnd 1) }

/-- LU_EXTRACT (R140). -/
def execLuExtract (c n k : Nat) (s : State) : Res := act s fun s => s.issue c n k 0x200 anyImm (chkExtract s c)
/-- LU_EVAL (R141). -/
def execLuEval (c n k : Nat) (s : State) : Res := act s fun s => s.issue c n k 0x201 anyImm (chkEval s c)
/-- LU_PACK (R142). -/
def execLuPack (c n k : Nat) (s : State) : Res := act s fun s => s.issue c n k 0x202 anyImm (chkPack s c)

/-! What they compute -/

/-- The gadget G_j = round(q / B^(j+1)) (the symbols before R78). -/
def gadget (q b l : Nat) : List Nat := (List.range l).map (fun j => roundEven q (2 ^ (b * (j + 1))))
/-- The digits in [−B/2, B/2) whose sum over the gadget lies nearest to `r`, and how far off it lies. The search takes at each place the
four digits around the quotient: beyond them no later digit makes up the distance. Which of several nearest sums is taken is open:
`pick` orders the candidates. -/
def nearDigits (b pick : Nat) : List Nat → Int → List Int × Nat
  | [], r => ([], r.natAbs)
  | g :: gs, r =>
    let f := r / (max 1 g : Nat)
    let ds := ([f - 1, f, f + 1, f + 2].map (fun d => max (-(2 ^ (b - 1))) (min (2 ^ (b - 1) - 1) d))).eraseDups
    let k := pick % 4
    let zs := (ds.drop k ++ ds.take k).map (fun d => let z := nearDigits b (pick / 4) gs (r - d * g); (d :: z.1, z.2))
    zs.foldl (fun m z => if z.2 < m.2 then z else m) (zs.headD ([], 0))
/-- Signed digits of a residue modulo q on the gadget, whose sum is nearest to it (R78, R140). -/
def gadgetDigits (q b l pick a : Nat) : List Int :=
  let x := nearDigits b pick (gadget q b l) a
  let y := nearDigits b pick (gadget q b l) ((a : Int) - q)
  if y.2 < x.2 then y.1 else x.1
/-- A component of a ciphertext in coefficient form, whatever its layout. -/
def coefForm (cd : Card) (p : ParamSet) (limb : List Nat) : List Nat :=
  if cd.layout == .bitrev then nttInv (p.prime 0) p.log2n limb else limb
/-- The sample of a coefficient (R140 step 1): a[0 … N − 1] and b. -/
def sampleOf (q : Nat) (c0 c1 : Array Nat) (j : Nat) : List Nat × Nat :=
  let n := c1.size
  ((List.range n).map (fun m => let v := c1.getD ((j + n - m) % n) 0; if j < m then (q - v) % q else v), c0.getD j 0)
/-- LWE samples as an engine reads them (R22, R139). -/
def State.lweSamples (s : State) (c : Nat) (cd : Card) (q : Nat) : Except (Status × Nat) (List (List Nat)) :=
  (s.samples c cd).map (fun v => v.zipIdx.map (fun x => x.1.zipIdx.map (fun w => s.canon q (2 ^ 42 + x.2 * 2 ^ 20 + w.2) w.1)))
/-- A word of an LWEKS block (R79). -/
def State.lweKey (s : State) (p : ParamSet) (cd : Card) (m i : Nat) : Nat :=
  let q := p.prime 0
  let v := s.num (blockAddr p cd m + 8 * i) 8
  if cd.altersBlock p m || decide (q ≤ v) then s.freeIn 16 (m * 2 ^ 15 + i) q else v
/-- `lu.extract`. -/
def State.runExtract (s : State) (c : Nat) (e : Entry) : Ran :=
  match s.opnd c e 0, s.opnd c e 2, s.opnd c e 3 with
  | some a, some d, some ky =>
    match s.ctOf c a (s.psetOf c a) 0 with
    | .error er => .error er
    | .ok v =>
      let p := s.psetOf c a
      let lp := s.psetOf c ky
      let q := p.prime 0
      let l := gadgetLen ky.aux
      let limb (k : Nat) : Array Nat := (coefForm a p ((v.comps.getD k []).getD 0 [])).toArray
      let c0 := limb 0
      let c1 := limb 1
      let ti := if p.scheme = 2 then invMod q p.t else 1
      let one (i : Nat) : List Nat :=
        let sm := sampleOf q c0 c1 (bits e.cmd.imm 0 16 + i * bits e.cmd.imm 16 16)
        let ds := sm.1.map (fun x => gadgetDigits q (gadgetLog ky.aux) l (Config.free s.draw (2 ^ 43)) (x * ti % q))
        let sum (w : Nat) : Int :=
          (ds.zipIdx.map (fun x => (x.1.zipIdx.map (fun y => y.1 * (s.lweKey lp ky x.2 (y.2 * (lp.lweN + 1) + w) : Int))).sum)).sum
        (List.range lp.lweN).map (fun w => modInt q (sum w)) ++ [modInt q (sum lp.lweN + (sm.2 * ti : Nat))]
      ran (s.putSamples c d ((List.range (bits e.cmd.imm 32 16)).map one))
  | _, _, _ => .error (.addressFault, 0)

/-- An RLWE pair (b, a) over the lookup ring, in coefficient form. -/
abbrev Rlwe := List Nat × List Nat
/-- X^k times a polynomial, for k below 2N. -/
def mulMono (q k : Nat) (a : List Nat) : List Nat :=
  let n := a.length
  let v := a.toArray
  (List.range n).map (fun i =>
    let j := (i + 2 * n - k) % (2 * n)
    if j < n then v.getD j 0 else (q - v.getD (j - n) 0) % q)
/-- The external product of a BOOT entry with a pair (R78). -/
def State.external (s : State) (p : ParamSet) (ky : Card) (i : Nat) (x : Rlwe) : Rlwe :=
  let q := p.prime 0
  let l := gadgetLen ky.aux
  let b := gadgetLog ky.aux
  let digs (v : List Nat) : List (List Nat) :=
    let d := v.map (gadgetDigits q b l (Config.free s.draw (2 ^ 43)))
    (List.range l).map (fun j => nttFwd q p.log2n (d.map (fun y => modInt q (y.getD j 0))))
  let row (r cp : Nat) : List Nat := s.keyLimb p ky 16 (i * 2 * l + r) 0 cp
  let out (cp : Nat) : List Nat :=
    nttInv q p.log2n (((digs x.1).zipIdx.map (fun y => mulL q y.1 (row (2 * y.2) cp)) ++ (digs x.2).zipIdx.map (fun y => mulL q y.1 (row (2 * y.2 + 1) cp))).foldl
      (addL q) (List.replicate p.n 0))
  (out 0, out 1)
/-- The blind rotation of one sample, and the sample of its constant coefficient (R141). -/
def State.bootstrap (s : State) (p : ParamSet) (ky : Card) (lp : Nat) (tab : Array Nat) (sm : List Nat) : List Nat :=
  let q := p.prime 0
  let n := p.n
  let ms (x : Nat) : Nat := (2 * x * (2 * n) + q) / (2 * q) % (2 * n)
  let entry (m : Nat) : Nat :=
    let i := (m * 2 ^ lp + n / 2) / n
    if i < 2 ^ lp then tab.getD i 0 % q else (q - tab.getD (i - 2 ^ lp) 0 % q) % q
  let test := (List.range n).map (fun j => if j = 0 then entry 0 else (q - entry (n - j)) % q)
  let acc0 : Rlwe := (mulMono q (ms (sm.getD p.lweN 0)) test, List.replicate n 0)
  let acc := (List.range p.lweN).foldl (fun (acc : Rlwe) i =>
    let k := ms (sm.getD i 0)
    let diff (v : List Nat) : List Nat := subL q (mulMono q k v) v
    let y := s.external p ky i (diff acc.1, diff acc.2)
    (addL q acc.1 y.1, addL q acc.2 y.2)) acc0
  let r := sampleOf q acc.1.toArray acc.2.toArray 0
  r.1 ++ [r.2]
/-- `lu.eval`. -/
def State.runEval (s : State) (c : Nat) (e : Entry) : Ran :=
  match s.opnd c e 0, s.opnd c e 1, s.opnd c e 2, s.opnd c e 3 with
  | some a, some t, some d, some ky =>
    let p := s.psetOf c a
    match s.lweSamples c a (p.prime 0), s.slotElems c t with
    | .error er, _ => .error er
    | _, .error er => .error er
    | .ok sm, .ok tab =>
      let tb := (tab.zipIdx.map (fun x => s.canon (p.prime 0) (2 ^ 41 + x.2) x.1)).toArray
      ran (s.putSamples c d (sm.map (s.bootstrap p ky e.cmd.imm tb)))
  | _, _, _, _ => .error (.addressFault, 0)

/-- A sample lifted to a level-0 ciphertext in ring N under s_g(X^(N/N_g)) (R142). -/
def liftSample (p : ParamSet) (ng : Nat) (sm : List Nat) : Ct :=
  let q := p.prime 0
  let st := p.n / ng
  let v := sm.toArray
  let c0 := (List.range p.n).map (fun i => if i = 0 then v.getD ng 0 else 0)
  let c1 := (List.range p.n).map (fun i =>
    if i % st ≠ 0 then 0 else if i = 0 then v.getD 0 0 else (q - v.getD (ng - i / st) 0) % q)
  { level := 0, comps := [[nttFwd q p.log2n c0], [nttFwd q p.log2n c1]] }
/-- Elements of a list at even or odd positions. -/
def everyOther {α : Type} (odd : Bool) (l : List α) : List α := (l.zipIdx.filter (fun x => x.2 % 2 == if odd then 1 else 0)).map (fun x => x.1)
/-- Multiplication of a level-0 ciphertext by X^k. -/
def Ct.shift (p : ParamSet) (k : Nat) (a : Ct) : Ct :=
  let q := p.prime 0
  a.map (fun c => c.map (fun x => mulL q x (nttFwd q p.log2n ((List.range p.n).map (fun i => if i = k then 1 else 0)))))
/-- The packing tree (R142): 2^j ciphertexts into one, by the automorphisms 2^i + 1. -/
def State.packTree (s : State) (p : ParamSet) (keys : Nat → Card) (j salt : Nat) (l : List Ct) : Ct :=
  match j with
  | 0 => l.headD { level := 0, comps := [] }
  | j + 1 =>
    let ev := s.packTree p keys j (2 * salt) (everyOther false l)
    let od := (s.packTree p keys j (2 * salt + 1) (everyOther true l)).shift p (p.n / 2 ^ (j + 1))
    (ev.add p false od).add p false (s.rotate p (keys j) (8 * salt) (ev.add p true od))
/-- `lu.pack`. -/
def State.runPack (s : State) (c : Nat) (e : Entry) : Ran :=
  match s.opnd c e 0, s.opnd c e 2, s.opnd c e 3 with
  | some a, some d, some sw =>
    let p := s.psetOf c d
    match s.lweSamples c a (p.prime 0) with
    | .error er => .error er
    | .ok sm =>
      let lk := bits e.cmd.imm 64 16
      let key (j : Nat) : Card := (s.card c (e.hnd 1 + j)).getD sw
      let cts := sm.zipIdx.map (fun x =>
        let y := liftSample p a.lweDim x.1
        let k := s.keySwitch p 0 sw (8 * (2 ^ 20 + x.2)) (y.comps.getD 1 [])
        ({ y with comps := [p.plus (y.comps.getD 0 []) (k.getD 0 []), k.getD 1 []] } : Ct))
      let t := s.packTree p key lk 1 cts
      let r := (List.range (p.log2n - lk)).foldl (fun (acc : Ct) j =>
        acc.add p false (s.rotate p (key (lk + j)) (8 * (2 ^ 22 + j)) acc)) t
      ran (s.putCt c (e.hnd 2) p r)
  | _, _, _ => .error (.addressFault, 0)

/-- What a lookup command computes. -/
def State.runLookup (s : State) (c : Nat) (e : Entry) : Ran :=
  match e.cmd.op with
  | 0x200 => s.runExtract c e
  | 0x201 => s.runEval c e
  | _ => s.runPack c e

end Sys2Proof.Machine
end

