-- ==== Sys2Proof/Machine/Shares.lean ====
section
/-! DEFINITION. Share mode (R146 to R162): the share commands, their checks, and what they compute. -/

namespace Sys2Proof.Machine

/-! Pairing and operands -/

/-- Immediate fields (R150). -/
def shPhase (i : Nat) : Nat := bits i 0 2
def shK (i : Nat) : Nat := bits i 8 8
def shKf (i : Nat) : Nat := bits i 16 8
def shF (i : Nat) : Nat := bits i 24 8
/-- No bit outside a command's fields is set: k, k_f, the byte at 24, REAL, TRUNC (R150). -/
def shFields (i : Nat) (k kf f real trunc : Bool) : Bool :=
  bits i 2 6 == 0 && (k || shK i == 0) && (kf || shKf i == 0) && (f || shF i == 0) && (real || !i.testBit 32) && (trunc || !i.testBit 33)
    && decide (i < 2 ^ 34)
/-- A share card of a role (R147, R150). -/
def State.shareArg (s : State) (c : Nat) (o : Option Card) (role : Nat) : Except Status (Card × ParamSet) :=
  match o with
  | some k => if k.kind == .share && k.layout == .limb && k.role == role then .ok (k, s.psetOf c k) else .error .badParameter
  | none => .error .badParameter
/-- A share destination of a role and element count; secret roles lie where they may (R164). -/
def State.shareDst (s : State) (c : Nat) (o : Option Card) (role n : Nat) : Except Status (Card × ParamSet) := do
  let (d, p) ← s.shareArg c o role
  need (d.count == n && (!roleSecret role || s.secretOk c d)) .badParameter
  .ok (d, p)
/-- A Z_t share set of a BGV or BFV set (R146). -/
def isZt (q : ParamSet) (t : Nat) : Bool := q.scheme == 6 && q.qs == [t]
/-- The share set suits the ciphertext set (R150). -/
def pairs (p q : ParamSet) : Bool := if p.scheme = 1 then q.scheme == 5 else p.packed && isZt q p.t
/-- A packed BGV or BFV set with its own Z_t set, as `sh.triple` and `sh.cmp` need (R150). -/
def pairsZt (p q : ParamSet) : Bool := (p.scheme == 2 || p.scheme == 3) && p.packed && isZt q p.t
/-- Some packed BGV or BFV set of the context has this share set as its Z_t set (R150). -/
def State.packedFor (s : State) (c : Nat) (q : ParamSet) : Bool :=
  (s.ctx c).sets.any (fun x => (x.2.scheme == 2 || x.2.scheme == 3) && x.2.packed && isZt q x.2.t)
/-- Modulus of a share set's limb. -/
def shMod (q : ParamSet) (i : Nat) : Nat := if q.scheme = 5 then 2 ^ 64 else q.prime i
/-- The result share card of a command. -/
def shareCard (d : Card) (frac bound noise acc : Nat) : Card :=
  { d with frac := frac, bound := bound, noise := noise, accession := acc, secret := roleSecret d.role, floor := 0 }
/-- T_f (R154). -/
def tF (p : ParamSet) (kf : Nat) : Option Int := if kf = 0 then none else some (256 * kf + if p.scheme = 2 then p.logT else 0)
def oplusO (a : Int) (b : Option Int) : Int := match b with | some b => oplus a b | none => a
/-- The `he.addp` term (Table 4.4). -/
def addTerm (x : Ctx) (p : ParamSet) : Int :=
  match p.scheme with | 1 => tE x.noiseWorst p.log2n | 2 => tM x.noiseWorst p.log2n p.t | _ => p.logT
/-- The magnitude of a packed mask, n + ⌈log2 t⌉ − 1 (R159, R160). -/
def maskMag (p : ParamSet) : Int := 256 * ((p.log2n : Int) + clog2 p.t - 1)
/-- Poison and the tests 7 and 8 on a ciphertext result. -/
def State.ctFate (s : State) (c : Nat) (e : Entry) (p : ParamSet) (r : Card) : Option Status :=
  if s.anyPoison c e then some .poisonedInput else if capFails (s.ctx c) p r then some .levelExhausted
  else if precFails p r then some .noiseExhausted else none
/-- Poison alone. -/
def State.inFate (s : State) (c : Nat) (e : Entry) : Option Status := if s.anyPoison c e then some .poisonedInput else none

/-! Checks -/

/-- `sh.split` (R152 to R154). -/
def chkSplit (s : State) (c : Nat) (x : Stream) (e : Entry) : Checked := do
  let i := e.cmd.imm
  need (e.handles [true, false, true, true] && e.hnd 0 != e.hnd 2 && shPhase i == 0) .badParameter
  let (a, p) ← s.ctArg c (s.opnd c e 0) [1, 2, 3]
  let ckks := p.scheme == 1
  need (shFields i ckks true ckks ckks false && decide (shKf i ≤ 62)) .badParameter
  let y := s.ctx c
  let k := shK i
  let f := shF i
  need (!ckks || decide (f ≤ 32 ∧ y.bm + 256 * (f + 40) ≤ 256 * k ∧ k ≤ 61)) .badParameter
  let d ← s.ctDst c (s.opnd c e 2) p a.comps a.level a.secret
  let (h, q) ← s.shareDst c (s.opnd c e 3) roleShare (if ckks && i.testBit 32 then p.n / 2 else p.n)
  need (d.set == a.set && pairs p q) .parameterMismatch
  s.heVerdict c x p [a] (fun ops =>
    let a := ops.getD 0 a
    match s.ctDst c (s.opnd c e 2) p a.comps a.level a.secret with
    | .error st => .error st
    | .ok d =>
      -- Table 6.5 takes T_f before T_a
      let vf := estimate [a.noise] (oplus (oplusO a.noise (tF p (shKf i))) (addTerm y p))
      let r := result d [a] a.level a.comps a.scale vf a.accession
      let lg := scaleBits true a.scale
      let wrap := ckks && decide (p.logQ a.level - 256 < oplus (oplus (lg + 256 * ((k : Int) - f) + 128) (lg + y.bm)) vf)
      let nz := if ckks then estimate [vf] (oplus ((vf : Int) - scaleBits false a.scale + 256 * f) (-256)) else 0
      let h1 := shareCard h (if ckks then f else 0) (if ckks then k else 0) nz a.accession
      .ok { heOut y p (e.hnd 2) r (s.anyPoison c e) false [] a.level with dests := [(e.hnd 2, r), (e.hnd 3, h1)], wrap := wrap })
/-- `sh.mul` PREPARE (R156 to R158). -/
def chkMulPrepare (s : State) (c : Nat) (_ : Stream) (e : Entry) : Checked := do
  need (e.handles [true, true, true, true] && shFields e.cmd.imm false false false false false) .badParameter
  let (x, _) ← s.shareArg c (s.opnd c e 0) roleShare
  let (y, _) ← s.shareArg c (s.opnd c e 1) roleShare
  let (d, _) ← s.shareDst c (s.opnd c e 2) roleOpening x.count
  let (t, _) ← s.shareArg c (s.opnd c e 3) roleTriple
  need (y.count == x.count && t.count == x.count && t.triple == .fresh) .badParameter
  need (y.set == x.set && d.set == x.set && t.set == x.set) .parameterMismatch
  need (y.accession == x.accession && t.accession == x.accession) .keyMismatch
  let d1 := { shareCard d x.frac 0 0 x.accession with noiseX := x.noise, noiseY := y.noise, fracX := x.frac }
  .ok { dests := [(e.hnd 2, d1)], fate := s.inFate c { e with reads := e.hnd 3 :: e.reads }
        also := [(e.hnd 3, { t with triple := .opened, opening := e.hnd 2 })] }
/-- `sh.mul` FINISH (R156 to R158). -/
def chkMulFinish (s : State) (c : Nat) (_ : Stream) (e : Entry) : Checked := do
  let trunc := e.cmd.imm.testBit 33
  need (e.handles [true, true, true, true] && shFields e.cmd.imm false false false false true) .badParameter
  let (o, q) ← s.shareArg c (s.opnd c e 0) roleOpening
  let (pe, _) ← s.shareArg c (s.opnd c e 1) roleOpening
  let (d, _) ← s.shareDst c (s.opnd c e 2) roleShare o.count
  let (t, _) ← s.shareArg c (s.opnd c e 3) roleTriple
  need (pe.count == o.count && t.count == o.count && t.triple == .opened && t.opening == e.hnd 0) .badParameter
  need (!trunc || q.scheme == 5) .badParameter
  need (pe.set == o.set && d.set == o.set && t.set == o.set) .parameterMismatch
  need (pe.accession == o.accession && t.accession == o.accession) .keyMismatch
  let b : Int := (s.ctx c).bm
  let vx : Int := o.noiseX
  let vy : Int := o.noiseY
  let f := o.fracX
  let nz := if q.scheme = 6 then 0 else estimate [o.noiseX, o.noiseY]
    (if trunc then oplus (oplus (oplus (b + vx) (b + vy)) (vx + vy - 256 * f)) 0 else vx + vy)
  let d1 := shareCard d (if q.scheme = 6 then 0 else if trunc then f else 2 * f) 0 nz o.accession
  .ok { dests := [(e.hnd 2, d1)], fate := s.inFate c { e with reads := e.hnd 3 :: e.reads }
        also := [(e.hnd 3, { t with triple := .spent })] }
/-- `sh.triple` (R156, R159). -/
def chkTriple (s : State) (c : Nat) (_ : Stream) (e : Entry) : Checked := do
  let i := e.cmd.imm
  need (e.handles [true, true, true, true] && shPhase i == 0 && shFields i false true false false false && decide (shKf i ≤ 62)
    && e.hnd 3 != e.hnd 0 && e.hnd 3 != e.hnd 1) .badParameter
  let (a, p) ← s.ctArg c (s.opnd c e 0) [1, 2, 3]
  let (b, _) ← s.ctArg c (s.opnd c e 1) [1, 2, 3]
  need (a.comps == 2 && b.comps == 2) .badParameter
  let l := min a.level b.level
  let (t, q) ← s.shareDst c (s.opnd c e 2) roleTriple p.n
  need (t.triple == .spent) .badParameter
  let d ← s.ctDst c (s.opnd c e 3) p 2 l (a.secret || b.secret)
  need (b.set == a.set && d.set == a.set && pairsZt p q && a.scale == b.scale) .parameterMismatch
  need (a.accession == b.accession) .keyMismatch
  let y := s.ctx c
  let m := maskMag p
  let v := estimate [a.noise, b.noise]
    (oplusO (oplus (oplus (a.noise + m) (b.noise + m)) (tM y.noiseWorst p.log2n p.t)) (tF p (shKf i)))
  let r := result d [a, b] l 2 a.scale v a.accession
  .ok { dests := [(e.hnd 2, shareCard t 0 0 0 a.accession), (e.hnd 3, r)], fate := s.ctFate c e p r }
/-- `sh.cmp` OPEN (R156, R160). -/
def chkCmpOpen (s : State) (c : Nat) (_ : Stream) (e : Entry) : Checked := do
  let i := e.cmd.imm
  need (e.handles [true, true, true, true] && shFields i true false true false false) .badParameter
  let (x, q) ← s.shareArg c (s.opnd c e 0) roleShare
  let (t, _) ← s.shareArg c (s.opnd c e 1) roleTriple
  let (d, _) ← s.shareDst c (s.opnd c e 2) roleOpening x.count
  let (h, _) ← s.shareDst c (s.opnd c e 3) roleCmp x.count
  need (t.count == x.count && t.triple == .fresh) .badParameter
  need (q.scheme != 6 || decide (shK i + shF i + 3 ≤ Nat.log2 (q.prime 0))) .badParameter
  need (s.packedFor c q && t.set == x.set && d.set == x.set && h.set == x.set) .parameterMismatch
  need (t.accession == x.accession) .keyMismatch
  .ok { dests := [(e.hnd 2, { shareCard d 0 0 0 x.accession with noiseX := x.noise, noiseY := 0, fracX := 0 }),
                  (e.hnd 3, { shareCard h 0 0 0 x.accession with opening := e.hnd 1 })]
        fate := s.inFate c { e with reads := e.hnd 1 :: e.reads }
        also := [(e.hnd 1, { t with triple := .opened, opening := e.hnd 2 })] }
/-- `sh.cmp` REVEAL (R156, R160). -/
def chkCmpReveal (s : State) (c : Nat) (_ : Stream) (e : Entry) : Checked := do
  need (e.handles [true, true, true, true] && shFields e.cmd.imm false false false false false) .badParameter
  let (h, _) ← s.shareArg c (s.opnd c e 0) roleCmp
  let (pe, _) ← s.shareArg c (s.opnd c e 1) roleOpening
  let (d, _) ← s.shareDst c (s.opnd c e 2) roleReveal h.count
  let (t, _) ← s.shareArg c (s.opnd c e 3) roleTriple
  let (o, _) ← s.shareArg c (s.card c t.opening) roleOpening
  need (pe.count == h.count && t.count == h.count && o.count == h.count && t.triple == .opened && h.opening == e.hnd 3) .badParameter
  need (pe.set == h.set && d.set == h.set && t.set == h.set && o.set == h.set) .parameterMismatch
  need (pe.accession == h.accession && t.accession == h.accession) .keyMismatch
  .ok { dests := [(e.hnd 2, shareCard d 0 0 0 h.accession)]
        fate := s.inFate c { e with reads := [e.hnd 0, e.hnd 3, t.opening] ++ e.reads }
        also := [(e.hnd 3, { t with triple := .spent })] }
/-- `sh.cmp` FINISH (R160). -/
def chkCmpFinish (s : State) (c : Nat) (_ : Stream) (e : Entry) : Checked := do
  need (e.handles [true, true, true, false] && shFields e.cmd.imm false false false false false && e.hnd 1 != e.hnd 2) .badParameter
  let (h, q) ← s.shareArg c (s.opnd c e 0) roleCmp
  let (b, p) ← s.ctArg c (s.opnd c e 1) [1, 2, 3]
  need (decide (h.count ≤ p.n)) .badParameter
  let d ← s.ctDst c (s.opnd c e 2) p b.comps b.level true
  need (d.set == b.set && pairsZt p q) .parameterMismatch
  need (b.accession == h.accession) .keyMismatch
  let y := s.ctx c
  let m := maskMag p
  let w := y.noiseWorst
  let mul : Int := if p.scheme = 2 then b.noise + m else oplus (b.noise + m) (tM w p.log2n p.t + m)
  let r := { result d [b] b.level b.comps b.scale (estimate [b.noise] (oplus mul (addTerm y p))) b.accession with secret := true }
  .ok { dests := [(e.hnd 2, r)], fate := s.ctFate c { e with reads := e.hnd 0 :: e.reads } p r }
/-- `sh.join` RESHARE (R161). -/
def chkReshare (s : State) (c : Nat) (_ : Stream) (e : Entry) : Checked := do
  let i := e.cmd.imm
  need (e.handles [true, false, true, false] && shFields i true false false false false) .badParameter
  let (x, q) ← s.shareArg c (s.opnd c e 0) roleShare
  let (d, _) ← s.shareDst c (s.opnd c e 2) roleOpening x.count
  need (q.scheme == 5 && d.set == x.set) .parameterMismatch
  .ok { dests := [(e.hnd 2, shareCard d x.frac 0 0 x.accession),
                  (e.hnd 0, { x with bound := shK i })]
        fate := s.inFate c { e with reads := e.hnd 0 :: e.reads } }
/-- `sh.join` ADD (R161). -/
def chkJoinAdd (s : State) (c : Nat) (t : Stream) (e : Entry) : Checked := do
  need (e.handles [true, true, true, false] && shFields e.cmd.imm false false false false false && e.hnd 0 != e.hnd 2) .badParameter
  let (a, p) ← s.ctArg c (s.opnd c e 0) [1, 2, 3]
  let (x, q) ← s.shareArg c (s.opnd c e 1) roleShare
  need (q.scheme != 5 || x.bound != 0) .badParameter
  need (decide (x.count ≤ p.n) && (p.scheme != 1 || decide (x.count ≤ p.n / 2) || x.count % 2 == 0)) .badParameter
  let d ← s.ctDst c (s.opnd c e 2) p a.comps a.level true
  need (d.set == a.set && pairs p q) .parameterMismatch
  need (a.accession == x.accession) .keyMismatch
  let y := s.ctx c
  s.heVerdict c t p [a] (fun ops =>
    let a := ops.getD 0 a
    match s.ctDst c (s.opnd c e 2) p a.comps a.level true with
    | .error st => .error st
    | .ok d =>
      let base := oplus a.noise (addTerm y p)
      let v := if p.scheme = 1 then estimate [a.noise, x.noise] (oplus base (scaleBits false a.scale - 256 * x.frac + x.noise))
        else estimate [a.noise] base
      let r := { result d [a] a.level a.comps a.scale v a.accession with secret := true }
      .ok (heOut y p (e.hnd 2) r (s.anyPoison c e) false [] a.level))

/-- SH_SPLIT (R152, R153). -/
def execShSplit (c n k : Nat) (s : State) : Res := act s fun s => s.issue c n k 0x300 anyImm (chkSplit s c)
/-- SH_MUL_PREPARE (R157). -/
def execShMulPrepare (c n k : Nat) (s : State) : Res := act s fun s => s.issue c n k 0x301 (fun i => shPhase i == 0) (chkMulPrepare s c)
/-- SH_MUL_FINISH (R157); the reserved phases are refused in this row too. -/
def execShMulFinish (c n k : Nat) (s : State) : Res :=
  act s fun s => s.issue c n k 0x301 (fun i => shPhase i != 0) (fun x e => do
    need (shPhase e.cmd.imm == 1) .badParameter
    chkMulFinish s c x e)
/-- SH_TRIPLE (R159). -/
def execShTriple (c n k : Nat) (s : State) : Res := act s fun s => s.issue c n k 0x302 anyImm (chkTriple s c)
/-- SH_CMP_OPEN (R160). -/
def execShCmpOpen (c n k : Nat) (s : State) : Res := act s fun s => s.issue c n k 0x303 (fun i => shPhase i == 0) (chkCmpOpen s c)
/-- SH_CMP_REVEAL (R160). -/
def execShCmpReveal (c n k : Nat) (s : State) : Res := act s fun s => s.issue c n k 0x303 (fun i => shPhase i == 1) (chkCmpReveal s c)
/-- SH_CMP_FINISH (R160); the reserved phase is refused in this row too. -/
def execShCmpFinish (c n k : Nat) (s : State) : Res :=
  act s fun s => s.issue c n k 0x303 (fun i => 2 ≤ shPhase i) (fun x e => do
    need (shPhase e.cmd.imm == 2) .badParameter
    chkCmpFinish s c x e)
/-- SH_JOIN_RESHARE (R161). -/
def execShJoinReshare (c n k : Nat) (s : State) : Res := act s fun s => s.issue c n k 0x304 (fun i => shPhase i == 0) (chkReshare s c)
/-- SH_JOIN_ADD (R161); the reserved phases are refused in this row too. -/
def execShJoinAdd (c n k : Nat) (s : State) : Res :=
  act s fun s => s.issue c n k 0x304 (fun i => shPhase i != 0) (fun x e => do
    need (shPhase e.cmd.imm == 1) .badParameter
    chkJoinAdd s c x e)

/-! What they compute -/

/-- A drawn integer in [−2^k, 2^k]. -/
def State.drawSym (s : State) (salt i k : Nat) : Int := (s.freeIn salt i (2 ^ (k + 1) + 1) : Int) - 2 ^ k
/-- The elements of a component of a share card: its first limb's residues, or every limb's (R147). -/
def State.shareComps (s : State) (c : Nat) (h : Option Nat) : Except (Status × Nat) (List (List (List Nat))) :=
  match h.bind (fun x => s.card c x) with
  | some cd => s.comps c cd (s.psetOf c cd) 0 cd.live
  | none => .error (.addressFault, 0)
/-- Components of a share card are written. -/
def State.putShare (s : State) (c : Nat) (h : Option Nat) (v : List (List (List Nat))) : Except (Status × Nat) State :=
  match h.bind (fun x => s.card c x) with
  | some cd => s.putComps c cd (s.psetOf c cd) 0 v
  | none => .error (.addressFault, 0)
/-- An elementwise function on share components, with each limb's modulus. -/
def shMap2 (q : ParamSet) (f : Nat → Nat → Nat → Nat) (a b : List (List Nat)) : List (List Nat) :=
  (a.zip b).zipIdx.map (fun x => let m := shMod q x.2; List.zipWith (fun u v => f m u v % m) x.1.1 x.1.2)
def shAdd (q : ParamSet) := shMap2 q (fun _ u v => u + v)
def shSub (q : ParamSet) := shMap2 q (fun m u v => u + (m - v % m))
def shMul (q : ParamSet) := shMap2 q (fun _ u v => u * v)
/-- Beaver's product share from own and peer openings and the triple (R157). -/
def beaver (q : ParamSet) (party0 : Bool) (o pe t : List (List (List Nat))) : List (List Nat) :=
  let g (l : List (List (List Nat))) (k : Nat) : List (List Nat) := l.getD k []
  let d := shAdd q (g o 0) (g pe 0)
  let e := shAdd q (g o 1) (g pe 1)
  let z := shAdd q (shAdd q (g t 2) (shMul q d (g t 1))) (shMul q e (g t 0))
  if party0 then shAdd q z (shMul q d e) else z
/-- Truncation by f bits on a party's share (R157). -/
def truncShare (party0 : Bool) (f v : Nat) : Nat :=
  let z : Int := if v < 2 ^ 63 then (v : Int) else (v : Int) - 2 ^ 64
  let r : Int := if party0 then z / 2 ^ f else -((-z) / 2 ^ f)
  (r % 2 ^ 64).toNat
/-- Packed slots as a polynomial modulo t (R28): slot j of row 0, then of row 1. -/
def packSlots (p : ParamSet) (v : List Nat) : List Nat :=
  let N := p.n
  let a := v.toArray
  let exps := (List.range (N / 2)).map (fun j => powMod (2 * N) 5 j)
  let ev := (exps.zipIdx.map (fun x => (x.1, a.getD x.2 0)) ++ exps.zipIdx.map (fun x => (2 * N - x.1, a.getD (N / 2 + x.2) 0)))
  let arr := ev.foldl (fun (z : Array Nat) x => z.setIfInBounds (x.1 / 2) x.2) (Array.replicate N 0)
  nttInv p.t p.log2n ((List.range N).map (fun i => arr.getD (brv p.log2n i) 0))
/-- A polynomial modulo t as the limbs of a level, centred. -/
def packedLimbs (p : ParamSet) (level : Nat) (v : List Nat) : List (List Nat) := p.lift level ((packSlots p v).map (centreT p.t))
/-- CKKS slot values as integer coefficients at a scale, as `he.encode` gives them (R118). -/
def State.encodeSlots (s : State) (p : ParamSet) (scale : Nat) (z : List (Nat × Nat)) : List Int :=
  if z.all (fun x => x.1 % 2 ^ 63 == 0 && x.2 % 2 ^ 63 == 0) then List.replicate p.n 0 else
  (slotTransform s.draw p.log2n z).1.map (fun x => (encodeInt (fmul fp64 s.draw x scale).1).1)
/-- Flooding noise (R152, R153): coefficients in [−2^k, 2^k], times t for BGV. -/
def State.flood (s : State) (p : ParamSet) (level kf : Nat) : List (List Nat) :=
  if kf = 0 then p.lift level (List.replicate p.n 0)
  else p.lift level ((List.range p.n).map (fun i => s.drawSym 3 i kf * if p.scheme = 2 then (p.t : Int) else 1))
/-- A real value as an FP64 pattern: num / 2^f. -/
def fixBits (num : Int) (f : Nat) : Nat := (froundI fp64 num (2 ^ f)).1
/-- Values are added into c0 as `he.addp` adds a plaintext. -/
def Ct.plusC0 (p : ParamSet) (a : Ct) (m : List (List Nat)) : Ct :=
  { a with comps := a.comps.zipIdx.map (fun x => if x.2 = 0 then p.limbs2 addL x.1 m else x.1) }
/-- The party of the module (R146): the module is party 0 when SHARE_PARTY is 0. -/
def Ctx.party0 (x : Ctx) : Bool := x.party == 0
/-- `sh.split`. -/
def State.runSplit (s : State) (c : Nat) (e : Entry) : Ran :=
  match s.opnd c e 0, s.opnd c e 2 with
  | some a, some d =>
    let p := s.psetOf c a
    match s.heArg c e p 0 0 d.level with
    | .error er => .error er
    | .ok x =>
      let i := e.cmd.imm
      let ckks := p.scheme == 1
      let r : List Int := (List.range p.n).map (fun j => if ckks then s.drawSym 1 j (shK i) else (s.freeIn 1 j p.t : Int))
      let slot (j : Nat) : Int := r.getD j 0
      let mask :=
        if ckks then x.plusC0 p (p.lift d.level (s.encodeSlots p d.scale
          ((List.range (p.n / 2)).map (fun j => (fixBits (slot (2 * j)) (shF i), fixBits (slot (2 * j + 1)) (shF i))))))
        else x.addPlain p false d.scale (packedLimbs p d.level (r.map Int.toNat))
      let out := mask.plusC0 p (s.flood p d.level (shKf i))
      let m := if ckks then 2 ^ 64 else p.t
      let keep := if ckks && i.testBit 32 then (List.range (p.n / 2)).map (fun j => slot (2 * j)) else r
      match s.putCt c (e.hnd 2) p out with
      | .error er => .error er
      | .ok s1 => match s1.putShare c (e.cmd.h.getD 3 none) [[keep.map (fun v => modInt m (-v))]] with
        | .error er => .error er
        | .ok s2 => .ok (s2, {}, [(e.hnd 2, { d with secret := false })])
  | _, _ => .error (.addressFault, 0)
/-- `sh.mul`. -/
def State.runMul (s : State) (c : Nat) (e : Entry) : Ran := do
  let h (j : Nat) : Option Nat := e.cmd.h.getD j none
  let a ← s.shareComps c (h 0)
  let b ← s.shareComps c (h 1)
  let t ← s.shareComps c (h 3)
  let q := s.psetOf c ((s.opnd c e 0).getD { kind := .share })
  if shPhase e.cmd.imm = 0 then
    let s1 ← s.putShare c (h 2) [shSub q (a.getD 0 []) (t.getD 0 []), shSub q (b.getD 0 []) (t.getD 1 [])]
    .ok (s1, {}, [])
  else
    let p0 := (s.ctx c).party0
    let z := beaver q p0 a b t
    let f := ((s.opnd c e 0).map (fun o => o.fracX)).getD 0
    let z1 := if e.cmd.imm.testBit 33 then z.map (fun l => l.map (truncShare p0 f)) else z
    let s1 ← s.putShare c (h 2) [z1]
    .ok (s1.wipeCard c (e.hnd 3), {}, [])
/-- `sh.triple`. -/
def State.runTriple (s : State) (c : Nat) (e : Entry) : Ran :=
  match s.opnd c e 0, s.opnd c e 1, s.opnd c e 2, s.opnd c e 3 with
  | some a, some b, some t, some d => do
    let p := s.psetOf c a
    let l := d.level
    let x ← s.ctOf c a p l
    let y ← s.ctOf c b p l
    let draw (k : Nat) : List Nat := (List.range p.n).map (fun j => s.freeIn (4 + k) j p.t)
    let a1 := draw 0
    let b1 := draw 1
    let r := draw 2
    let ct := ((x.mulPlain p (packedLimbs p l b1)).add p false (y.mulPlain p (packedLimbs p l a1))).addPlain p true a.scale (packedLimbs p l r)
    let c1 := (List.zipWith (fun u v => u * v) a1 b1).zipWith (fun u v => (u + v) % p.t) r
    let s1 ← s.putShare c (e.cmd.h.getD 2 none) [[a1], [b1], [c1]]
    let s2 ← s1.putCt c (e.hnd 3) p (ct.plusC0 p (s.flood p l (shKf e.cmd.imm)))
    .ok (s2, {}, [(e.hnd 2, { t with triple := .fresh }), (e.hnd 3, { d with secret := false })])
  | _, _, _, _ => .error (.addressFault, 0)
/-- `sh.cmp` OPEN. -/
def State.runCmpOpen (s : State) (c : Nat) (e : Entry) : Ran := do
  let h (j : Nat) : Option Nat := e.cmd.h.getD j none
  let x ← s.shareComps c (h 0)
  let t ← s.shareComps c (h 1)
  let xc := (s.opnd c e 0).getD { kind := .share }
  let q := s.psetOf c xc
  let m := q.prime 0
  let n := List.range xc.count
  let k := shK e.cmd.imm
  let sg := n.map (fun j => if s.freeIn 8 j 2 = 0 then 1 else m - 1)
  let sv := n.map (fun j => 2 ^ k + s.freeIn 9 j (2 ^ k))
  let rho := n.map (fun j => s.freeIn 10 j (sv.getD j 1))
  let mm := List.zipWith (fun u v => u * v % m) sg sv
  let s1 ← s.putShare c (h 3) [[sg], [sv.map (· % m)], [rho.map (· % m)]]
  let s2 ← s1.putShare c (h 2) [shSub q (x.getD 0 []) (t.getD 0 []), shSub q [mm] (t.getD 1 [])]
  .ok (s2, {}, [])
/-- `sh.cmp` REVEAL. -/
def State.runCmpReveal (s : State) (c : Nat) (e : Entry) : Ran := do
  let h (j : Nat) : Option Nat := e.cmd.h.getD j none
  let st ← s.shareComps c (h 0)
  let pe ← s.shareComps c (h 1)
  let t ← s.shareComps c (h 3)
  let o ← s.shareComps c ((s.opnd c e 3).map (fun x => x.opening))
  let q := s.psetOf c ((s.opnd c e 0).getD { kind := .share })
  let z := beaver q (s.ctx c).party0 o pe t
  let s1 ← s.putShare c (h 2) [shAdd q z (shMul q (st.getD 0 []) (st.getD 2 []))]
  .ok (s1.wipeCard c (e.hnd 3), {}, [])
/-- `sh.cmp` FINISH. Slots beyond the state's elements take a free sign, since the rule states none for them. -/
def State.runCmpFinish (s : State) (c : Nat) (e : Entry) : Ran := do
  let st ← s.shareComps c (e.cmd.h.getD 0 none)
  match s.opnd c e 1 with
  | none => .error (.addressFault, 0)
  | some b =>
    let p := s.psetOf c b
    let x ← s.ctOf c b p b.level
    let v := ((st.getD 0 []).getD 0 []).toArray
    let sg := (List.range p.n).map (fun j => if j < v.size then v.getD j 1 else if s.freeIn 11 j 2 = 0 then 1 else p.t - 1)
    let half := sg.map (fun u => (1 + (p.t - u % p.t)) * invMod p.t 2 % p.t)
    let y := (x.mulPlain p (packedLimbs p b.level sg)).addPlain p false b.scale (packedLimbs p b.level half)
    let s1 ← s.putCt c (e.hnd 2) p y
    .ok (s1.wipeCard c (e.hnd 0), {}, [])
/-- `sh.join`. -/
def State.runJoin (s : State) (c : Nat) (e : Entry) : Ran := do
  let h (j : Nat) : Option Nat := e.cmd.h.getD j none
  if shPhase e.cmd.imm = 0 then
    let x ← s.shareComps c (h 0)
    let u := (x.getD 0 []).getD 0 []
    let r := (List.range u.length).map (fun j => modInt (2 ^ 64) (s.drawSym 12 j (shK e.cmd.imm)))
    let s1 ← s.putShare c (h 2) [[List.zipWith (fun a b => (a + (2 ^ 64 - b)) % 2 ^ 64) u r]]
    let s2 ← s1.putShare c (h 0) [[r]]
    .ok (s2, {}, [])
  else
    let x ← s.shareComps c (h 1)
    match s.opnd c e 2, s.opnd c e 1 with
    | some a, some sh =>
      let p := s.psetOf c a
      let ct ← s.heArg c e p 0 0 a.level
      let u := (x.getD 0 []).getD 0 []
      let y :=
        if p.scheme = 1 then
          let v := u.map (fun (w : Nat) => fixBits (if w < 2 ^ 63 then (w : Int) else (w : Int) - 2 ^ 64) sh.frac)
          ct.plusC0 p (p.lift a.level (s.encodeSlots p a.scale (slotPairs (decide (sh.count ≤ p.n / 2)) v)))
        else ct.addPlain p false a.scale (packedLimbs p a.level u)
      let s1 ← s.putCt c (e.hnd 2) p y
      .ok (s1, {}, [])
    | _, _ => .error (.addressFault, 0)
/-- A share command draws randomness (R168). -/
def shDraws (cmd : SCmd) : Bool :=
  cmd.op == 0x300 || cmd.op == 0x302 || ((cmd.op == 0x303 || cmd.op == 0x304) && shPhase cmd.imm == 0)
/-- The numbers that a share command draws: a mask for each coefficient and, with a flood, its integer; a triple's two more shares; the three
shares of a comparison, or one, for each element (R154, R157, R158, R161). -/
def State.shNumbers (s : State) (c : Nat) (e : Entry) : Nat :=
  let n := match s.opnd c e 0 with
    | some a => if a.kind == .share then a.count else (s.psetOf c a).n
    | none => 0
  let flood := if shKf e.cmd.imm = 0 then 0 else n
  match e.cmd.op with
  | 0x300 => n + flood
  | 0x302 => 3 * n + flood
  | 0x303 => 3 * n
  | _ => n
/-- What a share command computes; one that draws on a wing whose instance is in error fails (R151, R170). -/
def State.runShare (s : State) (c w : Nat) (e : Entry) : Ran :=
  if shDraws e.cmd ∧ s.hex.drbgError then .error (.cryptoFail, 0) else
  let s := if shDraws e.cmd then s.drew c w (s.shNumbers c e) else s
  match e.cmd.op with
  | 0x300 => s.runSplit c e
  | 0x301 => s.runMul c e
  | 0x302 => s.runTriple c e
  | 0x303 => match shPhase e.cmd.imm with | 0 => s.runCmpOpen c e | 1 => s.runCmpReveal c e | _ => s.runCmpFinish c e
  | _ => s.runJoin c e

end Sys2Proof.Machine
end

