-- ==== Sys2Proof/Machine/Vector.lean ====
section
/-! DEFINITION. Elements of cards in logical order (R214), the transforms `nt.fwd` and `nt.inv` (R207, R496), `px.auto` (R50), and the
vector chain `vc.run` (R51 to R59). -/

namespace Sys2Proof.Machine

/-! Elements -/

/-- Words of a residue element: two halves where two primes are given (Table 1.4). -/
def splitW (qs : List Nat) (w : Nat) : List Nat := if qs.length = 2 then [w % 2 ^ 32, w / 2 ^ 32] else [w]
def joinW : List Nat → Nat
  | [a, b] => a + b * 2 ^ 32
  | [a] => a
  | _ => 0
/-- A modular operation on an element, half by half, each half with its own prime. -/
def mapW (qs : List Nat) (f : Nat → Nat → Nat) (w : Nat) : Nat := joinW ((qs.zip (splitW qs w)).map (fun x => f x.1 x.2 % x.1))
def map2W (qs : List Nat) (f : Nat → Nat → Nat → Nat) (w v : Nat) : Nat :=
  joinW ((qs.zip ((splitW qs w).zip (splitW qs v))).map (fun x => f x.1 x.2.1 x.2.2 % x.1))

/-- Positions of a card (R218): SLOT elements, samples, or coefficient positions. -/
def Card.posCount (cd : Card) (p : ParamSet) : Nat :=
  match cd.kind with | .clear => cd.slotCount | .lwe => cd.count | _ => cd.positions p
/-- Live words per component. -/
def Card.liveWords (cd : Card) (p : ParamSet) : Nat := wordsOf p.split cd.live
/-- Words that one position holds over components and limbs. -/
def Card.units (cd : Card) (p : ParamSet) : Nat :=
  match cd.kind with | .clear => 1 | .lwe => cd.lweDim + 1 | _ => cd.polys * cd.comps * cd.liveWords p
/-- The address of word u of position k. -/
def Card.elemAddr (cd : Card) (p : ParamSet) (u k : Nat) : Nat :=
  match cd.kind with
  | .clear => cd.base + cd.elem.size * cd.slotOff k
  | .lwe => cd.base + 8 * (k * (cd.lweDim + 1) + u)
  | _ => let w := cd.liveWords p
         cd.wordAddr p (u / w / cd.comps) (u / w % cd.comps) (u % w) k
/-- The limb that word u begins with. -/
def Card.unitLimb (cd : Card) (p : ParamSet) (u : Nat) : Nat :=
  match cd.kind with
  | .clear => 0 | .lwe => 0 | _ => if p.split then 2 * (u % cd.liveWords p) else u % cd.liveWords p
/-- The primes of word u, none for a card that carries no prime (R52); the missing half of an odd pair has modulus 1, so that it
reads 0. -/
def Card.unitPrimes (cd : Card) (p : ParamSet) (u : Nat) : List Nat :=
  match cd.kind with
  | .clear => []
  | .lwe => [p.prime 0]
  | _ =>
    let i := cd.unitLimb p u
    if cd.kind == .share && p.scheme == 5 then []
    else if p.split then [p.prime (cd.chain i), if i + 1 < cd.live then p.prime (cd.chain (i + 1)) else 1]
    else [p.prime (cd.chain i)]
/-- Words of a card in logical order: components, limbs, positions; samples for LWE cards; flat indices for SLOT cards. -/
def Card.order (cd : Card) (p : ParamSet) : List (Nat × Nat) :=
  let us := List.range (cd.units p)
  let ks := List.range (cd.posCount p)
  if cd.kind == .lwe then ks.flatMap (fun k => us.map (fun u => (u, k))) else us.flatMap (fun u => ks.map (fun k => (u, k)))
/-- A word as an engine reads it: with primes, one that is not canonical gives an unspecified residue (R22). -/
def State.elemVal (s : State) (cd : Card) (p : ParamSet) (qs : List Nat) (u k : Nat) : Nat :=
  let a := cd.elemAddr p u k
  let w := s.num a cd.elem.size
  if qs.isEmpty then w else joinW ((qs.zip (splitW qs w)).zipIdx.map (fun x => s.canon x.1.1 (2 * a + x.2) x.1.2))
/-- The words of a card at some places can be read (R217, R286). -/
def State.rdElems (s : State) (c : Nat) (cd : Card) (p : ParamSet) (l : List (Nat × Nat)) : Except (Status × Nat) Unit :=
  s.getAll c cd.base (l.map (fun x => (cd.elemAddr p x.1 x.2, cd.elem.size)))
/-- Padding of the rows of a SLOT destination that hold the flat indices written, where it can be reached (R223). -/
def State.padRows (s : State) (c : Nat) (cd : Card) (nopad : Bool) (fs : List Nat) : List (Nat × List Byte) :=
  if nopad || cd.kind != .clear then [] else
    let d := max 1 (cd.dims.getD 0 1)
    let rows := (List.range (cd.slotCount / d)).filter (fun r => fs.any (fun f => f / d == r))
    ((rows.flatMap (fun r => cd.padding (r * d))).map (fun o => (cd.base + o * cd.elem.size, leBytes cd.elem.size cd.fill))).filter
      (fun w => (s.deny c w.1 cd.elem.size).isNone)
/-- Words are written at places of a card, each where it can be reached (R59, R217), over the padding of their rows (R223, R224). -/
def State.wrElems (s : State) (c : Nat) (cd : Card) (p : ParamSet) (pads : List (Nat × List Byte)) (l : List ((Nat × Nat) × Nat)) :
    Except (Status × Nat) State :=
  match s.canAll c cd.base (l.map (fun z => (cd.elemAddr p z.1.1 z.1.2, cd.elem.size))) with
  | .error e => .error e
  | .ok _ => .ok (s.writeMany (pads ++ l.map (fun z => (cd.elemAddr p z.1.1 z.1.2, leBytes cd.elem.size z.2))))

/-! Clear arithmetic -/

def Elem.residue : Elem → Bool
  | .res64 => true | .res30x2 => true | _ => false
/-- A clear sum with its flags (R30). -/
def clearAdd (t : Elem) (draw x y : Nat) : Nat × Nat :=
  match t.fmt with | some f => fadd f draw x y | none => ((x + y) % 2 ^ (8 * t.size), 0)
/-- A clear product with its flags (R30). -/
def clearMul (t : Elem) (draw x y : Nat) : Nat × Nat :=
  match t.fmt with | some f => fmul f draw x y | none => (x * y % 2 ^ (8 * t.size), 0)
/-- The order of two floating-point values; none with a NaN. -/
def fcmp (f : Fmt) (x y : Nat) : Option Ordering :=
  match fdec f x, fdec f y with
  | .nan, _ => none
  | _, .nan => none
  | .inf a, .inf b => some (compare (if a then 0 else 1) (if b then 0 else 1))
  | .inf a, _ => some (if a then .lt else .gt)
  | _, .inf b => some (if b then .gt else .lt)
  | .fin na ma ea, .fin nb mb eb => let b := min ea eb; some (compare (scaled na ma ea b) (scaled nb mb eb b))
/-- A comparison of Table 2.3 on an order; a NaN is unequal to everything. -/
def ordHolds (cond : Nat) (o : Option Ordering) : Bool :=
  match cond, o with
  | 0, some .eq => true | 1, some .eq => false | 1, _ => true
  | 2, some .lt => true | 3, some .lt => true | 3, some .eq => true
  | 4, some .gt => true | 5, some .gt => true | 5, some .eq => true
  | _, _ => false
/-- The signed value of an integer element, or the unsigned one. -/
def elemInt (t : Elem) (v : Nat) : Int :=
  match t with
  | .int32 => if v < 2 ^ 31 then (v : Int) else (v : Int) - 2 ^ 32
  | .int64 => if v < 2 ^ 63 then (v : Int) else (v : Int) - 2 ^ 64
  | _ => v
/-- A value converted exactly to binary64. -/
def toFp64 (f : Fmt) (draw x : Nat) : Nat :=
  match fdec f x with
  | .nan => fnan fp64 draw
  | .inf n => finf fp64 n
  | .fin n m e => let r := shiftRat m 1 (-e); (fround fp64 n r.1 r.2).1
/-- A signed integer divided by a binary64 scale, rounded once to a format (R31, Table 2.3 DECODE). -/
def decodeTo (f : Fmt) (draw : Nat) (v : Int) (sc : Nat) : Nat × Nat :=
  match fdec fp64 sc with
  | .nan => (fnan f draw, fsnan fp64 sc)
  | .inf n => (fsign f (n != decide (v < 0)), 0)
  | .fin n m e =>
    let neg := n != decide (v < 0)
    if m = 0 then (if v = 0 then (fnan f draw, fInvalid) else (finf f neg, fDivZero))
    else let r := shiftRat v.natAbs m e; fround f neg r.1 r.2
/-- An element of a list that an open order takes next. -/
def freePick (d salt : Nat) (l : List Nat) : Nat × List Nat := let j := Config.free d salt % max 1 l.length; (l.getD j 0, l.eraseIdx j)
/-- A sum of values in an open order, pair by pair (R58, R40), with its flags. -/
def freeSum (add : Nat → Nat → Nat × Nat) (d salt : Nat) : Nat → List Nat → Nat × Nat
  | 0, l => (l.headD 0, 0)
  | f + 1, l =>
    if l.length < 2 then (l.headD 0, 0) else
      let a := freePick d (salt + 2 * f) l
      let b := freePick d (salt + 2 * f + 1) a.2
      let r := add a.1 b.1
      let z := freeSum add d salt f (r.1 :: b.2)
      (z.1, r.2 ||| z.2)

/-! Issue -/

/-- A destination that takes its source's bookkeeping (R207, R210). -/
def copyBook (d a : Card) : Card :=
  { d with
    level := a.level, noise := a.noise, floor := a.floor, scale := a.scale, accession := a.accession, secret := a.secret
    raised := a.raised, frac := a.frac, bound := a.bound, noiseX := a.noiseX, noiseY := a.noiseY, fracX := a.fracX }
/-- A destination's storage holds a card's live words and polynomials (R99, R214). -/
def Card.holdsAs (d a : Card) (p : ParamSet) : Bool :=
  decide (a.live ≤ d.limbs ∧ a.polys ≤ d.polys ∧ a.polys * a.comps * d.compBytes p ≤ d.capacity)
/-- A ring kind with its residues. -/
def ringKind (k : CardKind) : Bool := k == .ciphertext || k == .plaintext || k == .poly
/-- A verdict on one destination whose command has no exhaustion test. -/
def State.plainVerdict (s : State) (c : Nat) (e : Entry) (d : Card) : Verdict :=
  { dests := [(e.hnd 2, d)], fate := if s.anyPoison c e then some .poisonedInput else none }
/-- `nt.fwd` and `nt.inv` (R207, R496); `px.auto` with the layouts equal (R50). -/
def chkTransform (pair : Layout → Layout → Bool) (immOk : ParamSet → Nat → Bool) (inPlace : Bool) (s : State) (c : Nat) (_ : Stream) (e : Entry) :
    Checked := do
  need (e.handles [true, false, true, false]) .badParameter
  need (inPlace || e.hnd 0 != e.hnd 2) .badParameter
  match s.opnd c e 0, s.opnd c e 2 with
  | some a, some d =>
    let p := s.psetOf c a
    need (ringKind a.kind && d.kind == a.kind && d.elem == a.elem && pair a.layout d.layout && d.comps == a.comps) .badParameter
    need (immOk p e.cmd.imm && d.holdsAs a p && (!a.secret || s.secretOk c d)) .badParameter
    need (d.set == a.set) .parameterMismatch
    .ok (s.plainVerdict c e (copyBook d a))
  | _, _ => .error .badParameter
def fwdPair (a d : Layout) : Bool := (a == .limb || a == .tile16) && d == .bitrev
def invPair (a d : Layout) : Bool := a == .bitrev && (d == .limb || d == .tile16)
/-- NT_FWD (R207, R496). -/
def execNtFwd (c n k : Nat) (s : State) : Res :=
  act s fun s => s.issue c n k 0x400 anyImm (chkTransform fwdPair (fun _ i => i == 0) false s c)
/-- NT_INV (R207, R496). -/
def execNtInv (c n k : Nat) (s : State) : Res :=
  act s fun s => s.issue c n k 0x401 anyImm (chkTransform invPair (fun _ i => i == 0) false s c)
/-- PX_AUTO (R50). PRESUMED operands, which no table gives: handle 0 the source, handle 2 the destination of the same layout, g in
the low 32 bits of the immediate (assumption log). -/
def execPxAuto (c n k : Nat) (s : State) : Res :=
  act s fun s => s.issue c n k 0x402 anyImm
    (chkTransform (fun a d => a == d) (fun p i => decide (i % 2 = 1 ∧ i < 2 * p.n)) true s c)

/-! The vector chain: its program -/

/-- A stage word (Table 2.2). -/
structure VStage where
  op : Nat
  src : Nat
  kidx : Nat
  mod : Nat
deriving DecidableEq, Repr
/-- The stages before END; none for a reserved code, source or modifier, or a stage after END (R53, R54). -/
def vcProgram (imm : Nat) : Option (List VStage) :=
  let st := (List.range 8).map (fun j =>
    let w := bits imm (16 * j) 16
    ({ op := bits w 0 5, src := bits w 5 3, kidx := bits w 8 4, mod := bits w 12 4 } : VStage))
  let live := st.takeWhile (fun x => x.op != 0)
  let modOk (x : VStage) : Bool := match x.op with
    | 0x06 => decide (x.mod % 8 < 6) | 0x0B => decide (x.mod < 5) | _ => x.mod == 0
  if st.all (fun x => decide (x.op ≤ 0x11 ∧ x.src ≤ 2) && modOk x) && (st.drop live.length).all (fun x => x.op == 0) then some live else none
/-- Stages that take residues (R54). -/
def vcResidue (op : Nat) : Bool := [1, 2, 3, 5, 0x0A, 0x0B, 0x0D].contains op
/-- Stages that need a second operand (R54). -/
def vcBinary (op : Nat) : Bool := [1, 3, 5, 6, 7, 0x0E, 0x0F].contains op
/-- Stages that change the element count. -/
def vcCounts (op : Nat) : Bool := [8, 9, 0x10, 0x11].contains op
/-- Stages that use the prime of a lane. -/
def vcPrime (t : Elem) (x : VStage) : Bool :=
  vcResidue x.op || x.op == 4 || x.op == 0x0C || (t.residue && (x.op == 0x10 || x.op == 0x11 || (x.op == 6 && x.mod.testBit 3)))
/-- A stage as issue has checked it: the type it takes, and whether source A supplies its primes (R52). -/
structure VPlan where
  st : VStage
  t : Elem
  fromA : Bool
deriving DecidableEq, Repr
/-- The type that a stage makes of a type; none when it does not take it (R54). `ENCODE` takes a floating-point type: R31 defines it by a
binary64 product, while Table 2.3 says "clear value"; DESIGN CHOICE, an integer is refused (log entry 69). -/
def vcType (d : Elem) (x : VStage) (t : Elem) : Option Elem :=
  if x.op = 4 then (if t.residue then some t else if t = .u64 ∨ t = .int64 then some .res64 else none)
  else if x.op = 0x0C then (if t.fmt.isSome then some (if d = .res30x2 then .res30x2 else .res64) else none)
  else if x.op = 0x0D then (if t.residue ∧ d.fmt.isSome then some d else none)
  else if vcResidue x.op then (if t.residue then some t else none)
  else if x.op = 0x0E ∨ x.op = 0x0F then (if t.residue then none else some t)
  else some t
/-- The second operand and the constants of a stage have the type it takes (R54). -/
def vcOperands (b kc : Option Card) (x : VStage) (t : Elem) : Bool :=
  let constOk (p : Elem → Bool) : Bool := kc.any (fun k => p k.elem)
  let konst := if t.residue then constOk Elem.residue else constOk (· == t)
  let uses := vcBinary x.op || x.op == 2
  (!vcBinary x.op || x.src != 0) && (x.op != 5 || x.src == 1)
    && (!(uses && x.src == 1) || b.any (fun y => y.elem == t))
    && (!(uses && x.src == 2) || konst)
    && (!(x.op == 5 || x.op == 0x0A || (x.op == 0x0B && x.mod == 4)) || constOk Elem.residue)
    && (!(x.op == 0x0C || x.op == 0x0D) || constOk (· == .fp64))
/-- The plan of a program from its stages on, or none (R52 to R54). -/
def vcPlan (b kc : Option Card) (d : Elem) : List VStage → Elem → Bool → Option (List VPlan)
  | [], t, _ => if t = d then some [] else none
  | x :: r, t, fromA =>
    let fa := fromA && !(x.op == 0x0C || (x.op == 4 && !t.residue))
    match vcType d x t with
    | none => none
    | some t2 =>
      if vcOperands b kc x t && (x.op != 6 || t.residue || t != .res64) then
        (vcPlan b kc d r t2 (fa && x.op != 0x0A)).map (fun l => { st := x, t := t, fromA := fa } :: l)
      else none
/-- Stages that change the count stand where they may (R54). -/
def vcShape (l : List VStage) (na : Nat) : Bool :=
  decide (l.countP (fun x => vcCounts x.op) ≤ 1)
    && l.zipIdx.all (fun x => (x.1.op != 9 || x.2 == 0) && (!(x.1.op == 8 || x.1.op == 0x10 || x.1.op == 0x11) || x.2 + 1 == l.length)
      && (!(x.1.op == 0x10 || x.1.op == 0x11) || na % 256 == 0))
/-- Elements of a card. -/
def Card.elems (cd : Card) (p : ParamSet) : Nat := cd.units p * cd.posCount p
/-- Elements that a command moves: those of A for a stage that compresses, those of the destination for EXPAND, else the more. -/
def vcLength (l : List VStage) (na nd : Nat) : Nat :=
  if l.any (fun x => x.op == 8 || x.op == 0x10 || x.op == 0x11) then na else if l.any (fun x => x.op == 9) then nd else max na nd
/-- A card of vc.run: any but a key, its scheme that of its set. -/
def vcCard (cd : Card) : Bool := cd.kind != .key
/-- The prime source has a prime for every lane (R52, R54). -/
def vcPrimes (a d : Card) (pa pd : ParamSet) (n : Nat) (x : VPlan) : Bool :=
  let has (cd : Card) (p : ParamSet) : Bool := !(cd.unitPrimes p 0).isEmpty
  !vcPrime x.t x.st || (if x.fromA then has a pa && (decide (n ≤ a.elems pa) || (has d pd && decide (n ≤ d.elems pd)))
    else has d pd && decide (n ≤ d.elems pd))
/-- `vc.run` (R51 to R55, R164, R155). The destination of a chain with `NOISE` is secret from issue until the command completes, wherever
it lies (R55; DEDUCED that this is no refusal under R164, log entry 70). -/
def chkVc (s : State) (c : Nat) (_ : Stream) (e : Entry) : Checked := do
  match vcProgram e.cmd.imm, s.opnd c e 0, s.opnd c e 2 with
  | some st, some a, some d =>
    let b := s.opnd c e 1
    let kc := s.opnd c e 3
    let pa := s.psetOf c a
    let pd := s.psetOf c d
    need (vcCard a && vcCard d && (!e.has 1 || b.any vcCard) && (!e.has 3 || kc.any (fun k => k.kind == .clear))) .badParameter
    need (vcShape st (a.elems pa)) .badParameter
    match vcPlan b kc d.elem st a.elem true with
    | none => .error .badParameter
    | some plan =>
      let n := vcLength st (a.elems pa) (d.elems pd)
      need (plan.all (vcPrimes a d pa pd n)) .badParameter
      need (!plan.any (fun x => x.st.op == 0x0A) || (!(d.unitPrimes pd 0).isEmpty && decide (n ≤ d.elems pd))) .badParameter
      need (!plan.any (fun x => x.st.op == 5) || b.any (fun y => !(y.unitPrimes (s.psetOf c y) 0).isEmpty)) .badParameter
      let srcs := [some a, b, kc].filterMap id
      let sec := srcs.any (fun x => x.secret)
      need (!sec || s.secretOk c d) .badParameter
      let noisy := st.any (fun x => x.op == 0x0B)
      let sets := ([some a, b, some d].filterMap id).filter (fun x => x.kind != .clear)
      need (sets.all (fun x => sets.all (fun y => x.set == y.set))) .parameterMismatch
      let accs := ([some a, b].filterMap id).filterMap (fun x => if x.accession = 0 then none else some x.accession)
      need (accs.all (fun x => accs.all (fun y => x == y))) .keyMismatch
      let d1 := { d with
        secret := sec || noisy
        accession := if d.kind == .ciphertext || d.kind == .lwe || d.kind == .share then accs.headD d.accession else d.accession
        bound := if d.kind == .share && pd.scheme == 5 then 0 else d.bound }
      .ok (s.plainVerdict c e d1)
  | _, _, _ => .error .badParameter
/-- VC_RUN (R51 to R54). -/
def execVcRun (c n k : Nat) (s : State) : Res := act s fun s => s.issue c n k 0x403 anyImm (chkVc s c)

/-! The vector chain: its run -/

/-- What a lane knows of its element (R52): its primes, limb, the live limbs of the card, its group and coefficient position. -/
structure VLane where
  qs : List Nat
  limb : Nat
  nl : Nat
  g : Nat
  k : Nat
deriving DecidableEq, Repr
/-- The lanes of a card's elements. -/
def Card.lanes (cd : Card) (p : ParamSet) : List VLane :=
  (cd.order p).map (fun x =>
    { qs := cd.unitPrimes p x.1, limb := cd.unitLimb p x.1, nl := if ringKind cd.kind || cd.kind == .share then cd.live else 1
      g := if ringKind cd.kind || cd.kind == .share then x.1 / cd.liveWords p else x.1, k := x.2 })
/-- The first `n` elements of a card in logical order as lanes read them, raw when a REDUCE takes them. No lane reads another (R59). -/
def State.vcRead (s : State) (c : Nat) (cd : Card) (p : ParamSet) (n : Nat) (raw : Bool) : Except (Status × Nat) (List Nat) :=
  let l := (cd.order p).take n
  (s.rdElems c cd p l).map (fun _ => l.map (fun x => s.elemVal cd p (if raw then [] else cd.unitPrimes p x.1) x.1 x.2))
/-- The chain's values, mask and flags. -/
structure VRun where
  vals : List Nat
  mask : List Bool
  all : Bool
  flags : Nat
/-- What the stages read beside the lanes: constants, source B, the draw. -/
structure VEnv where
  konst : Nat → Nat
  split : Bool
  bval : Nat → Nat
  btop : VLane → Nat
  qtop : Nat
  dst : Nat → List Nat
  draw : Nat
  delem : Elem
/-- A residue constant for every half of a lane (R52). -/
def VEnv.res (v : VEnv) (l : VLane) (kidx : Nat) : Nat :=
  let one (i : Nat) : Nat :=
    if v.split then let w := v.konst (kidx * ((l.nl + 1) / 2) + i / 2); if i % 2 = 0 then w % 2 ^ 32 else w / 2 ^ 32
    else v.konst (kidx * l.nl + i)
  joinW (l.qs.zipIdx.map (fun x => if x.1 ≤ 1 then 0 else
    let r := one (l.limb + x.2); if r < x.1 then r else Config.free v.draw (2 ^ 58 + kidx * 256 + l.limb + x.2) % x.1))
/-- The indices of the constants that a stage reads for a lane (R52). -/
def vcKonsts (split : Bool) (x : VPlan) (l : VLane) : List Nat :=
  let w := if split then (l.nl + 1) / 2 else l.nl
  let res := l.qs.zipIdx.filterMap (fun q => if q.1 ≤ 1 then none else
    some (x.st.kidx * w + if split then (l.limb + q.2) / 2 else l.limb + q.2))
  if x.st.op = 5 ∨ x.st.op = 0x0A then res
  else if x.st.op = 0x0B then (if x.st.mod = 4 then [x.st.kidx * w] else [])
  else if x.st.op = 0x0C ∨ x.st.op = 0x0D then [x.st.kidx]
  else if x.st.src = 2 ∧ (vcBinary x.st.op ∨ x.st.op = 2) then (if x.t.residue && !l.qs.isEmpty then res else [x.st.kidx])
  else []
/-- The error of a coefficient position (R55), or a residue per limb for distribution 3. Distribution 4 takes its k from the word of
constant `kidx` for limb 0, and none above 4,096: DESIGN CHOICE, R52 gives one residue per limb and no rule says which is k (log entry
71). -/
def VEnv.noise (v : VEnv) (si mod : Nat) (l : VLane) (j : Nat) (q : Nat) (k : Nat) : Int :=
  let f (salt m : Nat) : Nat := Config.free v.draw (2 ^ 57 + (si * 4096 + salt) * 2 ^ 24 + l.k + l.g * 2 ^ 40) % m
  match mod with
  | 0 => (f 0 3 : Int) - 1
  | 1 => (f 0 43 : Int) - 21
  | 2 => (f 0 39 : Int) - 19
  | 3 => f (1 + l.limb + j) q
  | _ => (f 0 (2 ^ (min k 4096 + 1) + 1) : Int) - 2 ^ min k 4096
/-- One stage on one active lane: its value and flags (Table 2.3). `DECODE` of a `RES30X2` word that carries two residues gives one clear
value, and R31 does not say of which: DESIGN CHOICE, a free value (log entry 72). -/
def VEnv.lane (v : VEnv) (si : Nat) (x : VPlan) (l : VLane) (i w y : Nat) : Nat × Nat :=
  match x.st.op with
  | 1 => (map2W l.qs (fun _ a b => a + b) w y, 0)
  | 2 => (if x.st.src = 0 then mapW l.qs (fun q a => q - a % q) w else map2W l.qs (fun q a b => a + (q - b % q)) w y, 0)
  | 3 => (map2W l.qs (fun _ a b => a * b) w y, 0)
  | 4 => (mapW l.qs (fun _ a => a) w, 0)
  | 5 => let t := centre v.qtop (v.btop l)
         (map2W l.qs (fun q a c => modInt q (((a : Int) - t) * c)) w (v.res l x.st.kidx), 0)
  | 0x0A => let r := map2W l.qs (fun _ a c => a * c) w (v.res l x.st.kidx)
            (mapW (v.dst i) (fun _ a => a) r, 0)
  | 0x0B => let k := v.konst (x.st.kidx * (if v.split then (l.nl + 1) / 2 else l.nl))
            (joinW ((l.qs.zip (splitW l.qs w)).zipIdx.map (fun z =>
              modInt z.1.1 ((z.1.2 : Int) + v.noise si x.st.mod l z.2 z.1.1 (if v.split then k % 2 ^ 32 else k)))), 0)
  | 0x0C =>
    let f := (x.t.fmt).getD fp64
    let m := fmul fp64 (v.draw + i) (toFp64 f (v.draw + i) w) (v.konst x.st.kidx)
    let c := encodeInt m.1
    (joinW (l.qs.map (fun q => modInt q c.1)), m.2 ||| c.2)
  | 0x0D =>
    let f := v.delem.fmt.getD fp64
    match l.qs.filter (1 < ·) with
    | [q] => decodeTo f (v.draw + i) (centre q ((splitW l.qs w).headD 0 % q)) (v.konst x.st.kidx)
    | _ => (Config.free v.draw (2 ^ 59 + i) % 2 ^ (8 * v.delem.size), 0)
  | 0x0E => clearAdd x.t (v.draw + i) w y
  | 0x0F => clearMul x.t (v.draw + i) w y
  | _ => (w, 0)
/-- The comparison of a lane (Table 2.3 CMP). A split lane whose halves disagree takes an open bit; a signaling NaN
raises invalid (R30), and a quiet one may. -/
def VEnv.cmp (v : VEnv) (x : VPlan) (l : VLane) (i w y : Nat) : Bool × Nat :=
  let cond := x.st.mod % 8
  match x.t.fmt with
  | some f =>
    let o := fcmp f w y
    (ordHolds cond o, if o.isNone && Config.free v.draw (2 ^ 56 + i) % 2 == 1 then fInvalid else fsnan f w ||| fsnan f y)
  | none =>
    if x.t.residue then
      let rs := if l.qs.isEmpty then [ordHolds cond (some (compare w y))] else
        (l.qs.zip ((splitW l.qs w).zip (splitW l.qs y))).filterMap (fun z => if z.1 ≤ 1 then none else
          some (ordHolds cond (some (if x.st.mod.testBit 3 then compare (centre z.1 z.2.1) (centre z.1 z.2.2) else compare z.2.1 z.2.2))))
      (if rs.all (· == true) then true else if rs.all (· == false) then false else Config.free v.draw (2 ^ 56 + i) % 2 == 1, 0)
    else (ordHolds cond (some (compare (elemInt x.t w) (elemInt x.t y))), 0)
/-- The second operand of a lane. -/
def VEnv.second (v : VEnv) (x : VPlan) (l : VLane) (i : Nat) : Nat :=
  if x.st.src = 1 then v.bval i
  else if x.st.src = 2 then (if x.t.residue && !l.qs.isEmpty then v.res l x.st.kidx else v.konst x.st.kidx)
  else 0
/-- Row or column sums of 16 × 16 groups (R58). Whether elements of inactive lanes enter a sum is open: one free bit decides. -/
def VEnv.sums (v : VEnv) (x : VPlan) (lanes : List VLane) (r : VRun) : VRun :=
  let vs := r.vals.toArray
  let ms := r.mask.toArray
  let ls := lanes.toArray
  let inc := Config.free v.draw (2 ^ 55) % 2 == 1
  let outs := (List.range (vs.size / 256)).flatMap (fun g => (List.range 16).map (fun j =>
    let ix := (List.range 16).map (fun t => g * 256 + if x.st.op = 0x10 then j * 16 + t else t * 16 + j)
    let qs := ((ls[ix.headD 0]?).map (fun l => l.qs)).getD []
    let add (a b : Nat) : Nat × Nat :=
      if x.t.residue then (map2W qs (fun _ u w => u + w) a b, 0) else clearAdd x.t (v.draw + g * 16 + j) a b
    freeSum add v.draw (2 ^ 54 + (g * 16 + j) * 64) 16 ((ix.filter (fun i => inc || ms.getD i true)).map (fun i => vs.getD i 0))))
  { vals := outs.map (fun z => z.1), mask := outs.map (fun _ => true), all := false, flags := (outs.map (fun z => z.2)).foldl (· ||| ·) r.flags }
/-- One stage on every lane (R56). -/
def VEnv.stage (v : VEnv) (si : Nat) (x : VPlan) (lanes : List VLane) (r : VRun) : VRun :=
  let rows := (lanes.zip (r.vals.zip r.mask)).zipIdx
  match x.st.op with
  | 6 =>
    let m := rows.map (fun z => if z.1.2.2 then v.cmp x z.1.1 z.2 z.1.2.1 (v.second x z.1.1 z.2) else (false, 0))
    { r with mask := m.map (fun z => z.1), all := false, flags := (m.map (fun z => z.2)).foldl (· ||| ·) r.flags }
  | 7 => { r with vals := rows.map (fun z => if z.1.2.2 then v.second x z.1.1 z.2 else z.1.2.1), all := true }
  | 8 => let vs := (r.vals.zip r.mask).filterMap (fun z => if z.2 then some z.1 else none)
         { r with vals := vs, mask := vs.map (fun _ => true) }
  | 9 => r
  | 0x10 => v.sums x lanes r
  | 0x11 => v.sums x lanes r
  | _ =>
    let m := rows.map (fun z => if z.1.2.2 then v.lane si x z.1.1 z.2 z.1.2.1 (v.second x z.1.1 z.2) else (z.1.2.1, 0))
    { r with vals := m.map (fun z => z.1), flags := (m.map (fun z => z.2)).foldl (· ||| ·) r.flags }
/-- Stages that act on clear data, whose flags the record reports (R59). -/
def vcClear (x : VPlan) : Bool := !x.t.residue || x.st.op == 0x0D
/-- What `vc.run` computes (R51 to R59, R215, R223). -/
def State.runVc (s : State) (c w : Nat) (e : Entry) : Ran :=
  match vcProgram e.cmd.imm, s.opnd c e 0, s.opnd c e 2 with
  | some st, some a, some d =>
    let noisy := st.any (fun x => x.op == 0x0B)
    if noisy && s.hex.drbgError then .error (.cryptoFail, 0) else
    let b := s.opnd c e 1
    let kc := s.opnd c e 3
    let pa := s.psetOf c a
    let pd := s.psetOf c d
    match vcPlan b kc d.elem st a.elem true with
    | none => .error (.addressFault, 0)
    | some plan => do
      let n := vcLength st (a.elems pa) (d.elems pd)
      let va ← s.vcRead c a pa n ((st.headD (⟨0, 0, 0, 0⟩ : VStage)).op == 4)
      let full := st.any (fun x => x.src == 1 && x.op != 5 && (vcBinary x.op || x.op == 2))
      let pb := (b.map (fun y => s.psetOf c y)).getD noSet
      let bc := b.getD { kind := .clear }
      let vb ← if full then s.vcRead c bc pb n false else .ok []
      let kcard := kc.getD { kind := .clear }
      let ba := vb.toArray
      let la := a.lanes pa
      let ld := d.lanes pd
      let lanesA := (la ++ ld.drop la.length ++ List.replicate n (⟨[], 0, 1, 0, 0⟩ : VLane)).take n
      let lanesD := (ld ++ List.replicate n (⟨[], 0, 1, 0, 0⟩ : VLane)).take n
      let da := ld.toArray
      let qtop := (bc.unitPrimes pb 0).headD 1
      let bg := if bc.kind == .lwe then bc.units pb else max 1 (bc.polys * bc.comps)
      let topAt (l : VLane) : Nat × Nat := ((if l.g < bg then l.g else 0) * max 1 (bc.liveWords pb), l.k)
      let split := kcard.elem == .res30x2
      let uses (x : VPlan) : List VLane := if x.fromA then lanesA else lanesD
      let _ ← s.rdElems c bc pb (((plan.filter (fun x => x.st.op == 5)).flatMap (fun x => (uses x).map topAt)).filter
        (fun z => decide (z.2 < bc.posCount pb)))
      let _ ← s.rdElems c kcard noSet (((plan.flatMap (fun x => (uses x).flatMap (vcKonsts split x))).dedup.filter
        (fun i => decide (i < kcard.slotCount))).map (fun i => (0, i)))
      let env : VEnv :=
        { konst := fun i => if i < kcard.slotCount then s.elemVal kcard noSet [] 0 i else kcard.fill, split := split
          bval := fun i => ba.getD i bc.fill
          btop := fun l => let z := topAt l
                           let qs := bc.unitPrimes pb 0
                           (splitW qs (if z.2 < bc.posCount pb then s.elemVal bc pb qs z.1 z.2 else bc.fill)).headD 0
          qtop := qtop, dst := fun i => ((da[i]?).map (fun l => l.qs)).getD [], draw := s.draw, delem := d.elem }
      let start := if st.any (fun x => x.op == 9) then (va ++ List.replicate n d.fill).take n else (va ++ List.replicate n a.fill).take n
      let r := plan.zipIdx.foldl (fun r x => env.stage x.2 x.1 (if x.1.fromA then lanesA else lanesD) r)
        { vals := start, mask := List.replicate n true, all := false, flags := 0 }
      let od := (d.order pd).toArray
      let put := (r.vals.zip r.mask).zipIdx.filter (fun z => r.all || z.1.2)
      let inside := put.filter (fun z => decide (z.2 < od.size))
      let s0 := if noisy then s.drew c w (n * st.countP (fun x => x.op == 0x0B)) else s
      let s2 ← s0.wrElems c d pd (s0.padRows c d e.cmd.nopad (inside.map (fun z => z.2))) (inside.map (fun z => (od.getD z.2 (0, 0), z.1.1)))
      let comp := st.any (fun x => x.op == 8)
      .ok (s2, { fpflags := r.flags, fpValid := plan.any vcClear, count := if comp then r.vals.length else 0, cValid := comp
                 dropped := put.length - inside.length }, [])
  | _, _, _ => .error (.addressFault, 0)

/-! Transforms -/

/-- One limb of a card through a transform. -/
def State.runLimbs (s : State) (c : Nat) (e : Entry) (f : ParamSet → Layout → Nat → List Nat → List Nat) : Ran :=
  match s.opnd c e 0, s.opnd c e 2 with
  | some a, some d =>
    let p := s.psetOf c a
    let gs := (List.range a.polys).flatMap (fun i => (List.range a.comps).map (fun j => (i, j)))
    match gs.mapM (fun g => (s.component c a p g.1 g.2 a.live).map (fun l => (g, l))) with
    | .error er => .error er
    | .ok vs =>
      match s.canAll c d.base (gs.flatMap (fun g => d.ranges p g.1 g.2 a.live)) with
      | .error er => .error er
      | .ok _ =>
        .ok (vs.foldl (fun s v => s.putComponent d p v.1.1 v.1.2 (v.2.zipIdx.map (fun l => f p a.layout (p.prime (a.chain l.2)) l.1))) s, {}, [])
  | _, _ => .error (.addressFault, 0)
/-- What `nt.fwd`, `nt.inv` and `px.auto` compute (R24, R26, R50). -/
def State.runTransform (s : State) (c : Nat) (e : Entry) : Ran :=
  s.runLimbs c e (fun p lay q l =>
    match e.cmd.op with
    | 0x400 => nttFwd q p.log2n l
    | 0x401 => nttInv q p.log2n l
    | _ => if lay = .bitrev then autoEval p.log2n e.cmd.imm l else autoCoef q p.log2n e.cmd.imm l)

end Sys2Proof.Machine
end

