-- ==== Sys2Proof/Machine/Layouts.lean ====
section
/-! DEFINITION. Layout commands: `st.layout` and `lay.copy` with gather and scatter (R208 to R224). -/

namespace Sys2Proof.Machine

/-! Issue -/

/-- Layout pairs (Table 8.5). -/
def layoutPair (a d : Layout) : Bool :=
  let coef (l : Layout) : Bool := l == .coef || l == .limb || l == .tile16
  a == d || (coef a && coef d)
/-- The common shape of source and destination (R210): kinds, types, components, layouts. Their sets are compared at check 3 (R17). -/
def sameShape (a d : Card) : Bool :=
  a.kind != .key && d.kind == a.kind && d.elem == a.elem && d.comps == a.comps && d.polys == a.polys && layoutPair a.layout d.layout
    && (a.kind != .lwe || d.lweDim == a.lweDim)
/-- The extents agree (R210, R211). -/
def sameExtent (a d : Card) (p : ParamSet) (tr : Bool) : Bool :=
  match a.kind with
  | .clear => if tr then decide (2 ≤ a.rank ∧ 2 ≤ d.rank) && d.dims.getD 0 0 == a.dims.getD 1 0 && d.dims.getD 1 0 == a.dims.getD 0 0
                && d.dims.drop 2 == a.dims.drop 2 else d.slotCount == a.slotCount
  | .ciphertext => d.holdsAs a p
  | .plaintext => d.holdsAs a p
  | .poly => d.limbs == a.limbs && d.holdsAs a p
  | _ => d.limbs == a.limbs && d.count == a.count
/-- `COPY` and `MUL` (R209 to R211, R155). -/
def chkCopy (mul : Bool) (s : State) (c : Nat) (_ : Stream) (e : Entry) : Checked := do
  let tr := e.cmd.imm.testBit 2
  need (e.handles [true, mul, true, false] && decide (e.cmd.imm < 8)) .badParameter
  need (e.hnd 0 != e.hnd 2 && (!mul || e.hnd 1 != e.hnd 2)) .badParameter
  match s.opnd c e 0, s.opnd c e 2 with
  | some a, some d =>
    let p := s.psetOf c a
    let b := s.opnd c e 1
    let factor (x : Card) : Bool := x.kind == .poly || x.kind == .share || x.kind == .clear
    need (sameShape a d && sameExtent a d p tr && (!tr || a.kind == .clear)) .badParameter
    need (!mul || (factor a && b.any (fun y => factor y && y.elem == a.elem && y.elems (s.psetOf c y) == a.elems p))) .badParameter
    let sec := a.secret || (mul && b.any (fun y => y.secret))
    need (!sec || s.secretOk c d) .badParameter
    need (d.set == a.set && (!mul || b.any (fun y => y.kind == .clear || a.kind == .clear || y.set == a.set))) .parameterMismatch
    need (!mul || b.any (fun y => a.kind != .share || y.kind != .share || y.accession == a.accession)) .keyMismatch
    let d1 := { copyBook d a with secret := sec, bound := if mul && a.kind == .share && p.scheme == 5 then 0 else (copyBook d a).bound }
    .ok (s.plainVerdict c e d1)
  | _, _ => .error .badParameter
/-- An index card (R218, R206). -/
def indexCard (x : Card) : Bool :=
  x.kind == .clear && x.elem == .int32 && x.layout == .slot && !x.secret && x.rank == 1 && x.pitch.getD 0 0 == 1
/-- `GATHER` (0), `SCATTER` and `SCATTERADD` (R218, R219, R222). -/
def chkIndexed (mode : Nat) (s : State) (c : Nat) (_ : Stream) (e : Entry) : Checked := do
  need (e.handles [true, true, true, false] && decide (e.cmd.imm < 4)) .badParameter
  need (e.hnd 0 != e.hnd 2 && e.hnd 1 != e.hnd 2) .badParameter
  match s.opnd c e 0, s.opnd c e 1, s.opnd c e 2 with
  | some a, some x, some d =>
    let p := s.psetOf c a
    need (indexCard x && sameShape a d && a.kind != .ciphertext && a.kind != .plaintext && d.units p == a.units p) .badParameter
    need ((if mode = 1 then d.posCount p else a.posCount p) == x.count) .badParameter
    let sec := a.secret || (mode != 1 && d.secret)
    need (!sec || s.secretOk c d) .badParameter
    need (d.set == a.set) .parameterMismatch
    need (mode == 1 || !(a.kind == .lwe || a.kind == .share) || a.accession == d.accession) .keyMismatch
    let d0 := if mode = 1 then copyBook d a else { d with noise := max d.noise a.noise }
    .ok (s.plainVerdict c e { d0 with secret := sec, bound := if a.kind == .share && p.scheme == 5 then 0 else d0.bound })
  | _, _, _ => .error .badParameter

/-- ST_LAYOUT_COPY (R209). -/
def execStLayoutCopy (c n k : Nat) (s : State) : Res :=
  act s fun s => s.issue c n k 0x500 (fun i => bits i 0 2 != 1) (fun x e => if bits e.cmd.imm 0 2 = 0 then chkCopy false s c x e else .error .badParameter)
/-- ST_LAYOUT_MUL (R209). -/
def execStLayoutMul (c n k : Nat) (s : State) : Res := act s fun s => s.issue c n k 0x500 (fun i => bits i 0 2 == 1) (chkCopy true s c)
/-- LAY_COPY_COPY (R209). -/
def execLayCopyCopy (c n k : Nat) (s : State) : Res := act s fun s => s.issue c n k 0x501 (fun i => bits i 0 2 == 0) (chkCopy false s c)
/-- LAY_COPY_GATHER (R219). -/
def execLayCopyGather (c n k : Nat) (s : State) : Res := act s fun s => s.issue c n k 0x501 (fun i => bits i 0 2 == 1) (chkIndexed 1 s c)
/-- LAY_COPY_SCATTER (R221). -/
def execLayCopyScatter (c n k : Nat) (s : State) : Res := act s fun s => s.issue c n k 0x501 (fun i => bits i 0 2 == 2) (chkIndexed 2 s c)
/-- LAY_COPY_SCATTERADD (R221). -/
def execLayCopyScatteradd (c n k : Nat) (s : State) : Res := act s fun s => s.issue c n k 0x501 (fun i => bits i 0 2 == 3) (chkIndexed 3 s c)

/-! The run -/

/-- The flat index of the destination element that a source element goes to under `TRANSPOSE` (R211). -/
def transposed (dims : List Nat) (f : Nat) : Nat :=
  let d0 := max 1 (dims.getD 0 1)
  let d1 := max 1 (dims.getD 1 1)
  f / (d0 * d1) * (d0 * d1) + f % d0 * d1 + f / d0 % d1
/-- A residue whose limb has no prime, a `CLEAR` card's: R209 and R221 give no modulus. DESIGN CHOICE, a free word of the type (log entry
73). -/
def freeResidue (t : Elem) (draw : Nat) : Nat :=
  let x := Config.free draw (2 ^ 52)
  if t = .res30x2 then x % 2 ^ 30 + x / 2 ^ 32 % 2 ^ 30 * 2 ^ 32 else x % 2 ^ 64
/-- An element product (R209). -/
def elemMul (qs : List Nat) (t : Elem) (draw x y : Nat) : Nat × Nat :=
  if !qs.isEmpty then (map2W qs (fun _ a b => a * b) x y, 0)
  else if t.residue then (freeResidue t draw, 0) else clearMul t draw x y
/-- An element sum (R221). -/
def elemAdd (qs : List Nat) (t : Elem) (draw x y : Nat) : Nat × Nat :=
  if !qs.isEmpty then (map2W qs (fun _ a b => a + b) x y, 0)
  else if t.residue then (freeResidue t draw, 0) else clearAdd t draw x y
/-- `COPY` and `MUL`. -/
def State.runCopy (s : State) (c : Nat) (e : Entry) (mul : Bool) : Ran :=
  match s.opnd c e 0, s.opnd c e 2 with
  | some a, some d => do
    let p := s.psetOf c a
    let b := (s.opnd c e 1).getD { kind := .clear }
    let pb := s.psetOf c b
    let oa := a.order p
    let ob := b.order pb
    let _ ← s.rdElems c a p oa
    let _ ← if mul then s.rdElems c b pb ob else .ok ()
    let ba := ob.toArray
    let vs := oa.zipIdx.map (fun x =>
      let v := s.elemVal a p (a.unitPrimes p x.1.1) x.1.1 x.1.2
      if mul then
        let y := ba.getD x.2 (0, 0)
        let qs := if (a.unitPrimes p x.1.1).isEmpty then b.unitPrimes pb y.1 else a.unitPrimes p x.1.1
        elemMul qs a.elem (s.draw + x.2) v (s.elemVal b pb qs y.1 y.2)
      else (v, 0))
    let tr := e.cmd.imm.testBit 2
    let s2 ← s.wrElems c d p (s.padRows c d e.cmd.nopad (List.range d.slotCount))
      ((oa.zip vs).map (fun z => ((z.1.1, if tr then transposed a.dims z.1.2 else z.1.2), z.2.1)))
    let fl := (vs.map (fun z => z.2)).foldl (· ||| ·) 0
    .ok (s2, { fpflags := fl, fpValid := mul && a.elem.fmt.isSome }, [])
  | _, _ => .error (.addressFault, 0)
/-- Contributions to one word in an open order (R221), with flags. -/
def addAll (add : Nat → Nat → Nat × Nat) (d salt : Nat) : Nat → Nat → List Nat → Nat × Nat
  | 0, v, _ => (v, 0)
  | f + 1, v, l =>
    if l.isEmpty then (v, 0) else
      let x := freePick d (salt + f) l
      let r := add v x.1
      let z := addAll add d salt f r.1 x.2
      (z.1, r.2 ||| z.2)
/-- `GATHER`, `SCATTER` and `SCATTERADD`. -/
def State.runIndexed (s : State) (c : Nat) (e : Entry) (mode : Nat) : Ran :=
  match s.opnd c e 0, s.opnd c e 1, s.opnd c e 2 with
  | some a, some x, some d => do
    let p := s.psetOf c a
    let ix ← s.slotElems c x
    let word (cd : Card) (u k : Nat) : Nat := s.elemVal cd p (cd.unitPrimes p u) u k
    let us := List.range (a.units p)
    let valid (n v : Nat) : Bool := decide (v < 2 ^ 31 ∧ v < n)
    if mode = 1 then
      let _ ← s.rdElems c a p (((ix.filter (valid (a.posCount p))).dedup).flatMap (fun i => us.map (fun u => (u, i))))
      let s2 ← s.wrElems c d p (s.padRows c d e.cmd.nopad (List.range d.slotCount))
        (ix.zipIdx.flatMap (fun z => us.map (fun u => ((u, z.2), if valid (a.posCount p) z.1 then word a u z.1 else a.fill))))
      .ok (s2, {}, [])
    else
      let n := d.posCount p
      let good := ix.zipIdx.filter (fun z => valid n z.1)
      let _ ← s.rdElems c a p (good.flatMap (fun z => us.map (fun u => (u, z.2))))
      let r : Rec := { dropped := ix.length - good.length }
      if mode = 2 then
        let s2 ← s.wrElems c d p [] (good.flatMap (fun z => us.map (fun u => ((u, z.1), word a u z.2))))
        .ok (s2, r, [])
      else
        let places := ((good.map (fun z => z.1)).dedup).flatMap (fun k => us.map (fun u => (u, k)))
        let _ ← s.rdElems c d p places
        let vs := places.map (fun z =>
          let cs := (good.filter (fun g => g.1 == z.2)).map (fun g => word a z.1 g.2)
          (z, addAll (elemAdd (d.unitPrimes p z.1) d.elem (s.draw + z.2 * us.length + z.1)) s.draw (2 ^ 53 + (z.2 * us.length + z.1) * 2 ^ 24)
            cs.length (word d z.1 z.2) cs))
        let s2 ← s.wrElems c d p [] (vs.map (fun z => (z.1, z.2.1)))
        .ok (s2, { r with fpflags := (vs.map (fun z => z.2.2)).foldl (· ||| ·) 0, fpValid := d.elem.fmt.isSome }, [])
  | _, _, _ => .error (.addressFault, 0)
/-- What a layout command computes (R208 to R224). -/
def State.runLayout (s : State) (c : Nat) (e : Entry) : Ran :=
  let m := bits e.cmd.imm 0 2
  if e.cmd.op = 0x500 then s.runCopy c e (m == 1)
  else if m = 0 then s.runCopy c e false
  else s.runIndexed c e m

end Sys2Proof.Machine
end

