-- ==== Sys2Proof/Machine/Complete.lean ====
section
/-! DEFINITION. How work commands complete (R199, Table 4.7), how their slot accesses end (R64), and how they are aborted (R201). -/

namespace Sys2Proof.Machine

/-- What a work command of a bay computes, by its opcode (Table 7.9). -/
def State.compute (s : State) (c w : Nat) (e : Entry) : Ran :=
  let op := e.cmd.op
  if op = 0x111 then s.runRefresh c e
  else if op ≤ 0x110 then s.runHe c e
  else if op ≤ 0x202 then s.runLookup c e
  else if op ≤ 0x304 then s.runShare c w e
  else if op = 0x403 then s.runVc c w e
  else if op ≤ 0x402 then s.runTransform c e
  else s.runLayout c e
/-- The command has everything it needs to finish: its slots, its keys, its refresh, every piece of it (R69). -/
def State.mayRun (s : State) (c n k : Nat) (e : Entry) : Bool :=
  e.phase == .issued && e.fate.isNone && !e.awaits && e.keys.isEmpty && !e.refreshing && s.allGranted (entryWho c n k)
    && e.todo.isEmpty && !s.hasPieces ⟨c, n, k⟩
/-- A chain of stages draws noise (R51): what it puts into slots is secret (R65). -/
def noisyCmd (cmd : SCmd) : Bool := cmd.op == 0x403 && ((vcProgram cmd.imm).any (fun st => st.any (fun x => x.op == 0x0B)))
/-- A noisy chain's destination is secret no longer, unless a source is (R55). -/
def State.unveil (s : State) (c : Nat) (e : Entry) : State :=
  if noisyCmd e.cmd then s.modCard c (e.hnd 2) (fun x => { x with secret := e.srcs.any (fun r => r.2.secret) }) else s
/-- A command ends with a fault of its own (Table 4.7); one that reached for another context's secret region is counted (R167). -/
def State.failCommand (s0 : State) (c n k : Nat) (e : Entry) (st : Status × Nat) : State :=
  let s := s0.unveil c e
  let hits := st.1 == .addressFault && (e.reads ++ e.writes).any (fun h => (s.card c h).any (fun x => s.foreign c x.base (max 1 x.capacity)))
  let s1 := if hits then s.count 2 1 else s
  (s1.endJob c e).failEntry c n k
    { e with out := if st.1 = .addressFault then { e.out with aux := st.2, aValid := true } else e.out } st.1
/-- The command runs: its writes land, and the cards that OK leaves and its record's fields are kept; or the status that it ends with. -/
def State.runEntry (s : State) (c n k w : Nat) (e : Entry) : Except (Status × Nat) State :=
  if e.ran then .ok s else
  let s0 := e.reads.foldl (fun s h => s.expandSeed c h) s
  match s0.compute c w e with
  | .error er => .error er
  | .ok (s1, r, cards) => .ok (({ s1 with draw := s1.draw + 1 }).setEntry c n k { e with ran := true, out := r, cards := cards })
/-- Slots that a noisy command puts take the secret bit (R65). -/
def State.markSecret (s : State) (c n k : Nat) (e : Entry) : State :=
  if !noisyCmd e.cmd then s else
  let me := entryWho c n k
  { s with slots := s.slots.map (fun p => (p.1, { p.2 with
      secret := p.2.secret || p.2.granted.any (fun r => r.who == me && r.mode == 1) })) }
/-- A command that has run ends with OK (Table 4.7): its cards, its destinations clean, its slots and scratch released. -/
def State.endOk (s : State) (c n k w : Nat) (e : Entry) : State :=
  let s1 := e.cards.foldl (fun s d => s.setCard c d.1 d.2) s
  let s2 := e.dests.foldl (fun s h => s.modCard c h (fun x => { x with poison := false })) s1
  let s3 := (((s2.endJob c e).markSecret c n k e).endAccesses (entryWho c n k)).unveil c e
  (if e.cmd.op = 0x111 then s3.tallyWing w 16 else s3).finish c n k e .ok
/-- A work command of a bay completes, when it can. -/
def State.completeBay (s : State) (c n k w : Nat) (e : Entry) : State :=
  match e.fate with
  | some st => if !e.refreshing then s.failCommand c n k e (st, 0) else s
  | none =>
    if !s.mayRun c n k e then s else
    match s.runEntry c n k w e with
    | .error er => s.failCommand c n k e er
    | .ok s1 =>
      match s1.entry c n k with
      | some e1 => s1.endOk c n k w e1
      | none => s1

/-- A command that holds a channel: `dm.go`, or a remote `ADD`. -/
def onChan (cmd : SCmd) : Bool := cmd.op == 0x502 || (cmd.op == 0x600 && cmd.imm % 4 == 1 && raChan cmd.imm != 0xFF)
/-- The channel whose chain an entry runs. -/
def State.chainOf (s : State) (c w n k : Nat) : Option Nat :=
  ((s.wing w).chans.find? (fun h => h.2.ctx == c && h.2.chain.any (fun x => x.stream == n && x.entry == k))).map (fun h => h.1)
/-- The end of a `COLLECT` whose wing or context is going: its result is poisoned (Table 14.6). -/
def State.dropCollect (s : State) (c n k : Nat) (e : Entry) (st : Status) : State := (s.poisonCards c [e.hnd 2]).finish c n k e st
/-- COMMAND_COMPLETION (R199): a work command whose work is done, or that a failure has ended, completes. -/
def execCommandCompletion (c n k : Nat) (s : State) : Res :=
  act s fun s =>
    match s.stream c n, s.entry c n k with
    | some x, some e =>
      if e.phase ≠ .issued then s
      else if bayOp e.cmd.op || e.cmd.op == 0x111 then s.completeBay c n k x.wing e
      else if onChan e.cmd then
        match e.fate, s.chainOf c x.wing n k with
        | some st, some ch => s.endChain x.wing ch st false
        | some st, none => s.finish c n k e st
        | none, _ => s
      else if e.cmd.op = 0x600 then
        match e.cmd.imm % 4, e.fate with
        | 1, f => if f.isSome ∨ s.allGranted (entryWho c n k) then s.endAdd c n k e f else s
        | 2, some st => s.dropCollect c n k e st
        | 2, none => s.endCollect c n k e
        | _, some st => s.finish c n k e st
        | _, none => s
      else match e.fate with
        | some st => s.finish c n k e st
        | none => s
    | _, _ => s

/-- SLOT_ACCESS_END (R64): the last word of an access has moved. A command's accesses end once it has run; a channel's, once its bursts
there have moved; a loan window's, with the WRITE that fills the slot. -/
def execSlotAccessEnd (slot req : Nat) (s : State) : Res :=
  act s fun s =>
    match (s.slot slot).granted[req]? with
    | none => s
    | some r =>
      match r.who.2.1 with
      | 0 =>
        let c := r.who.1
        let n := r.who.2.2 / 2 ^ 40
        let k := r.who.2.2 % 2 ^ 40
        match s.stream c n, s.entry c n k with
        | some x, some e =>
          if !(bayOp e.cmd.op || e.cmd.op == 0x111) ∨ !s.mayRun c n k e then s else
          match s.runEntry c n k x.wing e with
          | .error er => s.failCommand c n k e er
          | .ok s1 => (s1.markSecret c n k e).endAccess slot r
        | _, _ => s
      | 1 => s.endChannelAccess slot r
      | _ => s

/-! Aborts (R200, R201, Table 14.6) -/

/-- One issued command is aborted. `now` ends at once what an abort of a stream lets run to its next boundary (Table 6.6 step 1). -/
def State.abortEntry (s : State) (c n k : Nat) (now : Bool) : State :=
  match s.stream c n, s.entry c n k with
  | some x, some e =>
    if e.phase ≠ .issued then s
    else if onChan e.cmd then
      match s.chainOf c x.wing n k with
      | some ch =>
        if now then s.endChain x.wing ch .aborted false
        else match s.chan x.wing ch with
          | some h => s.setChan x.wing ch { h with state := .stopping }
          | none => s
      | none => s.finish c n k e .aborted
    else if e.cmd.op = 0x600 then
      let tag := raTag e.cmd.imm
      match e.cmd.imm % 4, s.bucket tag with
      | 0, some b => (s.setBucket tag { b with opener := none }).finish c n k e .aborted
      | 1, _ => s.endAdd c n k e (some .aborted)
      | 2, some b =>
        if now then s.dropCollect c n k e .aborted
        else
          let s1 := (s.setBucket tag { b with aborted := true }).tearAll tag .aborted
          match s1.bucket tag with
          | some b1 => if b1.state = .accepting ∨ b1.state = .closing then s1.setBucket tag { b1 with state := .verifying } else s1
          | none => s1
      | _, _ => s.finish c n k e .aborted
    else if e.cmd.op = 0x012 ∧ !now then s.setFate c n k .aborted
    else if e.cmd.op = 0x012 then s.finish c n k e .aborted
    else if e.refreshing ∧ !now then s.setFate c n k .aborted
    else s.failCommand c n k e (.aborted, 0)
  | _, _ => s
/-- A stream is aborted (R201): decoding ends, unissued commands are stopped, issued ones are aborted. -/
def State.abortStream (s : State) (c n : Nat) (now : Bool) : State :=
  let s1 := s.stopStream c n .stopped
  match s1.stream c n with
  | some x => ((x.window.filter (fun p => p.2.phase == .issued)).map (fun p => p.1)).foldl (fun s k => s.abortEntry c n k now) s1
  | none => s1
/-- STREAM_ABORT (R201). -/
def cmdStreamAbort (m : Mbx) (stream : Nat) (s : State) : State :=
  s.runCmd m { op := 0x0403 } fun _ c s =>
    match s.stream c stream with
    | none => refuse s .badParameter
    | some x => if x.ended then refuse s .badParameter else .done .ok [] (s.abortStream c stream false)
def execStreamAbort (m : Mbx) (stream : Nat) (s : State) : Res := act s (cmdStreamAbort m stream)

end Sys2Proof.Machine
end

