-- ==== Sys2Proof/Machine/Stamp.lean ====
section
/-! DEFINITION. Stamps (R329, R468, R469) and snapshots (R470, R471). -/

namespace Sys2Proof.Machine

/-! Stamps -/

/-- A stamp goes out on every other `PEER` port with stamp forwarding on (R329, R468). -/
def State.sendStamp (s : State) (from_ : Option Nat) (i : StampInfo) (hops : Nat) : State :=
  (List.range 8).foldl (fun s p =>
    let x := s.port p
    if x.role = 1 ∧ x.forward ∧ x.st = .active ∧ from_ ≠ some p then
      s.send p [flitOf 9 false 0 0 0 (leBytes 4 i.id ++ leBytes 4 i.party ++ leBytes 8 i.origin.toNat ++ [b8 hops])]
    else s) s
/-- A stamp is lost: a snapshot is being written (R469). -/
def State.stampLost (s : State) : State := { s with stamps := { s.stamps with overrun := true, lostOne := true } }
/-- A stamp arrives at the desk (R468, R469): it enters the set of IDs seen, and waits for its apply tick unless `STP_BUSY` is set. -/
def State.stampArrives (s : State) (i : StampInfo) : State :=
  let t := s.stamps
  let s1 : State := { s with stamps := { t with seen := (i.id, s.time.now) :: t.seen.filter (fun x => decide (s.time.now < x.2 + 1000000000)) } }
  if t.busy then s1.stampLost else { s1 with stamps := { s1.stamps with waiting := s1.stamps.waiting ++ [i] } }
/-- A local stamp (R468). -/
def State.localStamp (s : State) : State :=
  let party := ((List.range 8).find? (fun p => (s.port p).role == 1)).map (fun p => (s.port p).localParty)
  let i : StampInfo :=
    { id := s.stamps.nextId.toNat, party := party.getD 0, origin := s.stamp, apply := s.time.now + 300, hops := 0, received := false }
  let s1 : State := { s with stamps := { s.stamps with nextId := s.stamps.nextId + 1 } }
  let s2 := s1.stampArrives i
  if s.stamps.forward then s2.sendStamp none i 0 else s2
/-- A stamp flit is acted on (R329): forwarded at its arrival, and applied 300 ns later; an ID seen within the last 1 s is ignored. -/
def State.takeStamp (s : State) (p : Nat) (payload : List Byte) : State :=
  let id := fld payload 0 4
  if s.stamps.seen.any (fun x => x.1 == id && decide (s.time.now < x.2 + 1000000000)) then s else
  let hops := fld payload 16 1
  let i : StampInfo :=
    { id := id, party := fld payload 4 4, origin := BitVec.ofNat 64 (fld payload 8 8), apply := s.time.now + 300, hops := hops + 1, received := true }
  let s1 := s.stampArrives i
  if hops < 15 then s1.sendStamp (some p) i (hops + 1) else s1

/-- STP_TRIGGER (R354, R468): a write of `STP_CTRL`; its bit 0 issues a local stamp. -/
def execStpTrigger (v : W32) (s : State) : Res :=
  act s fun s =>
    if !s.hostUp then s else
    let s1 := s.stpCtrl v
    if v.getLsbD 0 then s1.localStamp else s1
/-- STAMP_PERIOD (R468): `STP_PERIOD` ticks have passed since the last periodic stamp. -/
def execStampPeriod (s : State) : Res :=
  act s fun s =>
    let t := s.stamps
    if t.periodic ∧ 0 < t.period.toNat ∧ t.periodStart + t.period.toNat ≤ s.time.now then
      ({ s with stamps := { t with periodStart := t.periodStart + t.period.toNat } }).localStamp
    else s

/-! Snapshots -/

/-- STP_BUFFER_WRITE (R354, R471): after any snapshot in progress. -/
def execStpBufferWrite (len : Bool) (v : W64) (s : State) : Res :=
  act s fun s =>
    if !s.hostUp then s
    else if s.stamps.busy then { s with stamps := { s.stamps with pendingBuf := s.stamps.pendingBuf ++ [(len, v)] } }
    else s.bufWrite len v

/-- Words of a record that count what the model does not show, symbols and codewords of a link, permutations, are free values. -/
def State.timeWord (s : State) (salt i w : Nat) : Nat := s.draw |> fun d => Config.free d (2 ^ 61 + salt * 4096 + i) % 2 ^ w
/-- A record from its listed words. -/
def recordOf (n : Nat) (w : Nat → Nat) : List Byte := (List.range n).flatMap (fun i => leBytes 8 (w i))
/-- The 13 words of an engine: busy, idle, and the stall codes (Table 21.2), each modulo 2^48; `units` are the engines that the words sum,
`all` their ticks. -/
def State.engineWord (s : State) (units : List Nat) (all j : Nat) : Nat :=
  (match j with
   | 0 => (units.map (fun u => s.ticksOf u 0)).sum
   | 1 => all - (units.map s.ticksHeld).sum
   | _ => (units.map (fun u => s.ticksOf u (j - 1))).sum) % 2 ^ 48
/-- Records of Table 21.2. -/
def State.bayRecord (s : State) (i : Nat) : List Byte :=
  let b := s.bay i
  recordOf 128 (fun j =>
    if j < 78 then s.engineWord ((List.range 16).map (fun c => engineUnit (i * 16 + c) (j / 13))) (s.ticksOf (bayUnit i) 0) (j % 13)
    else if j < 91 then s.engineWord [engineUnit (i * 16) 6] (s.ticksOf moduleUnit 0) (j % 13)
    else if j = 91 then b.weight % 2 ^ 32 + b.depth % 256 * 2 ^ 32 + b.eb % 16 * 2 ^ 40
    else if j ≤ 96 then b.cnt.getD j 0 else 0)
def State.coreRecord (s : State) (i c : Nat) : List Byte :=
  let b := s.bay i
  recordOf 128 (fun j =>
    if j < 78 then s.engineWord [engineUnit (i * 16 + c) (j / 13)] (s.ticksOf moduleUnit 0) (j % 13)
    else if j = 78 then b.cnt.getD (128 + c) 0
    else if j = 79 then b.laneSpares.countP (fun g => g / 4 == c) else 0)
def State.stackRecord (s : State) (k : Nat) : List Byte :=
  recordOf 64 (fun j =>
    if j < 5 ∨ j = 12 ∨ j = 13 ∨ j = 15 then (s.stk k).cnt.getD j 0
    else if j < 12 then s.ticksOf (stackUnit k) (j - 5) % 2 ^ 64 else if j = 14 then s.timeWord (2048 + k) j 64 else 0)
def State.portRecord (s : State) (p : Nat) : List Byte :=
  let x := s.port p
  recordOf 64 (fun j =>
    if !x.present ∨ 32 ≤ j ∨ 12 ≤ j % 16 then 0
    else if 6 ≤ j ∧ j ≤ 8 then s.ticksOf (portUnit p) (j - 6) % 2 ^ 64
    else if [1, 2, 3, 6, 7, 8].contains (j % 16) then s.timeWord (2064 + p) j 64 else x.cnt.getD j 0)
def State.domainRecord (s : State) (d : Nat) : List Byte :=
  let x := s.dom d
  let clocked := isClocked d || 72 ≤ d
  recordOf 8 (fun j => match j with
    | 0 => (if clocked then 0 else x.rate % 2 ^ 16 + x.setpoint % 2 ^ 16 * 2 ^ 16 + x.ceiling % 2 ^ 16 * 2 ^ 32)
    | 1 => x.rail % 2 ^ 16 + (15 + x.age) % 2 ^ 16 * 2 ^ 16 + x.age % 2 ^ 16 * 2 ^ 32 + (x.tj % 256).toNat * 2 ^ 48
    | 2 => x.powerTicks | 3 => x.thermalTicks | _ => 0)
def State.wingRecord (s : State) (w : Nat) : List Byte :=
  recordOf 64 (fun j =>
    if j < 11 then s.ticksOf (frontUnit w) j % 2 ^ 64 else if j = 13 then s.ticksOf (windowUnit w) 0 % 2 ^ 64 else if j ≤ 16 then (s.wing w).cnt.getD j 0 else 0)
def State.moduleRecord (s : State) : List Byte :=
  recordOf 128 (fun j =>
    if j = 0 then s.power.inputMw / 1000 else if j = 1 then s.power.limit
    else if j < 18 then s.evt.counts.getD (j - 2) 0
    else if j = 18 then s.evt.written else if j = 19 then s.evt.lostTotal else 0)
/-- Bays of the detail mask, and the size of a slot (R470). -/
def detailBays (mask : Nat) : List Nat := (List.range 88).filter (fun i => mask.testBit i)
def slotSize (mask : Nat) : Nat := 0x1C000 + 0x4000 * (detailBays mask).length
/-- A snapshot's bytes (Tables 21.4, 21.5). -/
def State.snapshot (s : State) (i : StampInfo) (apply : W64) (mask : Nat) : List Byte :=
  let t := s.stamps
  let h := leBytes 4 0x314E4C4F ++ leBytes 2 0x100 ++ [b8 ((if i.received then 1 else 0) + if t.lostOne then 2 else 0), b8 i.hops]
    ++ leBytes 4 i.id ++ leBytes 4 i.party ++ leBytes 8 i.origin.toNat ++ leBytes 8 apply.toNat ++ leBytes 8 t.written
    ++ leBytes 4 (slotSize mask) ++ leBytes 16 mask
  fit 4096 (h ++ leBytes 4 (crc32c h))
    ++ (List.range 88).flatMap s.bayRecord ++ (List.range 16).flatMap s.stackRecord ++ (List.range 8).flatMap s.portRecord
    ++ (List.range 80).flatMap s.domainRecord ++ (List.range 4).flatMap s.wingRecord ++ s.moduleRecord
    ++ (detailBays mask).flatMap (fun b => (List.range 16).flatMap (s.coreRecord b))
/-- STAMP_APPLY (R469, R470): at its apply tick the counters are latched, or the stamp overruns. -/
def execStampApply (s : State) : Res :=
  act s fun s =>
    match s.stamps.waiting with
    | [] => s
    | i :: rest =>
      if s.time.now < i.apply then s else
      let s1 : State := { s with stamps := { s.stamps with waiting := rest } }
      if s.stamps.busy then s1.stampLost
      else
        let s2 : State := { s1 with stamps := { s1.stamps with lastId := BitVec.ofNat 32 i.id, lastTick := i.origin, overrun := false } }
        let mask := s.num s.stamps.bufBase.toNat 16 % 2 ^ 88
        let z := slotSize mask
        if !s.bufUsable || decide (s.stamps.bufLen.toNat < 0x1000 + z) then s2.stampLost
        else
          let off := if s.stamps.next + z ≤ s.stamps.bufLen.toNat then s.stamps.next else 0x1000
          let a := BitVec.ofNat 64 (i.apply % 2 ^ 63 + if s.holdover then 2 ^ 63 else 0)
          { s2 with
            draw := s2.draw + 1
            stamps := { s2.stamps with busy := true, latched := some (off, s.snapshot i a mask), latchedAt := i.apply, lostOne := false } }
/-- SNAPSHOT_DONE (R471): the slot's last byte is written, which 65.536 GB/s allow no earlier than S / 65.536 ns after A (R472). -/
def execSnapshotDone (s : State) : Res :=
  act s fun s =>
    match s.stamps.latched with
    | none => s
    | some (off, bs) =>
      let t := s.stamps
      if s.time.now * 65536 < t.latchedAt * 65536 + bs.length * 1000 then s else
      let next := off + bs.length
      let s1 := s.write (t.bufBase.toNat + off) bs
      let s2 := ({ s1 with stamps := { t with
        latched := none, busy := false, written := t.written + 1, pendingBuf := []
        next := if next < t.bufLen.toNat then next else 0x1000 } }).writeDir
      t.pendingBuf.foldl (fun s w => s.bufWrite w.1 w.2) (s2.irq 3 3)

end Sys2Proof.Machine
end

