-- ==== Sys2Proof/Machine/Golat.lean ====
section
/-! DEFINITION. Golat transactions (R318 to R321, R324), loan windows (R325, R326), port configuration (R322), tallies and attached
signals (R257, R258), and the time exchange (R328, R439). -/

namespace Sys2Proof.Machine

/-! Refusals (R320, Table 13.9) -/

/-- Who asks for slots through a loan window. -/
def loanWho (p window transfer : Nat) : Nat × Nat × Nat := (p, 2, window * 2 ^ 16 + transfer)
/-- A transfer is refused (R320): one TNAK, and what is held of it is dropped; what it has written stays. -/
def State.refuseTransfer (s : State) (p window transfer index : Nat) (st : Status) : State :=
  let x := s.port p
  let s1 := s.setPort p { x with
    refused := x.refused ++ [(window, transfer)], refusedAt := x.refusedAt.put (window * 65536 + transfer) s.time.now
    puts := x.puts.filter (fun u => (u.1, u.2.1) != (window, transfer))
    mask := x.mask.filter (fun m => (m.window, m.transfer) != (window, transfer))
    acch := x.acch.filter (fun m => (m.window, m.transfer) != (window, transfer)) }
  let s2 := ((s1.dropAccess (loanWho p window transfer)).tornTransfer { port := p, window := window, transfer := transfer } st State.closing).send p
    [flitOf 8 false window transfer 0 ([b8 st.code, 0, 0, 0] ++ leBytes 4 index)]
  (if st = .portDenied then s2.count 0 1 else s2).count 5 1
/-- A flit of a transfer is refused. -/
def State.refuseFlit (s : State) (p : Nat) (f : Flit) (st : Status) : State := s.refuseTransfer p f.window f.transfer f.index st
/-- The window that a flit names (Table 13.9): open, and its party is the one that the partner announces. -/
def State.windowOf (s : State) (p : Nat) (f : Flit) : Option Window :=
  ((s.port p).windows.get f.window).filter (fun w => w.party == (s.port p).partner)
/-- A flit's window, when it has a right there (Table 13.10). -/
def State.granted (s : State) (p : Nat) (f : Flit) (right : Nat) : Except Status Window :=
  match s.windowOf p f with
  | none => .error .linkDown
  | some w => if w.rights.testBit right then .ok w else .error .portDenied
/-- Why a granule of a window cannot be used (Table 13.9). -/
def State.granuleFault (s : State) (w : Window) (index : Nat) : Option Status :=
  if w.len < 256 * index + 256 then some .addressFault else s.reachAt (w.base + 256 * index)
/-- A granule is secret to a loan window (R167, R321): it lies in a secret region. -/
def State.secretGranule (s : State) (a : Nat) : Bool := s.foreign 16 a 256
/-- Why a window cannot read a granule: its storage cannot be reached, or it lies in a secret slot (R65, R321). -/
def State.fetchFault (s : State) (a : Nat) : Option Status :=
  match s.reachAt a with
  | some st => some st
  | none => if isCarrel a && (s.slot (slotKey a)).secret then some .addressFault else none

/-- A flit that follows a held MASK or ACCH group out of turn refuses that transfer (Table 13.8). -/
def State.interrupts (s : State) (p : Nat) (f : Flit) : State :=
  let x := s.port p
  let posted := flitClass f.ftype == 0
  let s1 := match x.mask with
    | some m =>
      if f.ftype = 1 ∧ f.seq = m.seq ∧ f.window = m.window ∧ f.transfer = m.transfer ∧ f.index = m.index then s
      else if posted ∨ f.seq = m.seq then s.refuseTransfer p m.window m.transfer m.index .badParameter else s
    | none => s
  match (s1.port p).acch with
  | some m =>
    if f.ftype = 6 ∧ f.seq = m.seq ∧ f.window = m.window ∧ f.transfer = m.transfer then s1
    else if posted ∨ f.seq = m.seq then s1.refuseTransfer p m.window m.transfer f.index .badParameter else s1
  | none => s1
/-- A flit of a transfer is handled (R318, R320): discarded when its transfer has been refused, else by `body`, which says none while the
flit must wait. -/
def State.handle (s : State) (p : Nat) (f : Flit) (body : State → Option State) : Option State :=
  let s1 := s.interrupts p f
  if (s1.port p).refused.contains (f.window, f.transfer) then
    let s2 := s1.count 5 1
    some ((if f.ftype = 7 then s2.setPort p { s2.port p with refused := (s2.port p).refused.erase (f.window, f.transfer) } else s2).freeRx p f)
  else (body s1).map (fun (t : State) => t.freeRx p f)
/-- A row's flit is handled in its turn. -/
def State.transact (s : State) (p ftype : Nat) (f : Flit) (body : State → Option State) : State :=
  if (s.port p).st ≠ .active ∨ f.ftype ≠ ftype ∨ !(s.port p).next f then s else (s.handle p f body).getD s

/-! Tallies and attached signals (R257, R258) -/

/-- The pending tally of a transfer. -/
def Port.tallyOf (x : Port) (window transfer : Nat) : Option Arrival := x.tallies.find? (fun a => a.window == window && a.transfer == transfer)
/-- A transfer may have a tally: it has one, or fewer than 256 are pending. -/
def Port.tallyRoom (x : Port) (window transfer : Nat) : Bool := (x.tallyOf window transfer).isSome || decide (x.tallies.length < 256)
def Port.setTally (x : Port) (a : Arrival) : Port :=
  { x with tallies := x.tallies.filter (fun b => !(b.window == a.window && b.transfer == a.transfer)) ++ [a] }
def Port.dropTally (x : Port) (window transfer : Nat) : Port :=
  { x with tallies := x.tallies.filter (fun b => !(b.window == window && b.transfer == transfer)) }
/-- A tally that has reached its signal's count applies it; a signal that may not be applied is counted (R258). -/
def State.settle (s : State) (p : Nat) (a : Arrival) : State :=
  match a.want, (s.port p).windows.get a.window with
  | some (n, i, delta), some w =>
    if a.got = n then
      let s1 := s.setPort p ((s.port p).dropTally a.window a.transfer)
      if i < w.sigCount then s1.update w.ctx (w.sigFirst + i) false (BitVec.ofNat 64 delta) else s1.count 3 1
    else s
  | _, _ => s
/-- A data flit has been written into memory. -/
def State.tallied (s : State) (p : Nat) (f : Flit) (w : Window) : State :=
  if !w.rights.testBit 3 then s else
  let x := s.port p
  let a := (x.tallyOf f.window f.transfer).getD { window := f.window, transfer := f.transfer, since := s.time.now, got := 0, want := none }
  let a1 := { a with got := a.got + 1 }
  (s.setPort p (x.setTally a1)).settle p a1

/-! WRITE and MASK -/

/-- A granule is written under a mask (R283, R285, R318): whole 64-byte blocks, and single bytes of the others. -/
def State.maskedWrite (s : State) (a mask : Nat) (data : List Byte) : State :=
  (List.range 4).foldl (fun s j =>
    let m := mask / 2 ^ (64 * j) % 2 ^ 64
    if m = 2 ^ 64 - 1 then s.outWrite (a + 64 * j) ((data.drop (64 * j)).take 64)
    else ((List.range 64).filter (fun i => m.testBit i)).foldl (fun s i => s.outWrite (a + 64 * j + i) [data.getD (64 * j + i) 0]) s) s
/-- The granule of a WRITE is written (R285, R318). -/
def State.putGranule (s : State) (a mask : Nat) (poison : Bool) (data : List Byte) : State :=
  if poison then (if isCarrel a then s.scramble a 256 else s.writePoison a 256) else s.maskedWrite a mask data
/-- The slot of a carrel window in `PUT` mode is the transfer's to write (R64, R321): it has been asked for, and granted. -/
def State.putReady (s : State) (p : Nat) (f : Flit) (w : Window) (a : Nat) : State × Bool :=
  if w.put = 0 ∨ !isCarrel a then (s, true) else
  let k := slotKey a
  let x := s.port p
  let r : SlotReq := { mode := 1, n := w.put, secret := false, who := loanWho p f.window f.transfer }
  let s1 := if x.puts.contains (f.window, f.transfer, k) then s
    else (s.setPort p { x with puts := x.puts ++ [(f.window, f.transfer, k)] }).request k r
  (s1, (s1.slot k).granted.contains r)
/-- A `PUT` of a transfer ends, setting its slot full. -/
def State.endPut (s : State) (p window transfer k : Nat) : State :=
  let x := s.port p
  let s1 := s.setPort p { x with puts := x.puts.erase (window, transfer, k) }
  match (s1.slot k).granted.find? (fun r => r.who == loanWho p window transfer) with
  | some r => s1.endAccess k r
  | none => s1
/-- WRITE (R318): the state after it, or none while it waits for a tally or a slot. -/
def State.takeWrite (s : State) (p : Nat) (f : Flit) : Option State :=
  match s.granted p f 0 with
  | .error st => some (s.refuseFlit p f st)
  | .ok w =>
    match s.granuleFault w f.index with
    | some st => some (s.refuseFlit p f st)
    | none =>
      let a := w.base + 256 * f.index
      if w.rights.testBit 3 && !(s.port p).tallyRoom f.window f.transfer then none
      else
        let mask := match (s.port p).mask with | some m => m.mask | none => 2 ^ 256 - 1
        let s1 := s.setPort p { s.port p with mask := none }
        if s.secretGranule a then some (s1.count 2 1)
        else
          let r := s1.putReady p f w a
          if !r.2 then none
          else
            let s2 := r.1.putGranule a mask f.poison f.payload
            let s3 := if (r.1.port p).puts.contains (f.window, f.transfer, slotKey a) ∧ a % 4096 = 3840 then
              s2.endPut p f.window f.transfer (slotKey a) else s2
            some (s3.tallied p f w)
/-- A WRITE that waits for its slot has asked for it (R64). -/
def State.askSlot (s : State) (p : Nat) (f : Flit) : State :=
  match s.granted p f 0 with
  | .error _ => s
  | .ok w =>
    let a := w.base + 256 * f.index
    if (s.port p).st ≠ .active ∨ !(s.port p).next f ∨ f.ftype ≠ 1 ∨ (s.port p).refused.contains (f.window, f.transfer)
        ∨ (s.granuleFault w f.index).isSome ∨ s.secretGranule a then s
    else (s.putReady p f w a).1
/-- WRITE (R318, R321). -/
def execWrite (p : Nat) (f : Flit) (s : State) : Res :=
  act s fun s => let s1 := s.askSlot p f; s1.transact p 1 f (fun s => s.takeWrite p f)
/-- MASK (R318): held for the WRITE that must follow it. -/
def State.takeMask (s : State) (p : Nat) (f : Flit) : State :=
  match s.granted p f 0 with
  | .error st => s.refuseFlit p f st
  | .ok w =>
    if w.len < 256 * f.index + 256 then s.refuseFlit p f .addressFault
    else s.setPort p { s.port p with
      mask := some { window := f.window, transfer := f.transfer, index := f.index, seq := (f.seq + 1) % 4096, mask := leNat (f.payload.take 32) } }
def execMask (p : Nat) (f : Flit) (s : State) : Res := act s fun s => s.transact p 2 f (fun s => some (s.takeMask p f))

/-! FETCH and RDATA -/

/-- Granules of a FETCH in order: RDATA for each, until one that a halted stack keeps (Table 13.13), or that lies in a secret slot (R65). -/
def State.fetchGranules (s : State) (p : Nat) (f : Flit) (w : Window) : List Nat → State
  | [] => s
  | i :: rest =>
    let a := w.base + 256 * i
    match s.fetchFault a with
    | some st => s.refuseTransfer p f.window f.transfer i st
    | none =>
      let secret := s.secretGranule a
      let bad := !secret && s.poisoned a 256
      let s1 := (if secret then s.count 2 1 else s).send p
        [flitOf 4 bad f.window f.transfer i (if secret then List.replicate 256 0xFF else s.bytes a 256)]
      s1.fetchGranules p f w rest
/-- FETCH (R318). -/
def State.takeFetch (s : State) (p : Nat) (f : Flit) : State :=
  match s.granted p f 1 with
  | .error st => s.refuseFlit p f st
  | .ok w =>
    let n := fld f.payload 0 2
    let ix := (List.range n).map (· + f.index)
    if w.len < 256 * (f.index + n) ∨ ix.any (fun i => (s.reachAt (w.base + 256 * i)).any (fun e => e != .thermalHalt)) then
      s.refuseFlit p f .addressFault
    else if n = 0 ∨ 256 < n then s.refuseFlit p f .badParameter
    else s.fetchGranules p f w ix
def execFetch (p : Nat) (f : Flit) (s : State) : Res := act s fun s => s.transact p 3 f (fun s => some (s.takeFetch p f))
/-- RDATA (R318): a module issues no FETCH, so it is discarded and counted. -/
def execRdata (p : Nat) (f : Flit) (s : State) : Res :=
  act s fun s =>
    if (s.port p).st ≠ .active ∨ f.ftype ≠ 4 ∨ !(s.port p).next f then s
    else ((s.interrupts p f).count 5 1).freeRx p f

/-! ACCH and ACCUM -/

/-- ACCH (R318): descriptors for the ACCUM flits that follow. -/
def State.takeAcch (s : State) (p : Nat) (f : Flit) : State :=
  match s.granted p f 2 with
  | .error st => s.refuseFlit p f st
  | .ok _ =>
    let ds := (List.range f.ndesc).map (fun i => (f.payload.drop (16 * i)).take 16)
    if ds.any (fun d => decide (3 < fld d 2 1)) then s.refuseFlit p f .badParameter
    else s.setPort p { s.port p with
      acch := some { window := f.window, transfer := f.transfer, seq := (f.seq + 1) % 4096, descs := ds } }
def execAcch (p : Nat) (f : Flit) (s : State) : Res := act s fun s => s.transact p 5 f (fun s => some (s.takeAcch p f))
/-- The block that a granule address names in a bucket (R338): of the result card, or of the alternate when the bucket has moved there. -/
def State.blockAt (s : State) (tag a : Nat) : Option Nat :=
  match s.bucket tag with
  | none => none
  | some b =>
    let card := (s.card b.ctx b.result).map (fun d => d.base)
    let hit (base : Nat) : Option Nat := if base ≤ a ∧ (a - base) % 256 = 0 ∧ (a - base) / 256 ≤ b.blocks then some ((a - base) / 256) else none
    (card.bind hit).orElse (fun _ => hit b.base)
/-- ACCUM (R331, R338, R339): checked and applied by the adders, refused, or held while no contribution is free. -/
def State.takeAccum (s : State) (p : Nat) (f : Flit) : Option State :=
  match s.granted p f 2 with
  | .error st => some (s.refuseFlit p f st)
  | .ok w =>
    let a := w.base + 256 * f.index
    let out := w.len < 256 * f.index + 256 || (s.reachAt a).any (fun e => e != .thermalHalt)
    if out then some (s.refuseFlit p f .addressFault)
    else match (s.port p).acch with
      | none => some (s.refuseFlit p f .badParameter)
      | some g =>
        match g.descs with
        | [] => some (s.refuseFlit p f .badParameter)
        | d :: rest =>
          let tag := fld d 0 2
          let k : Block := { op := fld d 2 1, modulus := fld d 8 8, residue := fld d 4 2, count := fld d 6 2, poison := f.poison, data := f.payload }
          let me : Contribution := { port := p, window := f.window, transfer := f.transfer }
          let s1 := s.setPort p { s.port p with acch := if rest.isEmpty then none else some { g with seq := (g.seq + 1) % 4096, descs := rest } }
          if w.rights.testBit 3 && !(s.port p).tallyRoom f.window f.transfer then none
          else
            let j := s.blockAt tag a
            match s.arrives w.ctx tag me j (fld d 3 1) k with
            | .hold => none
            | .refuse st => some ((s1.refuseBlock tag me st).refuseFlit p f st)
            | .take => some ((s1.takeBlock tag me (j.getD 0) k).tallied p f w)
/-- ACCUM. -/
def execAccum (p : Nat) (f : Flit) (s : State) : Res := act s fun s => s.transact p 6 f (fun s => s.takeAccum p f)

/-! SIG, tallies, TNAK -/

/-- SIG (R257, R258, R318): the transfer's count and its attached signal; its open `PUT`s end. -/
def State.takeSig (s : State) (p : Nat) (f : Flit) : Option State :=
  if (s.port p).role = 2 then some (s.count 3 1)
  else match s.granted p f 3 with
    | .error st => some (s.refuseFlit p f st)
    | .ok _ =>
      let x := s.port p
      if !x.tallyRoom f.window f.transfer then none
      else
        let s1 := (x.puts.filter (fun u => (u.1, u.2.1) == (f.window, f.transfer))).foldl (fun s u => s.endPut p u.1 u.2.1 u.2.2) s
        let y := s1.port p
        let a := (y.tallyOf f.window f.transfer).getD { window := f.window, transfer := f.transfer, since := s.time.now, got := 0, want := none }
        let a1 := { a with want := some (fld f.payload 0 4, fld f.payload 4 2, fld f.payload 8 4) }
        some ((s1.setPort p (y.setTally a1)).settle p a1)
def execSig (p : Nat) (f : Flit) (s : State) : Res := act s fun s => s.transact p 7 f (fun s => s.takeSig p f)
/-- TALLY_TIMEOUT (R257): a tally incomplete 10 ms after its first packet is discarded and counted. -/
def execTallyTimeout (p window transfer : Nat) (s : State) : Res :=
  act s fun s =>
    match (s.port p).tallyOf window transfer with
    | some a => if a.since + 10000000 ≤ s.time.now then (s.setPort p ((s.port p).dropTally window transfer)).count 4 1 else s
    | none => s
/-- REFUSED_TRANSFER_DISCARD_END (R320): 10 ms after the refusal. -/
def execRefusedTransferDiscardEnd (p window transfer : Nat) (s : State) : Res :=
  act s fun s =>
    let x := s.port p
    let key := window * 65536 + transfer
    if s.time.now < x.refusedAt.getD key 0 + 10000000 then s
    else s.setPort p { x with refused := x.refused.erase (window, transfer), refusedAt := x.refusedAt.del key }
/-- The status of a code; a code that Table 15.11 does not hold, or `OK`, ends a transfer as a failed check (assumption log). -/
def refusalOf (code : Nat) : Status :=
  (([Status.skipped, .stopped, .aborted, .late, .badCommand, .badParameter, .unitAbsent, .portDenied, .notReady, .busy, .resourceExhausted,
     .keyMismatch, .levelExhausted, .noiseExhausted, .poisonedInput, .parameterMismatch, .addressFault, .uncorrectableMemory, .thermalHalt,
     .linkDown, .barrierOverrun, .cryptoFail, .signatureInvalid, .rollbackRefused] : List Status).find? (fun x => x.code == code)).getD .integrityFault
/-- A chain's transfer ends with a TNAK's status (R320); the faulting element is the first that wrote the refused granule (R232). -/
def State.endTransfer (s : State) (p window transfer index : Nat) (st : Status) : State :=
  { s with wings := s.wings.map (fun w => (w.1, { w.2 with
      chans := w.2.chans.map (fun h => (h.1,
        match h.2.chain with
        | some c =>
          if h.2.port = some p ∧ h.2.window = window ∧ c.transfer = some transfer ∧ c.fault.isNone then
            { h.2 with chain := some { c with fault := some st, faultAt := (c.sentAt.get index).getD c.moved } } else h.2
        | none => h.2)) })) }
/-- TNAK (R320): the sender's transfer ends with its status, and its flits that still wait are not sent. -/
def execTnak (p : Nat) (f : Flit) (s : State) : Res :=
  act s fun s =>
    if (s.port p).st ≠ .active ∨ f.ftype ≠ 8 ∨ !(s.port p).next f then s else
    let s1 := s.interrupts p f
    let x := (s1.port p).tally 26
    let mine (g : Flit) : Bool := [1, 2, 5, 6, 7].contains g.ftype && g.window == f.window && g.transfer == f.transfer
    ((s1.setPort p { x with queue := x.queue.filter (fun g => !mine g) }).endTransfer p f.window f.transfer (fld f.payload 4 4)
      (refusalOf (fld f.payload 0 1))).freeRx p f

/-! STAMP and TIME -/

/-- STAMP (R324, R329). -/
def execStamp (p : Nat) (f : Flit) (s : State) : Res :=
  act s fun s =>
    let x := s.port p
    if x.st ≠ .active ∨ f.ftype ≠ 9 ∨ !x.next f then s else
    let s1 := (s.interrupts p f)
    let s2 := s1.setPort p ((s1.port p).tally 27)
    (if x.role = 1 ∧ x.forward then s2.takeStamp p f.payload else s2.count 6 1).freeRx p f
/-- The time exchange stops on a pair that is not FOLLOW and SERVE, with an event (R328). -/
def State.stopTime (s : State) (p : Nat) : State :=
  if (s.port p).timeStopped then s
  else (s.setPort p { s.port p with timeStopped := true }).event .ok 9 0xFF [b8 p]
/-- TIME (R324, R328): a follower takes its partner's report. -/
def execTime (p : Nat) (f : Flit) (s : State) : Res :=
  act s fun s =>
    let x := s.port p
    if x.st ≠ .active ∨ f.ftype ≠ 0xA ∨ !x.next f then s else
    let s1 := s.interrupts p f
    let s2 :=
      if x.role ≠ 1 then s1.count 0 1
      else if x.timeMode = 1 ∧ !x.timeStopped then
        let s3 := s1.setPort p { s1.port p with report := some (fld f.payload 0 2, fld f.payload 8 8) }
        match s3.time.follow with
        | some (q, w) => if q = p then { s3 with time := { s3.time with follow := some (q, { w with serverHold := fld f.payload 16 1 % 2 == 1 }) } } else s3
        | none => s3
      else s1.stopTime p
    s2.freeRx p f
/-- TIME_REPORT (R328): a port in SERVE mode reports the arrival of its partner's marker of logical lane 0. -/
def execTimeReport (p : Nat) (s : State) : Res :=
  act s fun s =>
    let x := s.port p
    if x.st ≠ .active ∨ x.timeMode ≠ 2 ∨ x.timeStopped then s else
    match x.markers.find? (fun m => m.2.logical == 0) with
    | some (_, m) =>
      s.send p [flitOf 0xA false 0 0 0
        (leBytes 2 m.superframe ++ zeros 6 ++ leBytes 8 m.arrive ++ [if s.holdover then 1 else 0])]
    | none => s
/-- A FOLLOW port has one more offset θ (R439): four within 100 ns acquire the server, whose offset is taken in one step; afterwards the
timebase is steered, and four in a row above 1 µs lose the server. -/
def State.measured (s : State) (p : Nat) (w : Follow) (th : Int) : State :=
  let t := s.time
  if !w.acquired then
    let l := (th :: w.recent).take 4
    let near := l.length == 4 && l.all (fun a => l.all (fun b => decide ((a - b).natAbs ≤ 100)))
    if near then
      { s with time := { t with
        now := ((t.now : Int) - th).toNat, follow := some (p, { w with acquired := true, recent := [], far := 0, lastValid := ((t.now : Int) - th).toNat }) } }
    else { s with time := { t with follow := some (p, { w with recent := l, lastValid := t.now }) } }
  else
    let far := if 1000 < th.natAbs then w.far + 1 else 0
    if 4 ≤ far then { s with time := { t with follow := some (p, { w with acquired := false, recent := [], far := 0, lastValid := t.now }) } }
    else
      let ppm : Int := (Config.free s.draw 4 % 201 : Nat) - 100
      { s with draw := s.draw + 1, time := { t with follow := some (p, { w with far := far, ppm := ppm, lastValid := t.now }) } }
/-- TIME_MEASUREMENT (R328, R439). -/
def execTimeMeasurement (p : Nat) (m : TimeMeas) (s : State) : Res :=
  act s fun s =>
    match s.time.follow with
    | some (q, w) =>
      if q ≠ p ∨ (s.port p).st ≠ .active ∨ (s.port p).timeStopped ∨ !m.valid then s else s.measured p w ((m.dIn - m.dOut) / 2)
    | none => s

/-! Loan windows and port configuration -/

/-- A window's range (Table 13.11). -/
def State.windowRange (s : State) (c base len mode : Nat) : Bool :=
  if base < 2 ^ 40 then
    base % 65536 == 0 && len % 65536 == 0 && decide (0 < len ∧ base + len ≤ 2 ^ 40) && mode == 0
      && (List.range (len / 65536)).all (fun i => s.populated (base + 65536 * i))
  else
    base % 4096 == 0 && len % 4096 == 0 && decide (0 < len ∧ len ≤ 2 ^ 40) && s.inBound c base len
      && (mode == 0 || (mode % 4 == 1 && decide (1 ≤ mode / 4 ∧ mode / 4 ≤ 15)))
/-- Windows of a context. -/
def State.windowsOf (s : State) (c : Nat) : Nat := (s.ports.map (fun p => p.2.windows.countP (fun w => w.2.ctx == c))).sum
/-- LOAN_OPEN (R325): `mode` is the carrel mode byte, RAW 0, or PUT 1 with its reader count from bit 2 on (Table 15.12). -/
def cmdLoanOpen (m : Mbx) (port rights mode party base len sigFirst sigCount : Nat) (s : State) : State :=
  s.runCmd m { op := 0x0802 } fun _ c s =>
    let x := s.port port
    if 8 ≤ port ∨ rights = 0 ∨ 16 ≤ rights ∨ party = 0 ∨ 2 ^ 32 ≤ party ∨ !s.windowRange c base len mode
        ∨ (if rights.testBit 3 then sigCount = 0 ∨ 4096 < sigFirst + sigCount else sigFirst ≠ 0 ∨ sigCount ≠ 0) then
      refuse s .badParameter
    else if !x.present ∨ x.lost then refuse s .unitAbsent
    else if x.role = 0 ∨ (x.role = 2 ∧ rights.testBit 3) then refuse s .badParameter
    else if !s.rangeReady base len then refuse s .notReady
    else if 64 ≤ s.windowsOf c then refuse s .resourceExhausted
    else
      match (List.range 256).find? (fun i => (x.windows.get i).isNone) with
      | none => refuse s .resourceExhausted
      | some i =>
        let w : Window := { ctx := c, rights := rights, put := mode / 4, party := party, base := base, len := len, sigFirst := sigFirst, sigCount := sigCount }
        .done .ok [b8 i] (s.setPort port { x with windows := x.windows.put i w })
def execLoanOpen (m : Mbx) (port rights mode party base len sigFirst sigCount : Nat) (s : State) : Res :=
  act s (cmdLoanOpen m port rights mode party base len sigFirst sigCount)

/-- The effect of a window's flit by its type. -/
def State.takeFlit (s : State) (p : Nat) (f : Flit) : Option State :=
  match f.ftype with
  | 1 => s.takeWrite p f
  | 2 => some (s.takeMask p f)
  | 3 => some (s.takeFetch p f)
  | 5 => some (s.takeAcch p f)
  | 6 => s.takeAccum p f
  | _ => s.takeSig p f
/-- A window ends (R326): the flits accepted before take effect (one that must still wait is dropped and counted), its pending tallies are
discarded and counted, and its `PUT`s are withdrawn. -/
def State.closeWindow (s : State) (p window : Nat) : State :=
  let mine := (s.port p).rx.filter (fun f => f.window == window && [1, 2, 3, 5, 6, 7].contains f.ftype)
  let s0 := mine.foldl (fun (s : State) f =>
    (s.handle p f (fun t => t.takeFlit p f)).getD ((s.count 5 1).freeRx p f)) s
  let x := s0.port p
  let gone := x.tallies.filter (fun a => a.window == window)
  let s1 := s0.setPort p { x with
    windows := x.windows.del window, tallies := x.tallies.filter (fun a => a.window != window), puts := x.puts.filter (fun u => u.1 != window)
    mask := x.mask.filter (fun k => k.window != window), acch := x.acch.filter (fun k => k.window != window) }
  (x.puts.filter (fun u => u.1 == window)).foldl (fun s u => s.dropAccess (loanWho p u.1 u.2.1)) (s1.count 4 gone.length)
/-- LOAN_CLOSE (R326): by the context's own port, or by the owner naming the context. -/
def cmdLoanClose (m : Mbx) (port window : Nat) (s : State) : State :=
  s.runCmd m { op := 0x0803 } fun _ c s =>
    match if port < 8 then (s.port port).windows.get window else none with
    | some w => if w.ctx = c then .done .ok [] (s.closeWindow port window) else refuse s .badParameter
    | none => refuse s .badParameter
def execLoanClose (m : Mbx) (port window : Nat) (s : State) : Res := act s (cmdLoanClose m port window)

/-- A port takes its configuration (R322): a change of role or of an identity sends DOWN and retrains it. -/
def State.configure (s : State) (p role timeMode fwd localParty expected : Nat) : State :=
  let x := s.port p
  let change := x.role != role || x.localParty != localParty || x.expected != expected
  let s1 := if change then s.portDown p 1 else s
  let y := s1.port p
  let s2 := s1.setPort p { y with
    role := role, timeMode := timeMode, forward := fwd == 1, localParty := localParty, expected := expected, timeStopped := false
    partner := if change then 0 else y.partner, partnerRole := if change then 0 else y.partnerRole
    st := if !change then y.st else if role = 0 then .off else .detect }
  let follow : Option (Nat × Follow) :=
    match s2.time.follow with
    | some (q, w) => if q ≠ p then some (q, w) else if timeMode = 1 then some (p, if change then {} else w) else none
    | none => if timeMode = 1 then some (p, {}) else none
  { s2 with time := { s2.time with follow := follow } }
/-- GOLAT_PORT_CONFIG (R322). -/
def cmdGolatPortConfig (m : Mbx) (port role timeMode fwd localParty expected : Nat) (s : State) : State :=
  s.runCmd m { op := 0x0801, tenant := false, ctx := .none } fun _ _ s =>
    let x := s.port port
    let others : Bool := match s.time.follow with | some (q, _) => q != port | none => false
    if 8 ≤ port ∨ 2 < role ∨ 2 < timeMode ∨ 1 < fwd ∨ localParty = 0 ∨ 2 ^ 32 ≤ localParty ∨ 2 ^ 32 ≤ expected
        ∨ (timeMode = 1 ∧ (others ∨ role = 2)) then refuse s .badParameter
    else if !x.present ∨ x.lost then refuse s .unitAbsent
    else if !x.windows.isEmpty ∨ s.wings.any (fun w => w.2.chans.any (fun h => h.2.port == some port)) then refuse s .busy
    else .done .ok [] (s.configure port role timeMode fwd localParty expected)
def execGolatPortConfig (m : Mbx) (port role timeMode fwd localParty expected : Nat) (s : State) : Res :=
  act s (cmdGolatPortConfig m port role timeMode fwd localParty expected)

end Sys2Proof.Machine
end

