-- ==== Sys2Proof/Machine/Contexts.lean ====
section
/-! DEFINITION. Contexts (R368, R369), secret regions (R165), and the wipe of a context (R171, Table 6.6). -/

namespace Sys2Proof.Machine

/-! Creation and options -/

/-- A fresh context, with its XTS key and its four DRBG instances drawn (R166, R168, R368). -/
def State.freshCtx (s : State) (vf : Option Nat) : Ctx :=
  { vf := vf, xts := s.draw
    drbg := (List.range 4).map (fun w => (w, { seed := s.draw + 1 + w, requests := 0, since := s.time.now })) }
/-- CONTEXT_CREATE (R368, R399, R405): `vf` 0 is none. -/
def cmdContextCreate (m : Mbx) (vf : Nat) (s : State) : State :=
  s.runCmd m { op := 0x0001, tenant := false, ctx := .none } fun _ _ s =>
    if 16 < vf then refuse s .badParameter
    else if !s.hex.rdyKeeper ∨ !s.hex.trng ∨ s.hex.drbgError then refuse s .notReady
    else if vf ≠ 0 ∧ s.ctxs.any (fun c => c.2.vf == some vf) then refuse s .busy
    else
      match (List.range 16).find? (fun i => (s.ctxs.get i).isNone) with
      | none => refuse s .resourceExhausted
      | some i =>
        .done .ok [b8 i] { s with
          draw := s.draw + 5, ctxs := s.ctxs.put i (s.freshCtx (if vf = 0 then none else some vf)) }
def execContextCreate (m : Mbx) (vf : Nat) (s : State) : Res := act s (cmdContextCreate m vf)

/-- A context option's value and the context with it changed, or none for a reserved option or value (Table 15.13). -/
def Ctx.option (x : Ctx) (option value : Nat) : Option (Nat × Ctx) :=
  match option with
  | 1 => if value ≤ 1 then some (if x.noiseWorst then 1 else 0, { x with noiseWorst := value == 1 }) else none
  | 2 => if value ≤ 0x3D00 then some (x.bm, { x with bm := value }) else none
  | 3 => if value ≤ 1 then some (if x.autoRefresh then 1 else 0, { x with autoRefresh := value == 1 }) else none
  | 4 => if value ≤ 65535 then some (x.gather, { x with gather := value }) else none
  | 5 => if value ≤ 1 then some (x.party, { x with party := value }) else none
  | _ => none
/-- CONTEXT_OPTION (R369). -/
def cmdContextOption (m : Mbx) (option value : Nat) (s : State) : State :=
  s.runCmd m { op := 0x0003 } fun _ c s =>
    let x := s.ctx c
    match x.option option value with
    | none => refuse s .badParameter
    | some (old, y) =>
      if option = 5 ∧ old ≠ value ∧ x.cards.any (fun h => h.2.kind == .share && h.2.role == roleTriple && h.2.triple == .opened) then
        refuse s .busy
      else .done .ok (leBytes 8 old) (s.setCtx c y)
def execContextOption (m : Mbx) (option value : Nat) (s : State) : Res := act s (cmdContextOption m option value)

/-! Secret regions -/

/-- Ranges that regions hold, or that are still being zero-filled. -/
def State.regionHit (s : State) (a n : Nat) : Bool := s.foreign 16 a n
/-- Cards of any context whose storage a range touches. -/
def State.cardIn (s : State) (a n : Nat) : Bool :=
  s.ctxs.any (fun c => c.2.cards.any (fun h =>
    (h.2.place == .hbm && overlap a n h.2.base (max 1 h.2.capacity))
      || (h.2.kind == .key && (h.2.extents.zip h.2.pages).any (fun e => overlap a n e.1 (e.2 * 65536)))))
/-- SECRET_REGION_OPEN (R165, R405). -/
def cmdSecretRegionOpen (m : Mbx) (base len : Nat) (s : State) : State :=
  s.runCmd m { op := 0x0203 } fun _ c s =>
    let x := s.ctx c
    if base % 65536 ≠ 0 ∨ len % 65536 ≠ 0 ∨ len = 0 ∨ 2 ^ 40 ≤ base ∨ s.grade.stackBytes < base % 2 ^ 36 + len
        ∨ s.regionHit base len ∨ s.cardIn base len then refuse s .badParameter
    else if !(s.stk (dpaStack base)).ready then refuse s .notReady
    else if 64 ≤ x.regions.length then refuse s .resourceExhausted
    else .done .ok [] (s.setCtx c { x with regions := x.regions ++ [{ base := base, len := len }] })
def execSecretRegionOpen (m : Mbx) (base len : Nat) (s : State) : Res := act s (cmdSecretRegionOpen m base len)
/-- SECRET_REGION_CLOSE (R165): the region's zero-fill starts. -/
def cmdSecretRegionClose (m : Mbx) (base : Nat) (s : State) : State :=
  s.runCmd m { op := 0x0204 } fun o c s =>
    let x := s.ctx c
    match x.regions.find? (fun r => r.base == base) with
    | none => refuse s .badParameter
    | some r =>
      if s.cardIn r.base r.len then refuse s .busy
      else .later (s.setCtx c { x with regions := x.regions.erase r, filling := x.filling ++ [(r, some o)] })
def execSecretRegionClose (m : Mbx) (base : Nat) (s : State) : Res := act s (cmdSecretRegionClose m base)
/-- SECRET_REGION_ZERO_FILL_DONE (R165, R171): a region's memory is zero and may be assigned again. -/
def execSecretRegionZeroFillDone (base : Nat) (s : State) : Res :=
  act s fun s =>
    match s.fills.find? (fun r => r.base == base) with
    | some r => ({ s with fills := s.fills.erase r }).zeroFill r.base r.len
    | none =>
      match s.ctxs.findSome? (fun c => (c.2.filling.find? (fun f => f.1.base == base)).map (fun f => (c.1, f))) with
      | some (c, f) =>
        let s1 := (s.setCtx c { s.ctx c with filling := (s.ctx c).filling.erase f }).zeroFill f.1.base f.1.len
        match f.2 with
        | some o => s1.complete o .ok []
        | none => s1
      | none => s

/-! The wipe (Table 6.6) -/

/-- Channels of a context are closed, their stop commands aborted (Table 15.15). -/
def State.closeChannels (s : State) (c : Nat) : State :=
  (List.range 4).foldl (fun s w =>
    let mine := (s.wing w).chans.filter (fun h => h.2.ctx == c)
    mine.foldl (fun s h =>
      let owed := ((s.chan w h.1).map (fun z => z.stopOwed)).getD h.2.stopOwed
      let s1 := owed.foldl (fun s o => s.complete o .aborted []) (s.dropAccess (chanWho c w h.1))
      s1.setWing w { s1.wing w with chans := (s1.wing w).chans.del h.1 }) s) s
/-- Begun long commands of a context end with ABORTED (Table 15.15): watches, zero-fills, quotes and big-number jobs. -/
def State.abortOwed (s : State) (c : Nat) : State :=
  let s1 := ((s.ctx c).watches).foldl (fun s w => s.endWatch c w .aborted []) s
  let x := s1.ctx c
  let s2 := (x.filling.filterMap (fun f => f.2)).foldl (fun s o => s.complete o .aborted [])
    (s1.setCtx c { x with filling := x.filling.map (fun f => (f.1, none)) })
  let qs := s2.hex.quotes.filter (fun q => q.ctx == some c)
  let s3 := qs.foldl (fun s q => s.complete q.owed .aborted [])
    { s2 with hex := { s2.hex with quotes := s2.hex.quotes.filter (fun q => q.ctx != some c) } }
  let js := (s3.hex.job.toList ++ s3.hex.jobs).filter (fun j => j.ctx == c)
  let s4 : State := { s3 with hex := { s3.hex with jobs := s3.hex.jobs.filter (fun j => j.ctx != c) } }
  let s5 := if s4.hex.job.any (fun j => j.ctx == c) then s4.nextJob else s4
  js.foldl (fun s j => s.complete j.owed .aborted []) s5
/-- Step 1: intake stops, everything in flight is aborted, windows close, buckets are free (Table 14.6). -/
def State.startWipe (s : State) (c : Nat) (owed : Option Owed) : State :=
  let s1 := s.setCtx c { s.ctx c with wiping := true, wipeOwed := owed }
  let s2 := ((s1.ctx c).streams.map (fun t => t.1)).foldl (fun s n => s.abortStream c n true) s1
  let s3 := (s2.closeChannels c).abortOwed c
  let s4 := (List.range 8).foldl (fun s p =>
    ((s.port p).windows.filter (fun w => w.2.ctx == c)).foldl (fun s w => s.closeWindow p w.1) s) s3
  { s4 with buckets := s4.buckets.filter (fun b => b.2.ctx != c), tagWaits := s4.tagWaits.filter (fun w => w.2.1 != c) }
/-- CONTEXT_DESTROY (R171, R368). -/
def cmdContextDestroy (m : Mbx) (s : State) : State :=
  s.runCmd m { op := 0x0002, tenant := false } fun o c s => .later (s.startWipe c (some o))
def execContextDestroy (m : Mbx) (s : State) : Res := act s (cmdContextDestroy m)
/-- VF_FLR (R171, R368, R407): the VF's mailbox returns to reset, and its context is wiped. -/
def execVfFlr (vf : Nat) (s : State) : Res :=
  act s fun s =>
    if !s.hostUp ∨ vf = 0 ∨ 16 < vf then s else
    let s1 := s.setMb vf (s.mb vf).afterReset
    match s1.ctxs.find? (fun c => c.2.vf == some vf) with
    | some (c, x) => if x.wiping then s1 else s1.startWipe c none
    | none => s1

/-- Steps 2 and 3: the bays that work for the context change context; its bound partitions are zeroed and set empty (R65, R68, R70). -/
def State.wipeBays (s : State) (c : Nat) : State :=
  (List.range 88).foldl (fun s i =>
    let b := s.bay i
    let s1 := if b.ctx = some c then
        let t := (s.releaseWorking i).clearBay i
        t.setBay i { t.bay i with ctx := none } else s
    if bits b.entry.toNat 16 4 = c ∧ b.entry.getLsbD 20 then s1.zeroSlots i (fun k => slotOwner b.entry k == some c) else s1) s
/-- CONTEXT_WIPE_DONE (R171): steps 2 to 6 are done; the regions' bytes can no longer be decrypted (R166, step 4: DEDUCED, log entry 80), and
go on being zero-filled (step 7). After a function-level reset
the context stands fresh on its VF. -/
def execContextWipeDone (c : Nat) (s : State) : Res :=
  act s fun s =>
    match s.ctxs.get c with
    | none => s
    | some x =>
      if !x.wiping then s else
      let gone := x.regions ++ x.filling.map (fun f => f.1)
      let s1 := gone.foldl (fun s r => s.scramble r.base r.len) (s.wipeBays c)
      let s2 : State := { s1 with
        fills := s1.fills ++ gone
        wings := s1.wings.map (fun w => (w.1, { w.2 with queues := w.2.queues.del c, passes := w.2.passes.filter (fun q => q.2.key.1 != c) })) }
      match x.wipeOwed with
      | some o => ({ s2 with ctxs := s2.ctxs.del c }).complete o .ok []
      | none => { s2 with draw := s2.draw + 5, ctxs := s2.ctxs.put c (s2.freshCtx x.vf) }

end Sys2Proof.Machine
end

