-- ==== Sys2Proof/Machine/Submit.lean ====
section
/-! DEFINITION. The submission ring: an entry is fetched, read by Table 15.9, and its command begun (R355, R358, R359, R362, R367). -/

namespace Sys2Proof.Machine

/-- An operand field: its offset in the entry, and its size (Table 15.12). -/
abbrev OpField := Nat × Nat

/-- A row of Table 15.12: the fields of its operands, and the command with their values. -/
structure SubmitRow where
  fields : List OpField
  run : Mbx → List Nat → State → State

/-- An operand by its position among the row's fields. -/
def arg (v : List Nat) (i : Nat) : Nat := v.getD i 0
/-- A 64-bit operand. -/
def argW (v : List Nat) (i : Nat) : W64 := BitVec.ofNat 64 (arg v i)

/-- Context, module, firmware and record commands of Table 15.12. -/
def submitRowLow (op : Nat) : Option SubmitRow :=
  match op with
  | 0x0001 => some ⟨[(24, 1)], fun m v => cmdContextCreate m (arg v 0)⟩
  | 0x0002 => some ⟨[], fun m _ => cmdContextDestroy m⟩
  | 0x0003 => some ⟨[(24, 1), (32, 8)], fun m v => cmdContextOption m (arg v 0) (arg v 1)⟩
  | 0x0004 => some ⟨[(24, 2)], fun m v => cmdSetPowerLimit m (arg v 0)⟩
  | 0x0005 => some ⟨[(24, 1), (25, 1), (26, 1)], fun m v => cmdSelfTest m (arg v 0) (arg v 1) (arg v 2 == 1)⟩
  | 0x0006 => some ⟨[], fun m _ => cmdModuleReset m⟩
  | 0x0007 => some ⟨[(24, 1), (32, 8), (40, 8)], fun m v => cmdTraceConfig m (arg v 0) (arg v 1) (arg v 2)⟩
  | 0x0101 => some ⟨[(24, 1)], fun m v => cmdFwStage m (arg v 0)⟩
  | 0x0102 => some ⟨[(24, 1)], fun m v => cmdFwActivate m (arg v 0)⟩
  | 0x0103 => some ⟨[(24, 1), (28, 4)], fun m v => cmdLedgerRead m (arg v 0) (arg v 1)⟩
  | 0x0104 => some ⟨[], fun m _ => cmdQuote m⟩
  | 0x0105 => some ⟨[], fun m _ => cmdSessionOpen m⟩
  | 0x0106 => some ⟨[(24, 2)], fun m v => cmdCardBindSession m (arg v 0)⟩
  | 0x0107 => some ⟨[], fun m _ => cmdManifestLoad m⟩
  | 0x0201 => some ⟨[], fun m _ => cmdParamsetLoad m⟩
  | 0x0202 => some ⟨[], fun m _ => cmdRefreshPlanLoad m⟩
  | 0x0203 => some ⟨[(24, 8), (32, 8)], fun m v => cmdSecretRegionOpen m (arg v 0) (arg v 1)⟩
  | 0x0204 => some ⟨[(24, 8)], fun m v => cmdSecretRegionClose m (arg v 0)⟩
  | 0x0205 => some ⟨[], fun m _ => cmdPlacementLoad m⟩
  | 0x0206 => some ⟨[], fun m _ => cmdPlacementRead m⟩
  | _ => none
/-- Card, stream, sync, DMA, weed and Golat commands of Table 15.12. -/
def submitRowHigh (op : Nat) : Option SubmitRow :=
  match op with
  | 0x0301 => some ⟨[(24, 2)], fun m v => cmdCardWrite m (arg v 0)⟩
  | 0x0302 => some ⟨[(24, 2), (32, 8), (40, 8)], fun m v => cmdCardBind m (arg v 0) (arg v 1) (arg v 2)⟩
  | 0x0303 => some ⟨[(24, 2), (32, 8), (40, 8)], fun m v => cmdCardExport m (arg v 0) (arg v 1) (arg v 2)⟩
  | 0x0304 => some ⟨[(24, 2)], fun m v => cmdCardUnbind m (arg v 0)⟩
  | 0x0305 => some ⟨[(24, 2)], fun m v => cmdCardRead m (arg v 0)⟩
  | 0x0401 => some ⟨[(24, 1), (32, 8), (40, 4)], fun m v => cmdStreamStart m (arg v 0) (arg v 1) (arg v 2)⟩
  | 0x0402 => some ⟨[(24, 1), (32, 8)], fun m v => cmdStreamExtend m (arg v 0) (arg v 1)⟩
  | 0x0403 => some ⟨[(24, 1)], fun m v => cmdStreamAbort m (arg v 0)⟩
  | 0x0501 => some ⟨[(24, 2), (26, 2), (28, 1), (30, 2), (32, 8), (40, 2)], fun m v =>
      cmdSyncMap m (arg v 0) (arg v 1) (arg v 2) (arg v 3) (argW v 4) (arg v 5)⟩
  | 0x0502 => some ⟨[(24, 2), (26, 2)], fun m v => cmdSyncUnmap m (arg v 0) (arg v 1)⟩
  | 0x0503 => some ⟨[(24, 2)], fun m v => cmdSyncRead m (arg v 0)⟩
  | 0x0504 => some ⟨[(24, 2), (26, 1), (32, 8)], fun m v => cmdSyncUpdate m (arg v 0) (arg v 1) (argW v 2)⟩
  | 0x0505 => some ⟨[(24, 2), (26, 1), (32, 8), (40, 8)], fun m v => cmdSyncWatch m (arg v 0) (arg v 1) (argW v 2) (arg v 3)⟩
  | 0x0506 => some ⟨[(24, 2)], fun m v => cmdSyncWatchCancel m (arg v 0)⟩
  | 0x0507 => some ⟨[(24, 2), (32, 8)], fun m v => cmdBarrierReset m (arg v 0) (argW v 1)⟩
  | 0x0601 => some ⟨[(24, 1), (25, 1), (26, 1), (27, 1), (28, 1), (29, 1), (32, 8)], fun m v =>
      cmdDmaChannelOpen m (arg v 0) (arg v 1) (arg v 2) (arg v 3) (arg v 4) (arg v 5) (arg v 6)⟩
  | 0x0602 => some ⟨[(24, 1), (25, 1)], fun m v => cmdDmaChannelClose m (arg v 0) (arg v 1)⟩
  | 0x0603 => some ⟨[(24, 1), (25, 1)], fun m v => cmdDmaChannelStop m (arg v 0) (arg v 1)⟩
  | 0x0701 => some ⟨[(24, 8), (32, 1)], fun m v => cmdPageWeed State.servePage m (arg v 0) (arg v 1)⟩
  | 0x0702 => some ⟨[(24, 1), (28, 4)], fun m v => cmdWeedListRead m (arg v 0) (arg v 1)⟩
  | 0x0801 => some ⟨[(24, 1), (25, 1), (26, 1), (27, 1), (28, 4), (32, 4)], fun m v =>
      cmdGolatPortConfig m (arg v 0) (arg v 1) (arg v 2) (arg v 3) (arg v 4) (arg v 5)⟩
  | 0x0802 => some ⟨[(24, 1), (25, 1), (26, 1), (28, 4), (32, 8), (40, 8), (48, 2), (50, 2)], fun m v =>
      cmdLoanOpen m (arg v 0) (arg v 1) (arg v 2) (arg v 3) (arg v 4) (arg v 5) (arg v 6) (arg v 7)⟩
  | 0x0803 => some ⟨[(24, 1), (25, 1)], fun m v => cmdLoanClose m (arg v 0) (arg v 1)⟩
  | _ => none
/-- The rows of Table 15.12 (R367). -/
def submitRow (op : Nat) : Option SubmitRow :=
  match submitRowLow op with
  | some r => some r
  | none => submitRowHigh op

/-- Reserved fields of an entry hold 0 (R10, Table 15.9): its fixed ones, and the operand bytes its command leaves unused. -/
def entryClean (e : List Byte) (op : Nat) (fields : List OpField) : Bool :=
  decide (fld e 2 2 ≤ 1) && zeroAt e 7 1 && zeroAt e 20 4 && zeroAt e 56 7 && fld e 63 1 % 128 == 0
    && (List.range 32).all (fun i => fields.any (fun f => decide (f.1 ≤ 24 + i ∧ 24 + i < f.1 + f.2)) || zeroAt e (24 + i) 1)
    && (op != 0x0005 || decide (fld e 26 1 ≤ 1))

/-- The submission ring moves past an entry (R359). -/
def State.popSubmission (s : State) (n : Nat) : State :=
  let m := s.mb n
  let h := (m.sqHead + 1) % m.sqDepth
  s.setMb n { m with sqHead := h, sqPhase := if h = 0 then !m.sqPhase else m.sqPhase }

/-- A new entry's command is begun; an unknown opcode is BAD_COMMAND (R365). A nonzero reserved field is judged with the buffer, after
authority, context and readiness: DESIGN CHOICE, log entry 81, since R365 gives these checks no order among each other. -/
def State.beginEntry (s : State) (p : MPort) (e data : List Byte) (fault : BufFault) : State :=
  let op := fld e 0 2
  let m : Mbx := { port := p, context := fld e 6 1, tag := fld e 4 2
                   buf := { dev := fld e 2 1 % 2 == 1, addr := fld e 8 8, len := fld e 16 4, data := data, fault := fault } }
  let n := portIx p
  match submitRow op with
  | none =>
    (s.setMb n { s.mb n with owed := (s.mb n).owed + 1 }).complete
      { port := p, epoch := (s.mb n).epoch, tag := m.tag, op := op, ctx := 255 } .badCommand []
  | some r =>
    let m1 : Mbx := if entryClean e op r.fields then m else { m with buf := { m.buf with addr := 1 } }
    r.run m1 (r.fields.map (fun f => fld e f.1 f.2)) s

/-- SUBMISSION_FETCH (R355, R359, R362): the entry at the head is read; `entry` is what the host's ring holds there, empty for a
ring access that ends with an error, and `data` what the payload buffer delivers. An entry of the wrong phase is not new. -/
def execSubmissionFetch (p : MPort) (entry data : List Byte) (fault : BufFault) (s : State) : Res :=
  act s fun s =>
    let n := portIx p
    let m := s.mb n
    if !s.mbxFetches n ∨ s.hex.moving.contains 0 ∨ m.sqHead % m.sqDepth = m.sqTail % m.sqDepth then s
    else if entry.isEmpty then s.setMb n { m with error := true, errCode := Status.addressFault.code }
    else
      let e := fit 64 entry
      if (fld e 63 1 / 128 == 1) != m.sqPhase then s
      else (s.popSubmission n).beginEntry p e data fault

end Sys2Proof.Machine
end

