-- ==== Sys2Proof/Machine/Dispatch.lean ====
section
/-! DEFINITION. The dispatch: each command's meaning, one arm per row of the operation table. -/

namespace Sys2Proof.Machine

def exec (i : Instr) (s : State) : Host.Outcome State Fault Refusal :=
  match i with
  | .contextCreate m vf => Sys2Proof.Machine.execContextCreate m vf s
  | .contextDestroy m => Sys2Proof.Machine.execContextDestroy m s
  | .secretRegionZeroFillDone base => Sys2Proof.Machine.execSecretRegionZeroFillDone base s
  | .vfFlr vf => Sys2Proof.Machine.execVfFlr vf s
  | .contextOption m option value => Sys2Proof.Machine.execContextOption m option value s
  | .setPowerLimit m watts => Sys2Proof.Machine.execSetPowerLimit m watts s
  | .selfTest m cls idx quiesce => Sys2Proof.Machine.execSelfTest m cls idx quiesce s
  | .selfTestDrainDone cls idx drained => Sys2Proof.Machine.execSelfTestDrainDone cls idx drained s
  | .selfTestDone cls idx r => Sys2Proof.Machine.execSelfTestDone cls idx r s
  | .moduleReset m => Sys2Proof.Machine.execModuleReset m s
  | .traceConfig m mask ring len => Sys2Proof.Machine.execTraceConfig m mask ring len s
  | .fwStage m slot => Sys2Proof.Machine.execFwStage m slot s
  | .fwActivate m slot => Sys2Proof.Machine.execFwActivate m slot s
  | .hexsetRestartDone => Sys2Proof.Machine.execHexsetRestartDone s
  | .ledgerRead m cls first => Sys2Proof.Machine.execLedgerRead m cls first s
  | .quote m => Sys2Proof.Machine.execQuote m s
  | .sessionOpen m => Sys2Proof.Machine.execSessionOpen m s
  | .bignumJobEnd => Sys2Proof.Machine.execBignumJobEnd s
  | .cardBindSession m handle => Sys2Proof.Machine.execCardBindSession m handle s
  | .manifestLoad m => Sys2Proof.Machine.execManifestLoad m s
  | .paramsetLoad m => Sys2Proof.Machine.execParamsetLoad m s
  | .refreshPlanLoad m => Sys2Proof.Machine.execRefreshPlanLoad m s
  | .secretRegionOpen m base len => Sys2Proof.Machine.execSecretRegionOpen m base len s
  | .secretRegionClose m base => Sys2Proof.Machine.execSecretRegionClose m base s
  | .placementLoad m => Sys2Proof.Machine.execPlacementLoad m s
  | .bayPartitionApply bay => Sys2Proof.Machine.execBayPartitionApply bay s
  | .placementRead m => Sys2Proof.Machine.execPlacementRead m s
  | .cardWrite m handle => Sys2Proof.Machine.execCardWrite m handle s
  | .cardBind m handle image len => Sys2Proof.Machine.execCardBind m handle image len s
  | .cardExport m handle dst cap => Sys2Proof.Machine.execCardExport m handle dst cap s
  | .cardUnbind m handle => Sys2Proof.Machine.execCardUnbind m handle s
  | .cardRead m handle => Sys2Proof.Machine.execCardRead m handle s
  | .streamStart m wing folio seq => Sys2Proof.Machine.execStreamStart m wing folio seq s
  | .streamExtend m stream folio => Sys2Proof.Machine.execStreamExtend m stream folio s
  | .streamAbort m stream => Sys2Proof.Machine.execStreamAbort m stream s
  | .syncMap m first count kind home init expected => Sys2Proof.Machine.execSyncMap m first count kind home init expected s
  | .syncUnmap m first count => Sys2Proof.Machine.execSyncUnmap m first count s
  | .syncRead m id => Sys2Proof.Machine.execSyncRead m id s
  | .syncUpdate m id op value => Sys2Proof.Machine.execSyncUpdate m id op value s
  | .syncWatch m id cond value deadline => Sys2Proof.Machine.execSyncWatch m id cond value deadline s
  | .syncWatchDeadline c tag => Sys2Proof.Machine.execSyncWatchDeadline c tag s
  | .syncWatchCancel m tag => Sys2Proof.Machine.execSyncWatchCancel m tag s
  | .barrierReset m id gen => Sys2Proof.Machine.execBarrierReset m id gen s
  | .dmaChannelOpen m wing kind stop vector port window status => Sys2Proof.Machine.execDmaChannelOpen m wing kind stop vector port window status s
  | .dmaChannelClose m wing ch => Sys2Proof.Machine.execDmaChannelClose m wing ch s
  | .dmaChannelStop m wing ch => Sys2Proof.Machine.execDmaChannelStop m wing ch s
  | .dmaStopTakesEffect wing ch => Sys2Proof.Machine.execDmaStopTakesEffect wing ch s
  | .dmaStopForced wing ch => Sys2Proof.Machine.execDmaStopForced wing ch s
  | .pageWeed m page reason => Sys2Proof.Machine.execPageWeed m page reason s
  | .weedListRead m stack first => Sys2Proof.Machine.execWeedListRead m stack first s
  | .golatPortConfig m port role timeMode fwd localParty expected => Sys2Proof.Machine.execGolatPortConfig m port role timeMode fwd localParty expected s
  | .loanOpen m port rights mode party base len sigFirst sigCount => Sys2Proof.Machine.execLoanOpen m port rights mode party base len sigFirst sigCount s
  | .loanClose m port window => Sys2Proof.Machine.execLoanClose m port window s
  | .mbxSqTail p v => Sys2Proof.Machine.execMbxSqTail p v s
  | .submissionFetch p entry data fault => Sys2Proof.Machine.execSubmissionFetch p entry data fault s
  | .mbxPhaseTimeout p => Sys2Proof.Machine.execMbxPhaseTimeout p s
  | .mbxEnable p v => Sys2Proof.Machine.execMbxEnable p v s
  | .mbxCqHead p v => Sys2Proof.Machine.execMbxCqHead p v s
  | .evtHead v => Sys2Proof.Machine.execEvtHead v s
  | .evtRingCtrl v => Sys2Proof.Machine.execEvtRingCtrl v s
  | .rcRegisterRead off => Sys2Proof.Machine.execRcRegisterRead off s
  | .lowHalfRead p off => Sys2Proof.Machine.execLowHalfRead p off s
  | .badWidthAccess p write => Sys2Proof.Machine.execBadWidthAccess p write s
  | .irqCause v => Sys2Proof.Machine.execIrqCause v s
  | .ckoCtrl v => Sys2Proof.Machine.execCkoCtrl v s
  | .stpTrigger v => Sys2Proof.Machine.execStpTrigger v s
  | .stpBufferWrite len v => Sys2Proof.Machine.execStpBufferWrite len v s
  | .registerWrite p off v => Sys2Proof.Machine.execRegisterWrite p off v s
  | .stagingRead off len => Sys2Proof.Machine.execStagingRead off len s
  | .stagingWrite off data => Sys2Proof.Machine.execStagingWrite off data s
  | .d3hotEntry p => Sys2Proof.Machine.execD3hotEntry p s
  | .streamDecode c n => Sys2Proof.Machine.execStreamDecode c n s
  | .waitSatisfied c n => Sys2Proof.Machine.execWaitSatisfied c n s
  | .folioFetch c n chk => Sys2Proof.Machine.execFolioFetch c n chk s
  | .commandCompletion c n k => Sys2Proof.Machine.execCommandCompletion c n k s
  | .cntSet c n cmd => Sys2Proof.Machine.execCntSet c n cmd s
  | .cntAdd c n cmd => Sys2Proof.Machine.execCntAdd c n cmd s
  | .cmpSet c n cmd => Sys2Proof.Machine.execCmpSet c n cmd s
  | .loopBegin c n cmd => Sys2Proof.Machine.execLoopBegin c n cmd s
  | .loopEnd c n cmd => Sys2Proof.Machine.execLoopEnd c n cmd s
  | .syncWait c n cmd => Sys2Proof.Machine.execSyncWait c n cmd s
  | .syncSignalAdd c n cmd => Sys2Proof.Machine.execSyncSignalAdd c n cmd s
  | .syncSignalSet c n cmd => Sys2Proof.Machine.execSyncSignalSet c n cmd s
  | .barArrive c n k => Sys2Proof.Machine.execBarArrive c n k s
  | .barrierArrival c n k => Sys2Proof.Machine.execBarrierArrival c n k s
  | .counterUpdate c id set value => Sys2Proof.Machine.execCounterUpdate c id set value s
  | .heAdd c n k => Sys2Proof.Machine.execHeAdd c n k s
  | .heSub c n k => Sys2Proof.Machine.execHeSub c n k s
  | .heNeg c n k => Sys2Proof.Machine.execHeNeg c n k s
  | .heAddp c n k => Sys2Proof.Machine.execHeAddp c n k s
  | .heSubp c n k => Sys2Proof.Machine.execHeSubp c n k s
  | .heMulp c n k => Sys2Proof.Machine.execHeMulp c n k s
  | .heMul c n k => Sys2Proof.Machine.execHeMul c n k s
  | .heRelin c n k => Sys2Proof.Machine.execHeRelin c n k s
  | .heRot c n k => Sys2Proof.Machine.execHeRot c n k s
  | .heRoth c n k => Sys2Proof.Machine.execHeRoth c n k s
  | .heRescale c n k => Sys2Proof.Machine.execHeRescale c n k s
  | .heModdrop c n k => Sys2Proof.Machine.execHeModdrop c n k s
  | .heModraise c n k => Sys2Proof.Machine.execHeModraise c n k s
  | .heBconv c n k => Sys2Proof.Machine.execHeBconv c n k s
  | .heLin c n k => Sys2Proof.Machine.execHeLin c n k s
  | .heEncode c n k => Sys2Proof.Machine.execHeEncode c n k s
  | .heScaleConst c n k => Sys2Proof.Machine.execHeScaleConst c n k s
  | .heScaleDivide c n k => Sys2Proof.Machine.execHeScaleDivide c n k s
  | .heScaleAlign c n k => Sys2Proof.Machine.execHeScaleAlign c n k s
  | .heRefresh c n k => Sys2Proof.Machine.execHeRefresh c n k s
  | .refreshPrimitiveBoundary c n k => Sys2Proof.Machine.execRefreshPrimitiveBoundary c n k s
  | .luExtract c n k => Sys2Proof.Machine.execLuExtract c n k s
  | .luEval c n k => Sys2Proof.Machine.execLuEval c n k s
  | .luPack c n k => Sys2Proof.Machine.execLuPack c n k s
  | .shSplit c n k => Sys2Proof.Machine.execShSplit c n k s
  | .shMulPrepare c n k => Sys2Proof.Machine.execShMulPrepare c n k s
  | .shMulFinish c n k => Sys2Proof.Machine.execShMulFinish c n k s
  | .shTriple c n k => Sys2Proof.Machine.execShTriple c n k s
  | .shCmpOpen c n k => Sys2Proof.Machine.execShCmpOpen c n k s
  | .shCmpReveal c n k => Sys2Proof.Machine.execShCmpReveal c n k s
  | .shCmpFinish c n k => Sys2Proof.Machine.execShCmpFinish c n k s
  | .shJoinReshare c n k => Sys2Proof.Machine.execShJoinReshare c n k s
  | .shJoinAdd c n k => Sys2Proof.Machine.execShJoinAdd c n k s
  | .ntFwd c n k => Sys2Proof.Machine.execNtFwd c n k s
  | .ntInv c n k => Sys2Proof.Machine.execNtInv c n k s
  | .pxAuto c n k => Sys2Proof.Machine.execPxAuto c n k s
  | .vcRun c n k => Sys2Proof.Machine.execVcRun c n k s
  | .stLayoutCopy c n k => Sys2Proof.Machine.execStLayoutCopy c n k s
  | .stLayoutMul c n k => Sys2Proof.Machine.execStLayoutMul c n k s
  | .layCopyCopy c n k => Sys2Proof.Machine.execLayCopyCopy c n k s
  | .layCopyGather c n k => Sys2Proof.Machine.execLayCopyGather c n k s
  | .layCopyScatter c n k => Sys2Proof.Machine.execLayCopyScatter c n k s
  | .layCopyScatteradd c n k => Sys2Proof.Machine.execLayCopyScatteradd c n k s
  | .dmGo c n k => Sys2Proof.Machine.execDmGo c n k s
  | .descriptorFetch wing ch chk => Sys2Proof.Machine.execDescriptorFetch wing ch chk s
  | .dmaChainEnd wing ch => Sys2Proof.Machine.execDmaChainEnd wing ch s
  | .redAccumOpen c n k => Sys2Proof.Machine.execRedAccumOpen c n k s
  | .redAccumAdd c n k => Sys2Proof.Machine.execRedAccumAdd c n k s
  | .redAccumCollect c n k => Sys2Proof.Machine.execRedAccumCollect c n k s
  | .bucketZeroFillDone tag => Sys2Proof.Machine.execBucketZeroFillDone tag s
  | .bucketAdmissionClose tag => Sys2Proof.Machine.execBucketAdmissionClose tag s
  | .bucketDeadline tag => Sys2Proof.Machine.execBucketDeadline tag s
  | .bucketClosePass tag reread => Sys2Proof.Machine.execBucketClosePass tag reread s
  | .bucketTagHoldEnd tag => Sys2Proof.Machine.execBucketTagHoldEnd tag s
  | .slotAccessGrant slot => Sys2Proof.Machine.execSlotAccessGrant slot s
  | .slotAccessEnd slot req => Sys2Proof.Machine.execSlotAccessEnd slot req s
  | .pieceComplete bay core e c n k chk lane => Sys2Proof.Machine.execPieceComplete bay core e c n k chk lane s
  | .bayPull bay => Sys2Proof.Machine.execBayPull bay s
  | .weightUpdate wing => Sys2Proof.Machine.execWeightUpdate wing s
  | .gatherWindowExpire wing pass => Sys2Proof.Machine.execGatherWindowExpire wing pass s
  | .passHeaderCheck wing pass chk => Sys2Proof.Machine.execPassHeaderCheck wing pass chk s
  | .keyBlockRelease wing pass failedSymbols => Sys2Proof.Machine.execKeyBlockRelease wing pass failedSymbols s
  | .memoryRequest r stack pc failedSymbols => Sys2Proof.Machine.execMemoryRequest r stack pc failedSymbols s
  | .patrolScrub stack pc bank row block failedSymbols => Sys2Proof.Machine.execPatrolScrub stack pc bank row block failedSymbols s
  | .reshelveRow stack pc bank row => Sys2Proof.Machine.execReshelveRow stack pc bank row s
  | .reshelveLedgerRecord stack pc bank row => Sys2Proof.Machine.execReshelveLedgerRecord stack pc bank row s
  | .stackThermalReading stack t => Sys2Proof.Machine.execStackThermalReading stack t s
  | .stackDrainEnd stack => Sys2Proof.Machine.execStackDrainEnd stack s
  | .stackResume stack t => Sys2Proof.Machine.execStackResume stack t s
  | .retrainSlice stack pc ok => Sys2Proof.Machine.execRetrainSlice stack pc ok s
  | .stackTrainingDone stack ok hardRepairs => Sys2Proof.Machine.execStackTrainingDone stack ok hardRepairs s
  | .portTrainingAdvance p t => Sys2Proof.Machine.execPortTrainingAdvance p t s
  | .portTrainingTimeout p => Sys2Proof.Machine.execPortTrainingTimeout p s
  | .portFailedRetry p => Sys2Proof.Machine.execPortFailedRetry p s
  | .laneFail p lane => Sys2Proof.Machine.execLaneFail p lane s
  | .laneSwap p lane => Sys2Proof.Machine.execLaneSwap p lane s
  | .laneSwapAck p lane phys => Sys2Proof.Machine.execLaneSwapAck p lane phys s
  | .retry p seq => Sys2Proof.Machine.execRetry p seq s
  | .retryRepeat p => Sys2Proof.Machine.execRetryRepeat p s
  | .creditInit p posted request response => Sys2Proof.Machine.execCreditInit p posted request response s
  | .down p reason => Sys2Proof.Machine.execDown p reason s
  | .flitReceive p bytes => Sys2Proof.Machine.execFlitReceive p bytes s
  | .write p f => Sys2Proof.Machine.execWrite p f s
  | .mask p f => Sys2Proof.Machine.execMask p f s
  | .fetch p f => Sys2Proof.Machine.execFetch p f s
  | .rdata p f => Sys2Proof.Machine.execRdata p f s
  | .acch p f => Sys2Proof.Machine.execAcch p f s
  | .accum p f => Sys2Proof.Machine.execAccum p f s
  | .sig p f => Sys2Proof.Machine.execSig p f s
  | .tallyTimeout p window transfer => Sys2Proof.Machine.execTallyTimeout p window transfer s
  | .tnak p f => Sys2Proof.Machine.execTnak p f s
  | .refusedTransferDiscardEnd p window transfer => Sys2Proof.Machine.execRefusedTransferDiscardEnd p window transfer s
  | .stamp p f => Sys2Proof.Machine.execStamp p f s
  | .time p f => Sys2Proof.Machine.execTime p f s
  | .timeMeasurement p m => Sys2Proof.Machine.execTimeMeasurement p m s
  | .portLeavesActive p recover => Sys2Proof.Machine.execPortLeavesActive p recover s
  | .stampPeriod => Sys2Proof.Machine.execStampPeriod s
  | .stampApply => Sys2Proof.Machine.execStampApply s
  | .snapshotDone => Sys2Proof.Machine.execSnapshotDone s
  | .traceHeaderUpdate => Sys2Proof.Machine.execTraceHeaderUpdate s
  | .voltageLoopStep dom rate => Sys2Proof.Machine.execVoltageLoopStep dom rate s
  | .governorUpdate inputMw budget => Sys2Proof.Machine.execGovernorUpdate inputMw budget s
  | .currentLimitUpdate mvA mvB => Sys2Proof.Machine.execCurrentLimitUpdate mvA mvB s
  | .junctionReading dom t outlet => Sys2Proof.Machine.execJunctionReading dom t outlet s
  | .ageingMeasurement dom drifts => Sys2Proof.Machine.execAgeingMeasurement dom drifts s
  | .ageingDailyRecord dom => Sys2Proof.Machine.execAgeingDailyRecord dom s
  | .feedPresent feed mv => Sys2Proof.Machine.execFeedPresent feed mv s
  | .feedLost feed mv => Sys2Proof.Machine.execFeedLost feed mv s
  | .inrushTimeout feed => Sys2Proof.Machine.execInrushTimeout feed s
  | .perstNAssert => Sys2Proof.Machine.execPerstNAssert s
  | .perstNRelease => Sys2Proof.Machine.execPerstNRelease s
  | .oscillatorStable => Sys2Proof.Machine.execOscillatorStable s
  | .oscillatorDisciplined => Sys2Proof.Machine.execOscillatorDisciplined s
  | .hostLinkLockChange locked => Sys2Proof.Machine.execHostLinkLockChange locked s
  | .ledgerScanDone ok => Sys2Proof.Machine.execLedgerScanDone ok s
  | .baySelfTestDone bay good sequencer lu => Sys2Proof.Machine.execBaySelfTestDone bay good sequencer lu s
  | .bootRecordPoll => Sys2Proof.Machine.execBootRecordPoll s
  | .firmwareLoadDone => Sys2Proof.Machine.execFirmwareLoadDone s
  | .wingReady w => Sys2Proof.Machine.execWingReady w s
  | .controlCoreFailure hx => Sys2Proof.Machine.execControlCoreFailure hx s
  | .deskFailure dom => Sys2Proof.Machine.execDeskFailure dom s
  | .wingLost w cause => Sys2Proof.Machine.execWingLost w cause s
  | .syncPlaneFail plane path => Sys2Proof.Machine.execSyncPlaneFail plane path s
  | .entropyHealthFail => Sys2Proof.Machine.execEntropyHealthFail s
  | .entropyRestartTest pass => Sys2Proof.Machine.execEntropyRestartTest pass s
  | .drbgReseed c w => Sys2Proof.Machine.execDrbgReseed c w s
  | .telemetry => Sys2Proof.Machine.execTelemetry s
  | .health => Sys2Proof.Machine.execHealth s
  | .ledgerSummary => Sys2Proof.Machine.execLedgerSummary s
  | .wingPowerOff w confirm => Sys2Proof.Machine.execWingPowerOff w confirm s
  | .maintModuleReset confirm => Sys2Proof.Machine.execMaintModuleReset confirm s
  | .roleMigrationDone role => Sys2Proof.Machine.execRoleMigrationDone role s
  | .contextWipeDone c => Sys2Proof.Machine.execContextWipeDone c s
  | .powerGood => Sys2Proof.Machine.execPowerGood s
  | .inrushLimiterDone feed => Sys2Proof.Machine.execInrushLimiterDone feed s
  | .inrushRetry feed => Sys2Proof.Machine.execInrushRetry feed s
  | .entropyStartupTestDone pass => Sys2Proof.Machine.execEntropyStartupTestDone pass s
  | .wingFabricSelfTestDone w pass => Sys2Proof.Machine.execWingFabricSelfTestDone w pass s
  | .firmwareStarted => Sys2Proof.Machine.execFirmwareStarted s
  | .stagedImageChecked slot => Sys2Proof.Machine.execStagedImageChecked slot s
  | .quoteSigned => Sys2Proof.Machine.execQuoteSigned s
  | .laneMarker p lane bytes arrive => Sys2Proof.Machine.execLaneMarker p lane bytes arrive s
  | .timeReport p => Sys2Proof.Machine.execTimeReport p s
  | .d0Entry p => Sys2Proof.Machine.execD0Entry p s
  | .setdasa static dyn => Sys2Proof.Machine.execSetdasa static dyn s
  | .entdaa dyn => Sys2Proof.Machine.execEntdaa dyn s
  | .vioSbChange mv => Sys2Proof.Machine.execVioSbChange mv s

end Sys2Proof.Machine
end

