-- ==== Sys2Proof/Machine/Observe.lean ====
section
/-! DEFINITION. What a tick of TIME counts (R464 to R467), stall reasons (R465), and the control-core trace (R474 to R476). -/

namespace Sys2Proof.Machine

/-! Stall reasons (Table 21.1) -/

/-- The stacks that hold a command's cards. -/
def State.stacksOf (s : State) (c : Nat) (e : Entry) : List Nat :=
  (e.reads ++ e.writes).filterMap (fun h => (s.card c h).bind (fun x => if x.place == .hbm then some (dpaStack x.base) else none))
/-- A reorder queue of a stack is full (R281). -/
def State.queueFull (s : State) (k : Nat) : Bool := (s.stk k).queues.any (fun q => decide (32 ≤ q.2.length))
/-- A stalled request for a slot in one of some modes (R64). -/
def State.stalled (s : State) (who : Nat × Nat × Nat) (modes : List Nat) : Bool :=
  s.slots.any (fun p => p.2.waiting.any (fun r => r.who == who && modes.contains r.mode))
/-- A port holds flits for want of credits, or resends (R315, R316). -/
def Port.congested (x : Port) : Bool := x.retrying || x.queue.any (fun f => x.credits.getD (flitClass f.ftype) 0 == 0)
/-- Reason `r` of Table 21.1 holds for what an engine of a bay works on: an entry, with the slots of `who`. What no state shows, whether
this very access is paced, or waits for the fabric or for its consumer, is bit `r` of an open number. -/
def State.engineReason (s : State) (bay c : Nat) (e : Entry) (who : Nat × Nat × Nat) (open_ r : Nat) : Bool :=
  let ks := s.stacksOf c e
  let d := s.dom (bayDomain bay)
  match r with
  | 0 => d.paced && open_.testBit r
  | 1 => (d.hot == 3 || ks.any (fun k => decide (2 ≤ (s.stk k).step))) && open_.testBit r
  | 2 => !e.keys.isEmpty
  | 3 => ks.any s.queueFull && open_.testBit r
  | 5 => open_.testBit r
  | 6 => s.stalled who [2, 3]
  | 7 => s.stalled who [1]
  | 10 => open_.testBit r
  | _ => false
/-- When several reasons hold, the tick goes to the first of Table 21.1 (R465). -/
def firstReason (holds : Nat → Bool) : Option Nat := (List.range 11).find? holds
/-- An engine's tick (R464): 0 busy, 1 + r stalled. It is busy when its issue stage completes a handshake, which is open, and when no
reason holds it. -/
def engineTick (open_ : Nat) (holds : Nat → Bool) : Nat :=
  if open_.testBit 11 then 0 else match firstReason holds with | some r => 1 + r | none => 0
/-- What an engine works on: its piece, or, for DM, a core channel's chain (R230). -/
def State.engineWork (s : State) (i j : Nat) : Option (Nat × Entry × (Nat × Nat × Nat)) :=
  match ((s.core i).eng j).now with
  | some p => (s.entry p.ctx p.stream p.entry).map (fun e => (p.ctx, e, entryWho p.ctx p.stream p.entry))
  | none =>
    if j = 4 then
      (s.wing (i / 352)).chans.findSome? (fun h => h.2.chain.bind (fun x =>
        if x.core = some i then (s.entry h.2.ctx x.stream x.entry).map (fun e => (h.2.ctx, e, chanWho h.2.ctx (i / 352) h.1)) else none))
    else none
/-- Reason `r` holds for a stream whose decoding is stopped (R194, R195, R242, R251, R274, R375). -/
def State.frontReason (s : State) (c : Nat) (x : Stream) (open_ r : Nat) : Bool :=
  match r with
  | 1 => x.window.any (fun p => p.2.phase == .queued) && (s.group x.wing c).all (fun b => (s.bay b).weight == 0) && !(s.group x.wing c).isEmpty
  | 3 => !x.loaded && s.queueFull (dpaStack x.folio)
  | 5 => !x.loaded && open_.testBit r
  | 8 => x.wait.any (fun w => !w.reported) || x.window.any (fun p => p.2.cmd.op == 0x600 && p.2.cmd.imm % 4 == 2 && p.2.phase == .issued)
  | 9 => s.hex.moving.contains (1 + x.wing) || x.window.any (fun p => p.2.phase == .waiting)
  | 10 => !s.windowRoom c x
  | _ => false
/-- A stream's decoding is stopped: at a wait, at a full window, for want of its folio, or while its wing's role moves. -/
def State.frontStopped (s : State) (c : Nat) (x : Stream) : Bool :=
  x.state == .running && (x.wait.any (fun w => !w.reported) || !s.windowRoom c x || !x.loaded || s.hex.moving.contains (1 + x.wing))

/-! The counters -/

/-- An open number of this tick for a unit. -/
def State.openBits (s : State) (unit : Nat) : Nat := Config.free s.draw (2 ^ 53 + unit)
/-- The time counters after one more tick (R464 to R467). An engine without work, on a disabled core or on a bay that is not `READY` counts
as idle: the ticks that are in no other state. -/
def State.countTick (s : State) : Tbl Nat :=
  let t0 := countTicks s.ticks moduleUnit 0 1
  let t1 := (List.range 88).foldl (fun t i => countTicks t (bayUnit i) 0 (popcount 16 (s.bay i).cores)) t0
  let cores := addBlocks [] (s.cores.map (fun x => x.1)
    ++ s.wings.flatMap (fun w => w.2.chans.filterMap (fun h => h.2.chain.bind (fun x => x.core))))
  let t2 := cores.foldl (fun t i => (List.range 7).foldl (fun t j =>
    match s.engineWork i j with
    | some (c, e, who) =>
      if s.bayUp (i / 16) then
        let o := s.openBits (engineUnit i j)
        countTicks t (engineUnit (if j = 6 then i / 16 * 16 else i) j) (engineTick o (s.engineReason (i / 16) c e who o)) 1
      else t
    | none => t) t) t1
  let t3 := s.ctxs.foldl (fun t c => c.2.streams.foldl (fun t x =>
    let u := countTicks t (windowUnit x.2.wing) 0 (x.2.window.countP (fun p => p.2.phase != .done))
    if s.frontStopped c.1 x.2 then
      match firstReason (s.frontReason c.1 x.2 (s.openBits (frontUnit (c.1 * 64 + x.1)))) with
      | some r => countTicks u (frontUnit x.2.wing) r 1
      | none => u
    else u) t) t2
  let t4 := s.stks.foldl (fun t k => countTicks (countTicks t (stackUnit k.1) k.2.step 1) (stackUnit k.1) 6 (if s.queueFull k.1 then 1 else 0)) t3
  s.ports.foldl (fun t p => (List.range 3).foldl (fun t cl =>
    countTicks t (portUnit p.1) cl (if p.2.st == .active && p.2.credits.getD cl 0 == 0 && p.2.queue.any (fun f => flitClass f.ftype == cl)
      then 1 else 0)) t) t4

/-! The trace (R474 to R476) -/

/-- A control core executes in a sealed section: HX0 while a keeper service runs (R476). -/
def State.sealed (s : State) (hx : Nat) : Bool := hx == 0 && (s.hex.job.isSome || !s.hex.quotes.isEmpty)
/-- Packets that may be written now: 16.384 GB/s over any 10 µs are 5,120 of 32 bytes (R475). -/
def State.traceRoom (s : State) (n : Nat) : Bool :=
  decide (s.stamps.trTimes.length + n ≤ 5120) && (s.reach s.stamps.trBase s.stamps.trLen).isNone
/-- A packet is written at `wptr`, which wraps to 0x40 (R474). -/
def State.tracePut (s : State) (b : List Byte) : State :=
  let t := s.stamps
  let s1 := s.write (t.trBase + t.trPtr) (fit 32 b)
  let n := t.trPtr + 32
  { s1 with stamps := { t with
    trPtr := if n + 32 ≤ t.trLen then n else 0x40, trWraps := if n + 32 ≤ t.trLen then t.trWraps else t.trWraps + 1
    trTimes := t.trTimes ++ [s.time.now] } }
/-- Packets of a control core (Table 21.6); what it executed is open. -/
def State.syncPacket (s : State) (hx : Nat) : List Byte :=
  [1, b8 hx] ++ zeros 6 ++ leBytes 8 s.time.now ++ leBytes 8 (Config.free s.draw (2 ^ 47 + 16 * hx) % 2 ^ 64)
    ++ [b8 (Config.free s.draw (2 ^ 47 + 16 * hx + 1) % 4)] ++ zeros 7
def gapPacket (hx : Nat) (g : TraceGap) (now : Nat) : List Byte :=
  [5, b8 hx, b8 g.reason] ++ zeros 5 ++ leBytes 8 g.start ++ leBytes 8 now ++ leBytes 4 g.lost ++ zeros 4
def State.branchCount (s : State) (hx : Nat) : Nat := 1 + Config.free s.draw (2 ^ 47 + 16 * hx + 2) % 128
def State.eventPacket (s : State) (hx kind : Nat) : List Byte :=
  let v (i : Nat) : Nat := Config.free s.draw (2 ^ 47 + 16 * hx + 3 + i) % 2 ^ 64
  let head := match kind with | 2 => s.branchCount hx | 3 => 0 | _ => v 2 % 2 ^ 16
  [b8 kind, b8 hx] ++ leBytes 2 head ++ zeros 4 ++ leBytes 8 s.time.now ++ leBytes 8 (v 0) ++ leBytes 8 (v 1)
def State.setGap (s : State) (hx : Nat) (g : TraceGap) : State := { s with stamps := { s.stamps with trGaps := s.stamps.trGaps.put hx g } }
/-- One control core's tick of trace: which packet it has, BRANCH, INDIRECT, TRAP or none, is open. A packet that cannot be written is
dropped and counted, and the core owes a GAP and a SYNC (R475); a sealed section is one GAP (R476); a failed core emits its GAP only. -/
def State.traceCore (s : State) (hx : Nat) : State :=
  let t := s.stamps
  let kind := [0, 2, 3, 4].getD (Config.free s.draw (2 ^ 47 + 16 * hx + 9) % 4) 0
  let now := s.time.now
  let dead := s.hex.failed.contains hx
  if !t.trMask.testBit hx then s
  else if s.sealed hx then (if (t.trGaps.get hx).isSome then s else s.setGap hx ⟨now, 0, 1⟩)
  else match t.trGaps.get hx with
    | some g =>
      if s.traceRoom 2 then
        let s1 := if g.reason = 0 then s else s.tracePut (gapPacket hx g now)
        let s2 := if dead then s1 else s1.tracePut (s1.syncPacket hx)
        { s2 with stamps := { s2.stamps with trGaps := s2.stamps.trGaps.del hx, trBranches := s2.stamps.trBranches.put hx 0 } }
      else if kind = 0 ∨ dead then s
      else
        let s1 := s.setGap hx { g with lost := g.lost + 1 }
        { s1 with stamps := { s1.stamps with trDropped := t.trDropped + 1 } }
    | none =>
      if kind = 0 ∨ dead then s
      else if !s.traceRoom 2 then
        let s1 := s.setGap hx ⟨now, 1, 2⟩
        { s1 with stamps := { s1.stamps with trDropped := t.trDropped + 1 } }
      else
        let s1 := s.tracePut (s.eventPacket hx kind)
        let n := t.trBranches.getD hx 0 + (if kind = 2 then s.branchCount hx else 0)
        if 4096 ≤ n then
          let s2 := s1.tracePut (s1.syncPacket hx)
          { s2 with stamps := { s2.stamps with trBranches := s2.stamps.trBranches.put hx 0 } }
        else { s1 with stamps := { s1.stamps with trBranches := s1.stamps.trBranches.put hx n } }
/-- A tick of trace (R474, R475). -/
def State.traceTick (s : State) : State :=
  if s.stamps.trLen = 0 then s
  else (List.range 6).foldl State.traceCore { s with stamps := { s.stamps with
    trTimes := s.stamps.trTimes.filter (fun t => decide (s.time.now < t + 10000)) } }

end Sys2Proof.Machine
end

