-- ==== Sys2Proof/Machine/Step.lean ====
section
/-! DEFINITION. The step: the command at the front of the queue is executed; with none waiting, one tick of the timebase passes. -/

namespace Sys2Proof.Machine

/-- DESIGN CHOICE (log 2): with no command waiting one tick of TIM_NOW passes, while the timebase runs (R434, R438): the time counters
count it, and traced control cores emit their packets (R464, R475). -/
def State.idle (s : State) : State :=
  if s.time.running then
    let t := { s with time := { s.time with now := (s.time.now + 1) % 2 ^ 63 }, ticks := s.countTick, draw := s.draw + 1 }
    if s.stamps.trLen = 0 then t else s.commit ({ t with stores := [] } : State).traceTick
  else s

/-- One step (log 1): the first waiting command is taken off the queue and executed. -/
def step (s : State) : Host.Outcome State Fault Refusal :=
  match s.pending with
  | [] => .next s.idle
  | c :: rest => exec c { s with pending := rest }

/-- The state with a command put at the front of its queue. -/
def State.withCommand (s : State) (c : Instr) : State := { s with pending := c :: s.pending }

/-- The state with the command that a table word spells at the front of its queue; the table gives no row bits, so none is spelt. -/
def State.withFetchWord (s : State) (nbits w : Nat) : State :=
  match decodeTableWord nbits w with
  | some c => s.withCommand c
  | none => s

end Sys2Proof.Machine
end

