-- ==== Sys2Proof/Safety.lean ====
section
/-! DEFINITION. What every reachable state satisfies, in the terms the statements use. -/

namespace Sys2Proof.Machine

/-- Memory stands in its one canonical form and no store of a step is outstanding: what a state is between steps. -/
def State.Settled (s : State) : Prop := Memory.wf s.mem = true ∧ s.stores = []

/-- A command answers a next state. -/
def Answers (c : Instr) (s : State) : Prop := ∃ t, exec c s = .next t

end Sys2Proof.Machine
end

