-- ==== Sys2Proof/WellFormed.lean ====
section
/-! DEFINITION. Which commands are well formed: every operand lies in the range that the field or the unit it names gives it. The machine
gives a meaning to ill-formed commands too (most change nothing); a command that a host, a link or a sensor can send is well formed. -/

namespace Sys2Proof

/-- The owner port, or the tenant port of a VF 1 to 16 (R366). -/
def MPort.wf : MPort → Bool
  | .owner => true
  | .vf n => decide (1 ≤ n ∧ n ≤ 16)
/-- A payload buffer's fields are 64 and 32 bits wide (Table 15.9), and a host buffer delivers no more than its length. -/
def Buf.wf (b : Buf) : Bool := decide (b.addr < 2 ^ 64 ∧ b.len < 2 ^ 32 ∧ b.data.length ≤ b.len)
/-- The common fields of a submission entry: `context` 8 bits, `tag` 16 bits (Table 15.9). -/
def Mbx.wf (m : Mbx) : Bool := m.port.wf && decide (m.context < 256 ∧ m.tag < 65536) && m.buf.wf
/-- A field of a number of bits. -/
def inBits (w v : Nat) : Bool := decide (v < 2 ^ w)
/-- A stream command's fields (Tables 7.7, 7.8, 7.10). -/
def SCmd.wf (c : SCmd) : Bool :=
  inBits 12 c.op && inBits 4 c.predIdx && inBits 12 c.waitId && inBits 3 c.waitCond && inBits 12 c.sigId && inBits 32 c.delta
    && c.h.length == 4 && c.h.all (fun h => match h with | some v => inBits 16 v | none => true) && inBits 128 c.imm && inBits 32 c.tag
    && inBits 4 c.idxCnt && inBits 4 c.idxMask
/-- A flit's fields (Tables 13.5, 13.6): a type of four bits, a payload of 256 bytes, a sequence number of twelve bits. -/
def Flit.wf (f : Flit) : Bool :=
  inBits 4 f.ftype && inBits 8 f.window && inBits 16 f.transfer && inBits 32 f.index && decide (1 ≤ f.ndesc ∧ f.ndesc ≤ 16)
    && f.payload.length == 256 && inBits 12 f.seq
/-- A request of 1 to 256 bytes within a granule of HBM (R281). -/
def MemReq.wf (r : MemReq) : Bool :=
  inBits 40 r.addr && decide (1 ≤ r.len ∧ r.addr % 256 + r.len ≤ 256)
    && (match r.write with | some d => d.length == r.len | none => true)
/-- An entry of a stream's window: a context 0 to 15 (R368) and a stream 0 to 63 (R180). -/
def entryWf (c n : Nat) : Bool := decide (c < 16 ∧ n < 64)
/-- A row of a stack: stack, pseudo-channel, bank, row (R280). -/
def rowWf (stack pc bank row : Nat) : Bool := decide (stack < 16 ∧ pc < 64 ∧ bank < 16 ∧ row < 65536)
/-- A port 0 to 7. -/
def portWf (p : Nat) : Bool := decide (p < 8)
/-- A physical lane is one of 11 (R308). -/
def lanesWf (l : List Nat) : Bool := l.all (fun x => decide (x < 11))

/-- A command is well formed. -/
def Instr.wf : Instr → Bool
  | .contextCreate m vf => m.wf && inBits 8 vf
  | .contextOption m option value => m.wf && inBits 8 option && inBits 64 value
  | .setPowerLimit m watts => m.wf && inBits 16 watts
  | .selfTest m cls idx _ => m.wf && inBits 8 cls && inBits 8 idx
  | .traceConfig m cores ring len => m.wf && inBits 8 cores && inBits 64 ring && inBits 64 len
  | .ledgerRead m cls first | .weedListRead m cls first => m.wf && inBits 8 cls && inBits 32 first
  | .fwStage m slot | .fwActivate m slot => m.wf && inBits 8 slot
  | .contextDestroy m | .moduleReset m | .quote m | .sessionOpen m | .manifestLoad m | .paramsetLoad m | .refreshPlanLoad m
  | .placementLoad m | .placementRead m => m.wf
  | .cardBindSession m h | .cardWrite m h | .cardUnbind m h | .cardRead m h => m.wf && inBits 16 h
  | .cardBind m h a n | .cardExport m h a n => m.wf && inBits 16 h && inBits 64 a && inBits 64 n
  | .secretRegionOpen m base len => m.wf && inBits 64 base && inBits 64 len
  | .secretRegionClose m base => m.wf && inBits 64 base
  | .streamStart m wing folio seq => m.wf && inBits 8 wing && inBits 64 folio && inBits 32 seq
  | .streamExtend m stream folio => m.wf && inBits 8 stream && inBits 64 folio
  | .streamAbort m stream => m.wf && inBits 8 stream
  | .syncMap m first count kind home _ expected =>
    m.wf && inBits 16 first && inBits 16 count && inBits 8 kind && inBits 16 home && inBits 16 expected
  | .syncUnmap m first count => m.wf && inBits 16 first && inBits 16 count
  | .syncRead m id | .barrierReset m id _ => m.wf && inBits 16 id
  | .syncUpdate m id op _ => m.wf && inBits 16 id && inBits 8 op
  | .syncWatch m id cond _ deadline => m.wf && inBits 16 id && inBits 8 cond && inBits 64 deadline
  | .syncWatchCancel m tag => m.wf && inBits 16 tag
  | .dmaChannelOpen m wing kind stop vector port window status =>
    m.wf && inBits 8 wing && inBits 8 kind && inBits 8 stop && inBits 8 vector && inBits 8 port && inBits 8 window && inBits 64 status
  | .dmaChannelClose m wing ch | .dmaChannelStop m wing ch => m.wf && inBits 8 wing && inBits 8 ch
  | .pageWeed m page reason => m.wf && inBits 64 page && inBits 8 reason
  | .golatPortConfig m port role timeMode fwd localParty expected =>
    m.wf && inBits 8 port && inBits 8 role && inBits 8 timeMode && inBits 8 fwd && inBits 32 localParty && inBits 32 expected
  | .loanOpen m port rights mode party base len sigFirst sigCount =>
    m.wf && inBits 8 port && inBits 8 rights && inBits 8 mode && inBits 32 party && inBits 64 base && inBits 64 len && inBits 16 sigFirst
      && inBits 16 sigCount
  | .loanClose m port window => m.wf && inBits 8 port && inBits 8 window
  | .mbxSqTail p _ | .mbxPhaseTimeout p | .mbxEnable p _ | .mbxCqHead p _ | .badWidthAccess p _ | .d3hotEntry p | .d0Entry p => p.wf
  | .submissionFetch p entry _ _ => p.wf && (entry.isEmpty || entry.length == 64)
  | .lowHalfRead p off | .registerWrite p off _ => p.wf && inBits 24 off && off % 4 == 0
  | .rcRegisterRead off => inBits 24 off && off % 4 == 0
  | .evtHead _ | .evtRingCtrl _ | .irqCause _ | .ckoCtrl _ | .stpTrigger _ | .stpBufferWrite _ _ => true
  | .stagingRead off len => decide (off + len ≤ 2 ^ 28)
  | .stagingWrite off data => decide (off + data.length ≤ 2 ^ 28)
  | .vfFlr vf => decide (1 ≤ vf ∧ vf ≤ 16)
  | .streamDecode c n | .waitSatisfied c n | .folioFetch c n _ => entryWf c n
  | .cntSet c n cmd | .cntAdd c n cmd | .cmpSet c n cmd | .loopBegin c n cmd | .loopEnd c n cmd | .syncWait c n cmd | .syncSignalAdd c n cmd
  | .syncSignalSet c n cmd => entryWf c n && cmd.wf
  | .commandCompletion c n _ | .barArrive c n _ | .barrierArrival c n _ | .heAdd c n _ | .heSub c n _ | .heNeg c n _ | .heAddp c n _
  | .heSubp c n _ | .heMulp c n _ | .heMul c n _ | .heRelin c n _ | .heRot c n _ | .heRoth c n _ | .heRescale c n _ | .heModdrop c n _
  | .heModraise c n _ | .heBconv c n _ | .heLin c n _ | .heEncode c n _ | .heScaleConst c n _ | .heScaleDivide c n _ | .heScaleAlign c n _
  | .heRefresh c n _ | .refreshPrimitiveBoundary c n _ | .luExtract c n _ | .luEval c n _ | .luPack c n _ | .shSplit c n _
  | .shMulPrepare c n _ | .shMulFinish c n _ | .shTriple c n _ | .shCmpOpen c n _ | .shCmpReveal c n _ | .shCmpFinish c n _
  | .shJoinReshare c n _ | .shJoinAdd c n _ | .ntFwd c n _ | .ntInv c n _ | .pxAuto c n _ | .vcRun c n _ | .stLayoutCopy c n _
  | .stLayoutMul c n _ | .layCopyCopy c n _ | .layCopyGather c n _ | .layCopyScatter c n _ | .layCopyScatteradd c n _ | .dmGo c n _
  | .redAccumOpen c n _ | .redAccumAdd c n _ | .redAccumCollect c n _ => entryWf c n
  | .counterUpdate c id _ _ => decide (c < 16) && inBits 12 id
  | .syncWatchDeadline c tag => decide (c < 16) && inBits 16 tag
  | .contextWipeDone c => decide (c < 16)
  | .drbgReseed c w => decide (c < 16 ∧ w < 4)
  | .dmaStopTakesEffect wing ch | .dmaStopForced wing ch | .descriptorFetch wing ch _ | .dmaChainEnd wing ⟨ch, _⟩ => decide (wing < 4 ∧ ch < 256)
  | .bucketZeroFillDone tag | .bucketAdmissionClose tag | .bucketDeadline tag | .bucketClosePass tag _ | .bucketTagHoldEnd tag =>
    inBits 12 tag
  | .slotAccessGrant slot | .slotAccessEnd slot _ => decide (slot < 88 * 16 * 96)
  | .pieceComplete bay core _ c n _ _ lane => decide (bay < 88 ∧ core < 16) && entryWf c n && lane.all (fun l => decide (l < 128))
  | .bayPull bay | .bayPartitionApply bay | .baySelfTestDone bay _ _ _ => decide (bay < 88)
  | .weightUpdate wing | .gatherWindowExpire wing _ | .passHeaderCheck wing _ _ | .wingReady wing | .wingFabricSelfTestDone wing _
  | .wingLost wing _ => decide (wing < 4)
  | .keyBlockRelease wing _ failed => decide (wing < 4 ∧ failed ≤ 72)
  | .memoryRequest r stack pc failed => r.all MemReq.wf && decide (stack < 16 ∧ pc < 64 ∧ failed ≤ 72)
  | .patrolScrub stack pc bank row block failed => rowWf stack pc bank row && decide (block < 16 ∧ failed ≤ 72)
  | .reshelveRow stack pc bank x => rowWf stack pc bank x.row && x.reads.all (fun q => decide (q.1 < 16))
  | .reshelveLedgerRecord stack pc bank row => rowWf stack pc bank row
  | .stackThermalReading stack _ | .stackDrainEnd stack | .stackResume stack _ => decide (stack < 16)
  | .stackTrainingDone stack _ _ => decide (stack < 16)
  | .retrainSlice stack pc _ => decide (stack < 16 ∧ pc < 64)
  | .portTrainingAdvance p t => portWf p && lanesWf t.txLanes && lanesWf t.rxLanes && inBits 8 t.partnerRole && inBits 32 t.partnerParty
      && t.ffe.all (fun q => decide (q.1 < 11 ∧ q.2 < 64))
  | .portTrainingTimeout p | .portFailedRetry p | .retryRepeat p | .portLeavesActive p _ | .timeReport p | .timeMeasurement p _ => portWf p
  | .laneFail p lane | .laneSwap p lane => portWf p && decide (lane < 10 ∨ lane = 255)
  | .laneSwapAck p lane phys => portWf p && decide (lane < 10 ∨ lane = 255) && decide (phys < 11 ∨ phys = 255)
  | .retry p seq => portWf p && inBits 12 seq
  | .creditInit p a b c => portWf p && inBits 16 a && inBits 16 b && inBits 16 c
  | .down p reason => portWf p && decide (1 ≤ reason ∧ reason ≤ 3)
  | .flitReceive p bytes => portWf p && bytes.length == 272
  | .laneMarker p lane bytes _ => portWf p && decide (lane < 11) && bytes.length == 272
  | .write p f | .mask p f | .fetch p f | .rdata p f | .acch p f | .accum p f | .sig p f | .tnak p f | .stamp p f | .time p f => portWf p && f.wf
  | .tallyTimeout p window transfer | .refusedTransferDiscardEnd p window transfer => portWf p && inBits 8 window && inBits 16 transfer
  | .voltageLoopStep dom _ | .junctionReading dom _ _ | .ageingMeasurement dom _ | .ageingDailyRecord dom => decide (dom < 80)
  | .deskFailure dom => decide (72 ≤ dom ∧ dom < 80)
  | .governorUpdate _ budget => budget.length == 44
  | .feedPresent feed _ | .feedLost feed _ | .inrushTimeout feed | .inrushLimiterDone feed | .inrushRetry feed => decide (feed < 2)
  | .controlCoreFailure hx => decide (hx ≤ 5)
  | .roleMigrationDone role => decide (role < 5)
  | .syncPlaneFail plane _ => decide (plane < 2)
  | .wingPowerOff w _ => inBits 8 w
  | .setdasa static dyn => inBits 7 static && inBits 7 dyn
  | .entdaa dyn => inBits 7 dyn
  | .secretRegionZeroFillDone base => inBits 40 base
  | .stagedImageChecked slot => inBits 8 slot
  | .selfTestDrainDone cls idx _ | .selfTestDone cls idx _ => inBits 8 cls && inBits 8 idx
  | .currentLimitUpdate _ _ | .hexsetRestartDone | .bignumJobEnd | .stampPeriod | .stampApply | .snapshotDone | .traceHeaderUpdate
  | .perstNAssert | .perstNRelease | .oscillatorStable | .oscillatorDisciplined | .hostLinkLockChange _ | .ledgerScanDone _ | .bootRecordPoll
  | .firmwareLoadDone | .entropyHealthFail | .entropyRestartTest _ | .telemetry | .health | .ledgerSummary | .maintModuleReset _ | .powerGood
  | .entropyStartupTestDone _ | .firmwareStarted | .quoteSigned | .vioSbChange _ => true

end Sys2Proof
end

