-- ==== Sys2Proof/Certificates/Slice0/Obligations.lean ====
section
/-! DEFINITION. The statements for the provers: what each command does when it completes, and what holds of the whole module. A completion
statement names the state after the command exactly, so it says its frame too: whatever the state it names does not change is unchanged. -/

namespace Sys2Proof.Claims

open Sys2Proof Sys2Proof.Machine

/-- The state that a command's effect starts from: no store of the step outstanding. -/
def fresh (s : State) : State := { s with stores := [] }
/-- A mailbox command is begun and passes the checks that every row shares (R362, R365, R366): its mailbox is in service and its front
role does not move, its port may issue the row, its context stands, its buffer field is acceptable. `c` is the context it acts on. -/
def begins (s : State) (m : Mbx) (r : CmdRow) (c : Nat) : Prop :=
  (fresh s).mbxOn (portIx m.port) = true ∧ (fresh s).hex.moving.contains 0 = false ∧ (fresh s).cmdCtx m r = .ok c ∧ bufForm r m.buf = true
/-- What a begun command owes its submitter: a completion on its port with its tag. -/
def owed (s : State) (m : Mbx) (op c : Nat) : Owed :=
  { port := m.port, epoch := ((fresh s).mb (portIx m.port)).epoch, tag := m.tag, op := op, ctx := c }
/-- The state in which a command's own effect begins: one more completion is owed by its mailbox. -/
def begun (s : State) (m : Mbx) : State :=
  (fresh s).setMb (portIx m.port) { (fresh s).mb (portIx m.port) with owed := ((fresh s).mb (portIx m.port)).owed + 1 }
/-- The command's completion is posted with OK and a result after its effect `t` (R360). -/
def ended (s : State) (m : Mbx) (op c : Nat) (res : List Byte) (t : State) : State := t.complete (owed s m op c) .ok res

/-- The front of stream `x` lets a front command through R189: the stream is open and skips no loop's body, the command is the row's and
holds no handle, its encoding stands, its predicate selects it, it names no lost home, its wait is met, and a fence finds its window done. -/
def fronts (b : State) (c n op : Nat) (cmd : SCmd) (x : Stream) : Prop :=
  b.stream c n = some x ∧ b.frontOpen c x = true ∧ x.skip = 0 ∧ cmd.op = op ∧ noHandles cmd = true
    ∧ b.encodingFault c x.wing true cmd = none ∧ (cmd.pred = true → x.flgs.testBit cmd.predIdx ≠ cmd.predSense)
    ∧ b.lostSpec c x.wing cmd = false
    ∧ (cmd.wait = true → x.wait.isSome = true ∨ condHolds cmd.waitCond (b.syncValue c cmd.waitId) cmd.waitValue = true)
    ∧ (cmd.fence = true → x.window.all (fun e => e.2.phase == .done) = true)
/-- The front command of stream `x` has executed: the stream becomes `y`, the command's signal and record follow, releases that are free are
delivered (R199), and the front goes on behind it. -/
def fronted (b : State) (c n : Nat) (cmd : SCmd) (x y : Stream) : State :=
  ((((b.setStream c n x.step).setStream c n y).frontDone c n x.step.iter cmd .ok true false).flushReleases c n).decoded c n x
/-- A flit row's turn has come (R314, R315): the port is ACTIVE and the flit, of the row's type, is the next of its class in the receive
buffer. `u` is the state once a held MASK or ACCH group that the flit breaks off has been refused (Table 13.8). -/
def flitTurn (b : State) (p ftype : Nat) (f : Flit) (u : State) : Prop :=
  (b.port p).st = .active ∧ f.ftype = ftype ∧ (b.port p).next f = true ∧ u = b.interrupts p f
/-- A work row's command issues (Table 4.6, Table 4.7): the entry stands where the row takes it, its immediate is of the row's variant, and
its checks pass with verdict `v`, which ends it neither at issue nor for want of a scratch slot. Then exec answers the state in which the
command is under way: destinations hold their bookkeeping and are PENDING, slots are requested, its first key pass is joined. -/
def rowIssues (row : Nat → Nat → Nat → Instr) (op : Nat) (variant : Nat → Bool) (chk : State → Nat → Stream → Entry → Checked) : Prop :=
  ∀ (s b : State) (c n k : Nat) (x : Stream) (e : Entry) (v : Verdict), b = fresh s → b.issueReady c n k op = some (x, e, none) →
    variant e.cmd.imm = true → chk b c x e = .ok v → v.fate = none →
    v.job.any (fun j => !j.inCarrel && ((b.ctx c).plans.get j.plan).any (fun p => decide (p.scratchSlots ≤ j.scratch))) = false →
    exec (row c n k) s = .next (s.commit (b.issueAs c n k e (.ok v)))

/-- The rows of Table 15.12 that only the owner may issue (R366), with their submission entry and opcode. -/
def ownerRow : Instr → Option (Mbx × Nat)
  | .contextCreate m _ => some (m, 0x0001)
  | .contextDestroy m => some (m, 0x0002)
  | .setPowerLimit m _ => some (m, 0x0004)
  | .selfTest m _ _ _ => some (m, 0x0005)
  | .moduleReset m => some (m, 0x0006)
  | .traceConfig m _ _ _ => some (m, 0x0007)
  | .fwStage m _ => some (m, 0x0101)
  | .fwActivate m _ => some (m, 0x0102)
  | .ledgerRead m _ _ => some (m, 0x0103)
  | .placementLoad m => some (m, 0x0205)
  | .pageWeed m _ _ => some (m, 0x0701)
  | .weedListRead m _ _ => some (m, 0x0702)
  | .golatPortConfig m _ _ _ _ _ _ => some (m, 0x0801)
  | _ => none
/-- Rows whose effect only the host sees: register accesses, reads of the window, reads of a counter. -/
def hostRow : Instr → Bool
  | .mbxSqTail _ _ | .mbxPhaseTimeout _ | .evtHead _ | .evtRingCtrl _ | .rcRegisterRead _ | .lowHalfRead _ _ | .badWidthAccess _ _
  | .irqCause _ | .ckoCtrl _ | .stagingRead _ _ | .d3hotEntry _ | .syncRead _ _ => true
  | _ => false
/-- The module without what only the host sees: host memory and registers, mailboxes, the event block, the ledger, ALERT_N. -/
def machine (s : State) : State :=
  { s with host := {}, mbx := [], evt := {}, ledger := {}, stores := [], power := { s.power with alert := false } }

end Sys2Proof.Claims

open Sys2Proof Sys2Proof.Machine

/-! Contexts and secret regions -/

/-- CONTEXT_CREATE (R368): with the keeper and the entropy source ready and the VF not bound, the lowest free context is created for the
VF, and the completion names it. CONTEXT_OPTION (R369): the named option takes its value and the completion returns the one before.
CONTEXT_DESTROY (R368, R171): the wipe of Table 6.6 begins. -/
def Obligations.ContextCommandsComplete : Prop :=
  (∀ (s b : State) (m : Mbx) (vf i : Nat), b = Claims.begun s m →
    Claims.begins s m { op := 0x0001, tenant := false, ctx := .none } 255 →
    vf ≤ 16 → b.hex.rdyKeeper = true → b.hex.trng = true → b.hex.drbgError = false →
    (vf = 0 ∨ b.ctxs.any (fun c => c.2.vf == some vf) = false) →
    (List.range 16).find? (fun j => (b.ctxs.get j).isNone) = some i →
    exec (.contextCreate m vf) s = .next (s.commit (Claims.ended s m 0x0001 255 [b8 i]
      { b with draw := b.draw + 5, ctxs := b.ctxs.put i (b.freshCtx (if vf = 0 then none else some vf)) })))
  ∧ (∀ (s b : State) (m : Mbx) (c option value old : Nat) (y : Ctx), b = Claims.begun s m →
    Claims.begins s m { op := 0x0003 } c →
    (b.ctx c).option option value = some (old, y) →
    (option ≠ 5 ∨ old = value ∨ (b.ctx c).cards.any (fun h => h.2.kind == .share && h.2.role == roleTriple && h.2.triple == .opened) = false) →
    exec (.contextOption m option value) s = .next (s.commit (Claims.ended s m 0x0003 c (leBytes 8 old) (b.setCtx c y))))
  ∧ (∀ (s b : State) (m : Mbx) (c : Nat), b = Claims.begun s m →
    Claims.begins s m { op := 0x0002, tenant := false } c →
    exec (.contextDestroy m) s = .next (s.commit (b.startWipe c (some (Claims.owed s m 0x0002 c)))))

/-- VF_FLR (R368, R407): a bound VF's mailbox returns to reset and its context begins to be wiped. CONTEXT_WIPE_DONE (R171): the context's
bays change context, its regions' bytes can no longer be decrypted and go on being zero-filled, and it is gone (after CONTEXT_DESTROY) or stands fresh on its VF (after the
function-level reset).
SECRET_REGION_OPEN (R165): a whole number of 64 KiB pages of one ready stack that no card and no region touches becomes a region of
the context. SECRET_REGION_CLOSE: a region without cards is taken away and its zero-fill begins. SECRET_REGION_ZERO_FILL_DONE: its memory
is zero and the close completes. -/
def Obligations.ContextWipesAndSecretRegions : Prop :=
  ((∀ (s b : State) (vf c : Nat) (x : Ctx), (Claims.fresh s).hostUp = true → 1 ≤ vf → vf ≤ 16 →
    b = (Claims.fresh s).setMb vf ((Claims.fresh s).mb vf).afterReset →
    b.ctxs.find? (fun p => p.2.vf == some vf) = some (c, x) → x.wiping = false →
    exec (.vfFlr vf) s = .next (s.commit (b.startWipe c none)))
  ∧ (∀ (s b : State) (c : Nat) (x : Ctx), (Claims.fresh s).ctxs.get c = some x → x.wiping = true →
    b = (x.regions ++ x.filling.map (fun f => f.1)).foldl (fun s r => s.scramble r.base r.len) ((Claims.fresh s).wipeBays c) →
    exec (.contextWipeDone c) s = .next (s.commit (
      let t : State := { b with
        fills := b.fills ++ (x.regions ++ x.filling.map (fun f => f.1))
        wings := b.wings.map (fun w => (w.1, { w.2 with queues := w.2.queues.del c, passes := w.2.passes.filter (fun q => q.2.key.1 != c) })) }
      match x.wipeOwed with
      | some o => ({ t with ctxs := t.ctxs.del c }).complete o .ok []
      | none => { t with draw := t.draw + 5, ctxs := t.ctxs.put c (t.freshCtx x.vf) }))))
  ∧ ((∀ (s b : State) (m : Mbx) (c base len : Nat), b = Claims.begun s m → Claims.begins s m { op := 0x0203 } c →
    base % 65536 = 0 → len % 65536 = 0 → 0 < len → base < 2 ^ 40 → base % 2 ^ 36 + len ≤ b.grade.stackBytes →
    b.regionHit base len = false → b.cardIn base len = false → (b.stk (dpaStack base)).ready = true → (b.ctx c).regions.length < 64 →
    exec (.secretRegionOpen m base len) s = .next (s.commit (Claims.ended s m 0x0203 c []
      (b.setCtx c { b.ctx c with regions := (b.ctx c).regions ++ [{ base := base, len := len }] }))))
  ∧ (∀ (s b : State) (m : Mbx) (c base : Nat) (r : Region), b = Claims.begun s m → Claims.begins s m { op := 0x0204 } c →
    (b.ctx c).regions.find? (fun r => r.base == base) = some r → b.cardIn r.base r.len = false →
    exec (.secretRegionClose m base) s = .next (s.commit (b.setCtx c { b.ctx c with
      regions := (b.ctx c).regions.erase r, filling := (b.ctx c).filling ++ [(r, some (Claims.owed s m 0x0204 c))] })))
  ∧ (∀ (s b : State) (base c : Nat) (r : Region) (o : Owed), b = Claims.fresh s → b.fills.find? (fun r => r.base == base) = none →
    b.ctxs.findSome? (fun c => (c.2.filling.find? (fun f => f.1.base == base)).map (fun f => (c.1, f))) = some (c, (r, some o)) →
    exec (.secretRegionZeroFillDone base) s = .next (s.commit
      (((b.setCtx c { b.ctx c with filling := (b.ctx c).filling.erase (r, some o) }).zeroFill r.base r.len).complete o .ok []))))

/-! Module commands -/

/-- SET_POWER_LIMIT (R417): a limit of 1,000 to 3,600 W is set and the completion returns the limit in force. TRACE_CONFIG (R473): a ring
that is absent, or lies whole in one reachable stack outside secret regions, is taken from its start. MODULE_RESET (R408): its completion
is posted, then the module is reset.
SELF_TEST (R430): a unit that is present and ready, in a wing without another test, drains and is tested; with QUIESCE also when it is
busy. SELF_TEST_DRAIN_DONE: the test starts, or the unit returns untested with BUSY. SELF_TEST_DONE: a stack that passed returns to
service and the completion says so. -/
def Obligations.ModuleCommandsAndSelfTests : Prop :=
  ((∀ (s b t : State) (m : Mbx) (watts : Nat), b = Claims.begun s m →
    Claims.begins s m { op := 0x0004, tenant := false, ctx := .none } 255 → 1000 ≤ watts → watts ≤ 3600 →
    t = ({ b with power := { b.power with setLimit := watts } } : State).relimit →
    exec (.setPowerLimit m watts) s = .next (s.commit (Claims.ended s m 0x0004 255 (leBytes 2 t.power.limit) t)))
  ∧ (∀ (s b : State) (m : Mbx) (mask ring len : Nat), b = Claims.begun s m →
    Claims.begins s m { op := 0x0007, tenant := false, ctx := .none } 255 → mask < 64 → ring % 4096 = 0 → len % 4096 = 0 → len ≤ 2 ^ 28 →
    (len = 0 ∨ (2 ^ 20 ≤ len ∧ ring + len < 2 ^ 40 ∧ ring / 2 ^ 36 = (ring + len - 1) / 2 ^ 36 ∧ b.reach ring len = none
      ∧ b.secretHit ring len = false)) →
    exec (.traceConfig m mask ring len) s = .next (s.commit (Claims.ended s m 0x0007 255 []
      ({ b with stamps := { b.stamps with
        trMask := mask, trBase := ring, trLen := len, trPtr := 0x40, trWraps := 0, trDropped := 0, trBranches := []
        trGaps := ((List.range 6).filter mask.testBit).foldl (fun g i => g.put i
          ⟨b.time.now, 0, if 0 < b.stamps.trLen ∧ b.stamps.trMask.testBit i then 4 else 0⟩) [] } } : State).traceHeader)))
  ∧ (∀ (s b : State) (m : Mbx), b = Claims.begun s m → Claims.begins s m { op := 0x0006, tenant := false, ctx := .none } 255 →
    exec (.moduleReset m) s = .next (s.commit (Claims.ended s m 0x0006 255 [] b).moduleReset)))
  ∧ ((∀ (s b : State) (m : Mbx) (cls idx : Nat) (q : Bool), b = Claims.begun s m →
    Claims.begins s m { op := 0x0005, tenant := false, ctx := .none } 255 → cls ≤ 3 → idx < testUnits cls →
    b.testAbsent cls idx = false → b.testReady cls idx = true →
    b.tests.any (fun t => testWing t.cls t.idx == testWing cls idx) = false → (b.testBusy cls idx = true → q = true) →
    exec (.selfTest m cls idx q) s = .next (s.commit (
      let t := ({ b with tests := b.tests ++ [⟨cls, idx, Claims.owed s m 0x0005 255, !b.testBusy cls idx, q⟩] } : State).setDrained cls idx true
      if b.testBusy cls idx then t else t.startTest cls idx)))
  ∧ (∀ (s b : State) (cls idx : Nat) (drained : Bool) (t : Test), b = Claims.fresh s →
    b.tests.find? (fun t => t.cls == cls && t.idx == idx && !t.testing) = some t →
    exec (.selfTestDrainDone cls idx drained) s = .next (s.commit (
      if drained then ({ b with tests := b.tests.map (fun u => if u = t then { u with testing := true } else u) } : State).startTest cls idx
      else (({ b with tests := b.tests.erase t } : State).setDrained cls idx false).complete t.owed .busy [])))
  ∧ (∀ (s b : State) (idx : Nat) (r : TestResult) (t : Test), b = Claims.fresh s → r.pass = true →
    b.tests.find? (fun t => t.cls == 1 && t.idx == idx && t.testing) = some t →
    exec (.selfTestDone 1 idx r) s = .next (s.commit
      (let u := ({ b with tests := b.tests.erase t } : State).setDrained 1 idx false
       ({ u with ledger := { u.ledger with
         badSpares := addBlocks u.ledger.badSpares ((r.spares.filter (· < 65536)).map (idx * 65536 + ·)) } } : State).complete t.owed .ok [0]))))

/-! Firmware, keeper and entropy -/

/-- FW_STAGE (R383): the image is copied over what the slot held, and its check begins. STAGED_IMAGE_CHECKED: the slot holds the image that passed,
or nothing, and FW_STAGE completes. FW_ACTIVATE (R383, R384): with no context and no roll-back the staged image becomes the active one, the
completion is posted, and the Hexset restarts. FIRMWARE_STARTED and HEXSET_RESTART_DONE (R382): firmware serves.
BOOT_RECORD_POLL (R381, R382): a new record with a range inside the window starts a load. FIRMWARE_LOAD_DONE (R380, R382): the copied
image is activated and the Hexset starts, or the check's status is reported. -/
def Obligations.FirmwareLoadsAndServes : Prop :=
  ((∀ (s b : State) (m : Mbx) (slot : Nat) (bs : List Byte), b = Claims.begun s m →
    Claims.begins s m { op := 0x0101, tenant := false, ctx := .none, buf := true, maxLen := 33554432 } 255 →
    slot ≤ 1 → b.hex.staging.get slot = none → b.inBuf m m.buf.len = .ok bs →
    exec (.fwStage m slot) s = .next (s.commit (
      let img : Image := { body := bs.take (bs.length - colophonLen), colophon := bs.drop (bs.length - colophonLen) }
      { b with hex := { b.hex with
          slots := b.hex.slots.del slot, staging := b.hex.staging.put slot (Claims.owed s m 0x0101 255, img) } })))
  ∧ (∀ (s b t : State) (slot : Nat) (o : Owed) (img : Image), b = Claims.fresh s → b.hex.staging.get slot = some (o, img) →
    t = { b with hex := { b.hex with staging := b.hex.staging.del slot } } →
    exec (.stagedImageChecked slot) s = .next (s.commit (
      match checkImage b (img.body ++ img.colophon) with
      | .ok im => ({ t with hex := { t.hex with slots := t.hex.slots.put slot im } } : State).complete o .ok []
      | .error e => ({ t with hex := { t.hex with slots := t.hex.slots.del slot } } : State).complete o e [])))
  ∧ (∀ (s b t : State) (m : Mbx) (slot : Nat) (img : Image), b = Claims.begun s m →
    Claims.begins s m { op := 0x0102, tenant := false, ctx := .none } 255 → b.ctxs = [] → slot < 2 → b.hex.slots.get slot = some img →
    b.hex.otp.arb ≤ fld img.colophon 12 2 → t = Claims.ended s m 0x0102 255 [] (b.activate img) →
    exec (.fwActivate m slot) s = .next (s.commit
      { t with hex := { t.hex with phase := .restarting, rdyHexset := false, rdyFw := false, rdyMbx := false } }))
  ∧ (∀ (s b : State), b = Claims.fresh s → b.hex.phase = .starting → exec .firmwareStarted s = .next (s.commit b.firmwareUp))
  ∧ (∀ (s b : State), b = Claims.fresh s → b.hex.phase = .restarting → exec .hexsetRestartDone s = .next (s.commit b.firmwareUp)))
  ∧ ((∀ (s b : State) (a : Nat) (r : List Byte), b = Claims.fresh s → b.power.st = .run → b.hex.phase = .none → b.bootWindow = some a →
    b.read a 64 = .ok r → fld r 0 4 = 0x31424C4F → fld r 4 4 ≠ 0 → fld r 4 4 ≠ b.hex.bootSeq →
    fld r 8 8 % 4096 = 0 → 0x1000 ≤ fld r 8 8 → fld r 8 8 + fld r 16 8 ≤ 2 ^ 28 →
    exec .bootRecordPoll s = .next (s.commit
      { b with hex := { b.hex with bootSeq := fld r 4 4, phase := .loading (fld r 4 4) (fld r 8 8) (fld r 16 8) } }))
  ∧ (∀ (s b : State) (seq off len a : Nat) (img : List Byte), b = Claims.fresh s → b.hex.phase = .loading seq off len →
    b.stageDpa off len = some a → b.read a len = .ok img →
    exec .firmwareLoadDone s = .next (s.commit (
      match checkImage b img with
      | .ok im => ({ b.activate im with hex := { (b.activate im).hex with phase := .starting } } : State).bootAck seq .ok
      | .error e => ({ b with hex := { b.hex with phase := .none } } : State).bootAck seq e))))

/-- QUOTE (R387): with the keeper ready and a buffer that takes the quote, the quote waits its turn to be signed. QUOTE_SIGNED: the quote
and the endorsement are written to the buffer and QUOTE completes. SESSION_OPEN (R388): the context's session ends and a job that opens the
next one is queued. MANIFEST_LOAD (R393): a well-formed manifest of a later serial is queued to be verified.
BIGNUM_JOB_END (R389, R393, R397): the engine takes the next job; the key exchange goes on to its second half; the session opens with
its reply; a manifest that verifies comes into force, another draws SIGNATURE_INVALID.
CARD_BIND_SESSION (R391, R392): a first segment in sequence, not the last, of a card template that may be bound is kept when its tag
opens under the session's key; a segment whose tag does not open draws CRYPTO_FAIL and discards the image's earlier segments. -/
def Obligations.KeeperCommandsAndJobs : Prop :=
  ((∀ (s b : State) (m : Mbx) (c : Nat), b = Claims.begun s m → Claims.begins s m { op := 0x0104, ctx := .own, buf := true } c →
    b.hex.rdyKeeper = true → b.outBuf m 80352 = none → (m.buf.dev = true → b.poisoned m.buf.addr 64 = false) →
    (m.buf.dev = false → m.buf.fault ≠ .poisonedTlp) →
    exec (.quote m) s = .next (s.commit { b with hex := { b.hex with quotes := b.hex.quotes ++
      [⟨Claims.owed s m 0x0104 c, if m.buf.dev then b.bytes m.buf.addr 64 else fit 64 m.buf.data, if c = 255 then none else some c, m.buf⟩] } }))
  ∧ (∀ (s b : State) (q : QuoteJob) (rest : List QuoteJob), b = Claims.fresh s → b.hex.quotes = q :: rest →
    exec .quoteSigned s = .next (s.commit (
      let e := b.endorse
      (({ e with hex := { e.hex with quotes := rest } } : State).putBuf q.buf
        (e.quote (q.ctx.getD 255) q.nonce (b.bindings q.ctx).1 (b.bindings q.ctx).2 ++ (e.ledger.endorsement.getD []))).complete q.owed .ok [])))
  ∧ (∀ (s b t : State) (m : Mbx) (c : Nat) (r : List Byte), b = Claims.begun s m →
    Claims.begins s m { op := 0x0105, owner := false, ctx := .own, buf := true } c →
    b.hex.rdyKeeper = true → b.hex.drbgError = false → b.hex.trng = true →
    (b.hex.job.toList ++ b.hex.jobs).any (fun j => j.ctx == c && j.kind == 2) = false → b.outBuf m 52088 = none →
    r = (if m.buf.dev then b.bytes m.buf.addr 1808 else fit 1808 m.buf.data) →
    (m.buf.dev = true → b.poisoned m.buf.addr 1808 = false) → (m.buf.dev = false → m.buf.fault ≠ .poisonedTlp) →
    fld r 0 4 = 0x31534C4F → fld r 4 2 = 0x0100 → zeroAt r 6 2 = true → zeroAt r 1705 3 = true → zeroAt r 1805 3 = true →
    t = b.modCtx c (fun x => { x with session := none }) →
    exec (.sessionOpen m) s = .next (s.commit (({ t with draw := t.draw + 1 } : State).addJob
      { kind := 0, owed := Claims.owed s m 0x0105 c, ctx := c, start := 0, draw := t.draw, msg := r, buf := m.buf
        fail := if kemCheck ((r.drop 40).take 1568) && (Pt.decode ((r.drop 1608).take 97)).isSome
            && (Pt.decode ((r.drop 1708).take 97)).isSome
          then none else some .cryptoFail })))
  ∧ (∀ (s b : State) (m : Mbx) (c n : Nat) (x : Ctx) (z : Session) (bs : List Byte), b = Claims.begun s m →
    Claims.begins s m { op := 0x0107, buf := true } c → b.hex.rdyKeeper = true → b.ctxs.get c = some x → x.session = some z →
    b.inBuf m m.buf.len = .ok bs → n = fld bs 6 2 → 1 ≤ n → n ≤ 1024 → bs.length = 32 + 48 * n + 96 →
    fld bs 0 4 = 0x314D4C4F → fld bs 4 2 = 0x0100 → zeroAt bs 16 16 = true → (List.range n).all (fun i => fld bs (32 + 48 * i + 9) 1 == 0) = true →
    x.manifest = none →
    exec (.manifestLoad m) s = .next (s.commit (b.addJob (
      let r := leNat (((bs.drop (32 + 48 * n)).take 48).reverse)
      let v := leNat ((((bs.drop (32 + 48 * n)).drop 48).take 48).reverse)
      { kind := 2, owed := Claims.owed s m 0x0107 c, ctx := c, start := 0, draw := 0, msg := bs, buf := m.buf
        fail := if r = 0 ∨ v = 0 ∨ p384Order ≤ r ∨ p384Order ≤ v then some .cryptoFail else none })))))
  ∧ (∀ (s a b : State) (j : BigJob), a = Claims.fresh s → b = a.nextJob → a.hex.job = some j → j.start + jobTime j.kind ≤ a.time.now →
    (∀ e, j.fail = some e → exec .bignumJobEnd s = .next (s.commit (b.complete j.owed e [])))
    ∧ (j.fail = none → j.kind = 0 → exec .bignumJobEnd s = .next (s.commit (
        if (ecdhPublic j.draw).isSome then (b.keeperDrew 4).addJob { j with kind := 1 } else (b.keeperDrew 4).complete j.owed .cryptoFail [])))
    ∧ (j.fail = none → j.kind = 1 → exec .bignumJobEnd s = .next (s.commit (
        match ecdhPublic j.draw, ecdhShared j.draw ((j.msg.drop 1608).take 97) with
        | some qm, some z => (b.keeperDrew 7).openSession j qm z
        | _, _ => (b.keeperDrew 7).complete j.owed .cryptoFail [])))
    ∧ (j.fail = none → j.kind = 2 →
      (∀ x f, a.ctxs.get j.ctx = some x → x.manifest = some f → f.serial < fld j.msg 8 8) →
      exec .bignumJobEnd s = .next (s.commit (
        let n := j.msg.length - 96
        let key := ((a.ctxs.get j.ctx).bind (fun x => x.session)).map (fun y => y.manKey)
        if ecdsaVerify (key.getD []) (j.msg.take n) (j.msg.drop n) then
          (b.modCtx j.ctx (fun x => { x with manifest := some (parseManifest j.msg) })).complete j.owed .ok []
        else b.complete j.owed .signatureInvalid []))))
  ∧ (∀ (s b : State) (m : Mbx) (c handle : Nat) (bs : List Byte) (z : Session), b = Claims.begun s m →
    Claims.begins s m { op := 0x0106, owner := false, ctx := .own, buf := true } c → b.hex.rdyKeeper = true → b.hex.trng = true →
    b.anyBuf m = .ok bs → (b.ctx c).session = some z → z.part = none → 48 ≤ bs.length → fld bs 0 4 = 0x315A4C4F → fld bs 4 4 = 0 →
    z.lastSeq < fld bs 8 8 → fld bs 16 8 = 0 → handle < 65536 →
    exec (.cardBindSession m handle) s = .next (s.commit (
      match gcmOpen z.sealKey (zeros 4 ++ leBytes 8 (fld bs 8 8)) (bs.take 32 ++ [b8 c] ++ leBytes 2 handle)
          ((bs.drop 32).take (bs.length - 48)) (bs.drop (bs.length - 16)) with
      | none => (b.dropPart c).complete (Claims.owed s m 0x0106 c) .cryptoFail []
      | some pt =>
        let t := b.setCtx c { b.ctx c with session := some { z with
          lastSeq := fld bs 8 8, part := some { handle := handle, total := fld bs 24 8, data := pt } } }
        let early := match Card.parse (pt.take 128) with
          | some cd => !templateOk cd (pt.take 128) cd.set || (cd.kind != .key && !b.placeOk c handle cd (cd.kind == .share))
          | none => true
        if pt.length < 128 ∨ fld bs 24 8 < pt.length ∨ early = true then (t.dropPart c).complete (Claims.owed s m 0x0106 c) .badParameter []
        else if (b.dropPart c).handleBusy c handle then (t.dropPart c).complete (Claims.owed s m 0x0106 c) .busy []
        else t.complete (Claims.owed s m 0x0106 c) .ok [])))

/-- ENTROPY_STARTUP_TEST_DONE, ENTROPY_HEALTH_FAIL and ENTROPY_RESTART_TEST (R398, R399): the source passes its start-up test or enters its
error state; a health failure puts every DRBG in error, with its event; a later pass ends the error state. DRBG_RESEED (R168): an instance
that has served 2^20 requests, or whose seed is 1 s old, reseeds. -/
def Obligations.EntropySourceMoves : Prop :=
  (∀ (s b : State) (pass : Bool), b = Claims.fresh s → b.power.st = .run → b.hex.trng = false → b.hex.drbgError = false →
    exec (.entropyStartupTestDone pass) s = .next (s.commit (if pass then b.entropyPass else b.entropyFail)))
  ∧ (∀ (s b : State), b = Claims.fresh s → b.power.st = .run → b.hex.trng = true →
    exec .entropyHealthFail s = .next (s.commit b.entropyFail))
  ∧ (∀ (s b : State), b = Claims.fresh s → b.power.st = .run → b.hex.drbgError = true →
    exec (.entropyRestartTest true) s = .next (s.commit
      ((((b.entropyPass).setHealth 4 false).event .ok 0xF 0xFF [0]).errRec 0xF 0xFF 0xFF [0])))
  ∧ (∀ (s b : State) (c w : Nat) (x : Ctx) (d : Drbg), b = Claims.fresh s → b.ctxs.get c = some x → x.drbg.get w = some d → b.hex.drbgError = false →
    (2 ^ 20 ≤ d.requests ∨ d.since + 1000000000 ≤ b.time.now) →
    exec (.drbgReseed c w) s = .next (s.commit { b with
      draw := b.draw + 1
      ctxs := b.ctxs.mod c (fun x => { x with drbg := x.drbg.put w { seed := b.draw, requests := 0, since := b.time.now } }) }))

/-! Parameter sets, plans, placement -/

/-- PARAMSET_LOAD (R13 to R16): a well-formed record of a set the context does not hold is registered under its identifier.
REFRESH_PLAN_LOAD (R125 to R128): a well-formed plan record is registered under its identifier.
PLACEMENT_LOAD (R270, R271): a well-formed map of a later epoch that strands no bound card comes into force; a ready bay whose
partition changes has yet to apply its entry, every other bay applies it at once. BAY_PARTITION_APPLY (R271): an idle bay moves its
boundary and the slots that change partition are zeroed; passes that only bays of the old map still waited for close (R92).
PLACEMENT_READ (R269): the record is written to the buffer, with what a tenant
may not see hidden. -/
def Obligations.SetsPlansAndPlacementLoad : Prop :=
  ((∀ (s b : State) (m : Mbx) (c : Nat) (bs : List Byte), b = Claims.begun s m → Claims.begins s m { op := 0x0201, buf := true } c →
    b.anyBuf m = .ok bs → 64 ≤ bs.length → bs.length = 64 + 8 * (fld bs 6 1 + fld bs 7 1) → fld bs 0 4 ≠ 0 → fld bs 9 1 < 4 →
    zeroAt bs 10 6 = true → zeroAt bs 26 38 = true → (parseSet bs).ok = true → (b.ctx c).sets.get (fld bs 0 4) = none →
    (b.ctx c).sets.length < 32 →
    exec (.paramsetLoad m) s = .next (s.commit (Claims.ended s m 0x0201 c []
      (b.setCtx c { b.ctx c with sets := (b.ctx c).sets.put (fld bs 0 4) (parseSet bs) }))))
  ∧ (∀ (s b : State) (m : Mbx) (c id : Nat) (bs : List Byte) (p : Plan), b = Claims.begun s m →
    Claims.begins s m { op := 0x0202, buf := true } c → b.anyBuf m = .ok bs → b.planOf c bs = .ok (id, p) →
    (b.stk (dpaStack p.scratch)).ready = true → (b.ctx c).plans.length < 8 →
    exec (.refreshPlanLoad m) s = .next (s.commit (Claims.ended s m 0x0202 c []
      (b.setCtx c { b.ctx c with plans := (b.ctx c).plans.put id p })))))
  ∧ ((∀ (s b : State) (m : Mbx) (bs : List Byte), b = Claims.begun s m →
    Claims.begins s m { op := 0x0205, tenant := false, ctx := .none, buf := true } 255 → b.inBuf m 768 = .ok bs → b.map.owed = none →
    placementGood b bs = true → (List.range 88).any (fun i => b.strands i (BitVec.ofNat 64 (fld bs (64 + 8 * i) 8))) = false →
    exec (.placementLoad m) s = .next (s.commit (
      let e := fun i => BitVec.ofNat 64 (fld bs (64 + 8 * i) 8)
      (List.range 4).foldl State.recheckPasses ({ b with
          bays := b.bays.map (fun y => if y.2.ready && partFields (e y.1) != partFields y.2.entry then (y.1, { y.2 with applying := true })
            else (y.1, { y.2 with entry := e y.1, applying := false }))
          map := { epoch := fld bs 4 4, fixed := decide (fld bs 8 1 = 1), owed := some (Claims.owed s m 0x0205 255)
                   entries := (List.range 88).map (fun i => (i, e i)) } } : State).placementDone)))
  ∧ (∀ (s b t : State) (bay : Nat), b = Claims.fresh s → (b.bay bay).applying = true → b.bayBusy bay = false →
    t = b.zeroSlots bay (fun k => slotOwner (b.bay bay).entry k != slotOwner (b.map.entries.getD bay 0) k) →
    exec (.bayPartitionApply bay) s = .next (s.commit
      ((t.setBay bay { t.bay bay with entry := b.map.entries.getD bay 0, applying := false }).recheckPasses (bay / 22)).placementDone))
  ∧ (∀ (s b : State) (m : Mbx) (c : Nat), b = Claims.begun s m → Claims.begins s m { op := 0x0206, ctx := .own, buf := true } c →
    b.outBuf m 768 = none →
    exec (.placementRead m) s = .next (s.commit (Claims.ended s m 0x0206 c [] (b.putBuf m.buf (b.placementBytes c))))))

/-! Cards -/

/-- CARD_WRITE (R175, R177): a card that software may write, whose storage lies where it may and is ready, and whose handle no command
names, replaces the entry; the module sets its scheme, its POISON bit and a triple's SPENT state.
CARD_BIND (R176, R177, R394): an image in readable device memory that binds becomes the card, and its content is laid out in its
storage; a key image only under a manifest in force that admits it, or with none. CARD_UNBIND (R176, R177): the entry is EMPTY again, and
a secret carrel card's slots are zeroed. CARD_READ (R178): the 128 bytes as they stand.
CARD_EXPORT (R39, R149, R207): a card that may leave, unpoisoned and readable, is written as an image (its seeded c1 expanded first) to
a destination the context may write, and the completion returns the image's length. -/
def Obligations.CardCommandsComplete : Prop :=
  (∀ (s b : State) (m : Mbx) (c handle : Nat) (bs : List Byte) (cd : Card), b = Claims.begun s m →
    Claims.begins s m { op := 0x0301, buf := true } c → b.inBuf m 128 = .ok bs → Card.parse bs = some cd → cd.supplied.bytes = bs →
    handle < 65536 → cd.writable = true →
    ((cd.kind = .clear ∧ cd.span noSet ≤ cd.capacity) ∨
      (cd.kind ≠ .clear ∧ ∃ p, b.pset c cd.set = some p ∧ schemeOk cd.kind p = true ∧ cd.fits p = true)) →
    b.placeOk c handle cd (cd.secret || (cd.kind == .share && roleSecret cd.role)) = true → b.cardReady cd = true →
    b.handleBusy c handle = false →
    exec (.cardWrite m handle) s = .next (s.commit (Claims.ended s m 0x0301 c [] (b.setCard c handle { cd with
      scheme := ((b.pset c cd.set).map (fun q => q.scheme)).getD 0
      poison := cd.kind != .poly && cd.kind != .clear
      triple := if cd.kind == .share && cd.role == roleTriple then .spent else .fresh }))))
  ∧ ((∀ (s b : State) (m : Mbx) (c handle image len : Nat) (tb : List Byte) (cd : Card) (p : ParamSet), b = Claims.begun s m →
    Claims.begins s m { op := 0x0302, buf := true } c → b.inBuf m 128 = .ok tb → b.rangeReady image (max 64 len) = true →
    b.deny c image (max 64 len) = none → b.poisoned image (max 64 len) = false →
    b.binding c handle tb (b.bytes image len) len false = .ok (cd, p) → b.cardReady cd = true →
    (cd.kind = .key → (b.ctx c).manifest.any (fun x => !x.admits (b.bytes image len)) = false) → b.handleBusy c handle = false →
    b.foreign c cd.base cd.capacity = false →
    exec (.cardBind m handle image len) s = .next (s.commit (Claims.ended s m 0x0302 c []
      ((b.storeImage cd p (b.bytes image len)).setCard c handle cd))))
  ∧ (∀ (s b t : State) (m : Mbx) (c handle : Nat) (cd : Card), b = Claims.begun s m → Claims.begins s m { op := 0x0304 } c →
    handle < 65536 → b.handleBusy c handle = false → b.card c handle = some cd → t = b.zeroCardSlots cd →
    exec (.cardUnbind m handle) s = .next (s.commit (Claims.ended s m 0x0304 c []
      (t.setCtx c { t.ctx c with cards := (t.ctx c).cards.del handle }))))
  ∧ (∀ (s b : State) (m : Mbx) (c handle : Nat), b = Claims.begun s m → Claims.begins s m { op := 0x0305, buf := true } c →
    b.outBuf m 128 = none →
    exec (.cardRead m handle) s = .next (s.commit (Claims.ended s m 0x0305 c []
      (b.putBuf m.buf (((b.card c handle).map Card.bytes).getD (zeros 128)))))))
  ∧ (∀ (s b : State) (m : Mbx) (c handle dst cap comp : Nat) (cd : Card) (p : ParamSet) (ring : Bool) (bs : List (List Byte)),
    b = (Claims.begun s m).expandSeed c handle → Claims.begins s m { op := 0x0303 } c → b.card c handle = some cd →
    p = (b.pset c cd.set).getD noSet → ring = (cd.kind == .ciphertext || cd.kind == .plaintext) →
    comp = (if ring then wordsOf p.split (cd.level + 1) * p.n * 8 else if cd.kind == .lwe then cd.span p else cd.compBytes p) →
    (ring = true ∨ cd.kind = .lwe ∨ (cd.kind = .share ∧ roleSecret cd.role = false)) → cd.secret = false →
    (ring = true → cd.layout = .limb ∧ (p.scheme = 1 → scaleOk cd.scale = true)) → (cd.kind = .plaintext → cd.polys ≤ 1) →
    64 + cd.comps * comp ≤ cap → b.cardReady cd = true → b.rangeReady dst (64 + cd.comps * comp) = true → cd.poison = false →
    dst + 64 + cd.comps * comp < 2 ^ 40 → b.deny c dst (64 + cd.comps * comp) = none → b.secretHit dst (64 + cd.comps * comp) = false →
    (List.range cd.comps).mapM (fun i => b.get c cd.base (cd.base + i * cd.compBytes p) comp) = .ok bs →
    exec (.cardExport m handle dst cap) s = .next (s.commit (Claims.ended s m 0x0303 c (leBytes 8 (64 + cd.comps * comp))
      (b.outWrite dst (imageOf cd p bs.flatten)))))

/-! Streams -/

/-- STREAM_START (R180, R272): with the wing and the folio's stack ready, no broken barrier and a replica group, the lowest free stream
number starts at the folio. STREAM_EXTEND (R182): a parked stream resumes at the folio named, under the next sequence number.
STREAM_ABORT (R201): decoding ends, what has not issued is stopped, what has is aborted. -/
def Obligations.StreamCommandsComplete : Prop :=
  (∀ (s b : State) (m : Mbx) (c wing folio seq n : Nat), b = Claims.begun s m → Claims.begins s m { op := 0x0401 } c →
    wing < 4 → (b.wing wing).ready = true → b.folioReady folio = true → b.broken c = false → b.group wing c ≠ [] →
    (List.range 64).find? (fun n => ((b.ctx c).streams.get n).isNone) = some n → b.streamsOn wing < 64 →
    (b.ctx c).streams.countP (fun t => t.2.wing == wing) < 16 →
    exec (.streamStart m wing folio seq) s = .next (s.commit (
      let x : Stream := { wing := wing, port := m.port, epoch := (b.mb (portIx m.port)).epoch, folio := folio, seq := BitVec.ofNat 32 seq }
      Claims.ended s m 0x0401 c [b8 n] (b.setCtx c { b.ctx c with streams := (b.ctx c).streams.put n x }))))
  ∧ (∀ (s b : State) (m : Mbx) (c n folio : Nat) (x : Stream), b = Claims.begun s m → Claims.begins s m { op := 0x0402 } c →
    b.stream c n = some x → x.state = .parked → (b.wing x.wing).ready = true → b.folioReady folio = true →
    exec (.streamExtend m n folio) s = .next (s.commit (Claims.ended s m 0x0402 c [] (b.setStream c n { x with
      state := .running, folio := folio, seq := x.seq + 1, ord := x.ord + 1, slot := 0, loaded := false }))))
  ∧ (∀ (s b : State) (m : Mbx) (c n : Nat) (x : Stream), b = Claims.begun s m → Claims.begins s m { op := 0x0403 } c →
    b.stream c n = some x → x.ended = false →
    exec (.streamAbort m n) s = .next (s.commit (Claims.ended s m 0x0403 c [] (b.abortStream c n false))))

/-- FOLIO_FETCH (R181, R183): a running stream's folio that passes every check is loaded and kept. STREAM_DECODE (R189, R195, R196): a work
command that is encoded well, waits on nothing, names no lost home and finds room in the windows enters its stream's window, and the front
goes on to the trailer when it was the folio's last. WAIT_SATISFIED (R251): the home's report reaches the front. -/
def Obligations.StreamFrontCompletes : Prop :=
  (∀ (s a b : State) (c n : Nat) (chk : Check) (x : Stream), a = Claims.fresh s → b = a.checked x.wing x.folio chk →
    a.stream c n = some x → x.state = .running → x.loaded = false → (a.wing x.wing).drained = false → b.folioFault c x chk = none →
    exec (.folioFetch c n chk) s = .next (s.commit
      ((b.setStream c n { x with loaded := true, kept := (x.folio :: x.kept.filter (· != x.folio)).take 4 }).trailer c n)))
  ∧ (∀ (s b : State) (c n : Nat) (x : Stream) (bs : List Byte) (cmd r : SCmd), b = Claims.fresh s → b.stream c n = some x →
    b.frontOpen c x = true → x.loaded = true → x.skip = 0 → x.slot < b.folioCount x → bs = b.bytes (x.folio + 64 * x.slot) 64 →
    cmd = parseCmd bs → frontOp cmd.op = false → b.encodingFault c x.wing (headClear bs) cmd = none → restClear bs cmd = true →
    (cmd.pred = true → x.flgs.testBit cmd.predIdx ≠ cmd.predSense) → b.lostSpec c x.wing cmd = false →
    (cmd.wait = true → x.wait.isSome = true ∨ condHolds cmd.waitCond (b.syncValue c cmd.waitId) cmd.waitValue = true) →
    r = resolve cmd (x.cnt cmd.idxCnt) → runPast (b.uses c r) = false → b.windowRoom c x = true →
    exec (.streamDecode c n) s = .next (s.commit (((b.setStream c n x.step).enter c n r).decoded c n x)))
  ∧ (∀ (s b : State) (c n : Nat) (x : Stream) (w : FrontWait), b = Claims.fresh s → b.stream c n = some x → x.wait = some w →
    w.satisfied = true →
    exec (.waitSatisfied c n) s = .next (s.commit (b.setStream c n { x with wait := some { w with reported := true } })))

/-- Each of the eight front commands completes on the state and operands of `Claims.fronts`.
CNT_SET, CNT_ADD and CMP_SET (R190, Table 7.10): the counter takes the value or the sum; the flag takes, or combines with, the
comparison of a counter with a counter or a value.
LOOP_BEGIN and LOOP_END (R191 to R193): a loop of a nonzero count opens, its index counter at 0, and one of count 0 is skipped; at its
end the last iteration closes it with count - 1 in the index counter, and any other goes back to the first command of the body with the
index counter at the next iteration.
SYNC_WAIT (R251): a wait whose condition holds completes; one whose condition does not hold is registered. SYNC_SIGNAL_ADD and
SYNC_SIGNAL_SET (R254): the command executes, and its signal is delivered with its record. -/
def Obligations.FrontCommandsComplete : Prop :=
  (∀ (s b : State) (c n : Nat) (cmd : SCmd) (x : Stream) (i : Nat), b = Claims.fresh s → i = cmd.imm → Claims.fronts b c n 1 cmd x →
    bits i 4 60 = 0 →
    exec (.cntSet c n cmd) s = .next (s.commit (Claims.fronted b c n cmd x (x.step.setCnt (i % 16) (BitVec.ofNat 64 (i / 2 ^ 64))))))
  ∧ (∀ (s b : State) (c n : Nat) (cmd : SCmd) (x : Stream) (i : Nat), b = Claims.fresh s → i = cmd.imm → Claims.fronts b c n 2 cmd x →
    bits i 5 3 = 0 → bits i 12 52 = 0 → (i.testBit 4 = true → i / 2 ^ 64 = 0) →
    exec (.cntAdd c n cmd) s = .next (s.commit (Claims.fronted b c n cmd x (x.step.setCnt (i % 16)
      (x.cnt (i % 16) + if i.testBit 4 then x.cnt (bits i 8 4) else BitVec.ofNat 64 (i / 2 ^ 64))))))
  ∧ (∀ (s b : State) (c n : Nat) (cmd : SCmd) (x : Stream) (i : Nat), b = Claims.fresh s → i = cmd.imm → Claims.fronts b c n 3 cmd x →
    bits i 4 3 < 6 → bits i 9 2 ≠ 3 → i.testBit 11 = false → bits i 19 45 = 0 → (i.testBit 8 = true → i / 2 ^ 64 = 0) →
    exec (.cmpSet c n cmd) s = .next (s.commit (
      let r := cmpHolds (bits i 4 3) (i.testBit 7) (x.cnt (i % 16)) (if i.testBit 8 then x.cnt (bits i 12 4) else BitVec.ofNat 64 (i / 2 ^ 64))
      let f := bits i 16 3
      let new := match bits i 9 2 with | 0 => r | 1 => x.flgs.testBit f && r | _ => x.flgs.testBit f || r
      Claims.fronted b c n cmd x { x.step with flgs := bitmap 8 (fun j => if j = f then new else x.flgs.testBit j) })))
  ∧ (∀ (s b : State) (c n : Nat) (cmd : SCmd) (x : Stream) (i count : Nat), b = Claims.fresh s → i = cmd.imm → Claims.fronts b c n 4 cmd x →
    bits i 6 2 = 0 → bits i 12 4 = 0 → i / 2 ^ 64 = 0 → (i.testBit 4 = true → bits i 16 32 = 0) → bits i 48 16 ≠ 0 →
    count = (if i.testBit 4 then (x.cnt (i % 16)).toNat else bits i 16 32) → count < 2 ^ 32 →
    (0 < count → x.loops.length < 4) →
    exec (.loopBegin c n cmd) s = .next (s.commit (
      let ix := if i.testBit 5 then some (bits i 8 4) else none
      let y := match ix with | some j => x.step.setCnt j 0 | none => x.step
      let l : Loop :=
        { folio := x.folio, slot := x.slot + 1, seq := x.seq, ord := x.ord, start := x.ix, beginOrd := x.ord, len := bits i 48 16
          left := count, iter := 0, index := ix }
      Claims.fronted b c n cmd x (if count = 0 then { x.step with skip := bits i 48 16 + 1 } else { y with loops := l :: x.loops }))))
  ∧ (∀ (s b : State) (c n : Nat) (cmd : SCmd) (x : Stream) (l : Loop) (rest : List Loop), b = Claims.fresh s → Claims.fronts b c n 5 cmd x →
    plainEnd cmd = true → x.loops = l :: rest → x.ix = l.start + l.len + 1 →
    exec (.loopEnd c n cmd) s = .next (s.commit (
      let y (v : Nat) : Stream := match l.index with | some j => x.step.setCnt j (BitVec.ofNat 64 v) | none => x.step
      Claims.fronted b c n cmd x (
        if l.left ≤ 1 then { y l.iter with loops := rest }
        else { y (l.iter + 1) with
          loops := { l with left := l.left - 1, iter := l.iter + 1 } :: rest, folio := l.folio, slot := l.slot, seq := l.seq, ord := l.ord
          ix := l.start + 1, loaded := x.kept.contains l.folio }))))
  ∧ (∀ (s b : State) (c n : Nat) (cmd : SCmd) (x : Stream), b = Claims.fresh s → Claims.fronts b c n 0x010 cmd x →
    cmd.wait = true → cmd.imm = 0 →
    exec (.syncWait c n cmd) s = .next (s.commit (Claims.fronted b c n cmd x x.step)))
  ∧ (∀ (s b : State) (c n : Nat) (cmd : SCmd) (x : Stream), b = Claims.fresh s → b.stream c n = some x → b.frontOpen c x = true →
    x.skip = 0 → cmd.op = 0x010 → b.encodingFault c x.wing true cmd = none →
    (cmd.pred = true → x.flgs.testBit cmd.predIdx ≠ cmd.predSense) → b.lostSpec c x.wing cmd = false → x.wait = none → cmd.wait = true →
    condHolds cmd.waitCond (b.syncValue c cmd.waitId) cmd.waitValue = false →
    exec (.syncWait c n cmd) s = .next (s.commit (
      let w : FrontWait := { id := cmd.waitId, cond := cmd.waitCond, value := cmd.waitValue, satisfied := false, reported := false }
      (b.setStream c n { x with wait := some w }).decoded c n x)))
  ∧ (∀ (s b : State) (c n : Nat) (cmd : SCmd) (x : Stream), b = Claims.fresh s → Claims.fronts b c n 0x011 cmd x → cmd.signal = true →
    bits cmd.imm 2 62 = 0 → cmd.imm % 4 = 0 → cmd.imm / 2 ^ 64 = 0 →
    exec (.syncSignalAdd c n cmd) s = .next (s.commit (Claims.fronted b c n cmd x x.step)))
  ∧ (∀ (s b : State) (c n : Nat) (cmd : SCmd) (x : Stream), b = Claims.fresh s → Claims.fronts b c n 0x011 cmd x → cmd.signal = true →
    bits cmd.imm 2 62 = 0 → cmd.imm % 4 = 1 → cmd.delta = 0 →
    exec (.syncSignalSet c n cmd) s = .next (s.commit (Claims.fronted b c n cmd x x.step)))

/-! Sync -/

/-- SYNC_MAP (R247, R259): unmapped IDs that fit a ready home are mapped there, as counters at their initial value or as a barrier's pair.
SYNC_UNMAP (R247, R267): whole, unused IDs return to their home. SYNC_READ (R247) and SYNC_UPDATE (R249): a mapped ID's value is returned,
or a counter's is updated at its home. -/
def Obligations.SyncCommandsComplete : Prop :=
  (∀ (s b : State) (m : Mbx) (c first count kind home : Nat) (init : W64) (expected : Nat), b = Claims.begun s m →
    Claims.begins s m { op := 0x0501 } c → 0 < count → first + count ≤ 4096 → homeForm home = true → (home.testBit 15 = false → count ≤ 32) →
    (List.range count).any (fun i => ((b.ctx c).sync.get (first + i)).isSome) = false →
    ((kind = 0 ∧ expected = 0) ∨ (kind = 1 ∧ first % 2 = 0 ∧ count % 2 = 0 ∧ 1 ≤ expected ∧ expected ≤ 65535)) → b.homeLost home = false →
    b.homeReady home = true → b.homeUsed home + count ≤ homeCapacity home →
    exec (.syncMap m first count kind home init expected) s = .next (s.commit (Claims.ended s m 0x0501 c [] (b.setCtx c { b.ctx c with
      sync := (List.range count).foldl (fun t i => t.put (first + i) (mappedAs kind home (first + i) expected init)) (b.ctx c).sync }))))
  ∧ (∀ (s b : State) (m : Mbx) (c first count : Nat) (ids : List Nat), b = Claims.begun s m → Claims.begins s m { op := 0x0502 } c →
    ids = (List.range count).map (· + first) → 0 < count → first + count ≤ 4096 →
    (∀ i ∈ ids, ∃ v, (b.ctx c).sync.get i = some v ∧ (v.kind = 1 → i + 1 ∈ ids) ∧ (v.kind = 2 → i - 1 ∈ ids)) →
    (∀ i ∈ ids, b.busyIds c i = true → (b.vsync c i).any (fun v => b.counterLost v) = true) →
    exec (.syncUnmap m first count) s = .next (s.commit (Claims.ended s m 0x0502 c [] (b.setCtx c { b.ctx c with
      sync := (b.ctx c).sync.filter (fun v => !ids.contains v.1) }))))
  ∧ (∀ (s b : State) (m : Mbx) (c id : Nat) (v : VSync), b = Claims.begun s m → Claims.begins s m { op := 0x0503 } c →
    b.vsync c id = some v → b.counterLost v = false →
    exec (.syncRead m id) s = .next (s.commit (Claims.ended s m 0x0503 c (leBytes 8 (b.syncValue c id).toNat) b)))
  ∧ (∀ (s b : State) (m : Mbx) (c id op : Nat) (value : W64) (v : VSync), b = Claims.begun s m → Claims.begins s m { op := 0x0504 } c →
    b.vsync c id = some v → op ≤ 1 → v.kind = 0 → b.counterLost v = false →
    exec (.syncUpdate m id op value) s = .next (s.commit (Claims.ended s m 0x0504 c [] (b.update c id (op == 1) value))))

/-- SYNC_WATCH (R253): a condition that holds completes with the value at once, and any other is registered, within the limits of 64 watches
a context and 1,024 in all. SYNC_WATCH_DEADLINE (R253): at its expiry tick the watch ends with NOT_READY and the value of that moment.
SYNC_WATCH_CANCEL (R247): the watch ends with STOPPED. -/
def Obligations.WatchesComplete : Prop :=
  (∀ (s b : State) (m : Mbx) (c id cond : Nat) (value : W64) (deadline : Nat) (v : VSync), b = Claims.begun s m →
    Claims.begins s m { op := 0x0505 } c → b.vsync c id = some v → cond < 7 → deadline < 2 ^ 40 → b.counterLost v = false →
    (b.ctx c).watches.length < 64 → b.watchCount < 1024 →
    exec (.syncWatch m id cond value deadline) s = .next (s.commit (
      if condHolds cond (b.syncValue c id) value then Claims.ended s m 0x0505 c (leBytes 8 (b.syncValue c id).toNat) b
      else
        let w : Watch :=
          { owed := Claims.owed s m 0x0505 c, id := id, cond := cond, value := value, start := b.time.now, deadline := deadline }
        b.setCtx c { b.ctx c with watches := (b.ctx c).watches ++ [w] })))
  ∧ (∀ (s b : State) (c tag : Nat) (w : Watch), b = Claims.fresh s →
    (b.ctx c).watches.find? (fun w => w.owed.tag == tag && w.deadline != 0 && decide (w.start + w.deadline ≤ b.time.now)) = some w →
    exec (.syncWatchDeadline c tag) s = .next (s.commit (b.endWatch c w .notReady (leBytes 8 (b.syncValue c w.id).toNat))))
  ∧ (∀ (s b : State) (m : Mbx) (c tag : Nat) (w : Watch), b = Claims.begun s m → Claims.begins s m { op := 0x0506 } c →
    (b.ctx c).watches.find? (fun w => w.owed.tag == tag) = some w →
    exec (.syncWatchCancel m tag) s = .next (s.commit (Claims.ended s m 0x0506 c [] (b.endWatch c w .stopped []))))

/-- BARRIER_RESET (R263): A and H are 0, G is the generation given, the state is OPEN, and the conditions registered on both counters of the
barrier are evaluated against it. -/
def Obligations.BarrierResetReopens : Prop :=
  ∀ (s b : State) (m : Mbx) (c id : Nat) (gen : W64) (v : VSync), b = Claims.begun s m → Claims.begins s m { op := 0x0507 } c →
    b.vsync c id = some v → v.kind = 1 → b.counterLost v = false →
    exec (.barrierReset m id gen) s = .next (s.commit (Claims.ended s m 0x0507 c []
      (((b.setVsync c id { v with value := gen, a := 0, h := 0, broken := false }).wake c id).wake c (id + 1))))

/-- BARRIER_ARRIVAL
(R261, Table 10.4): an arrival of the barrier's generation counts, one of the next generation is held, any other breaks the barrier; the
command completes with the outcome. COUNTER_UPDATE (R249): a counter takes the value or the sum, and its conditions are evaluated. -/
def Obligations.BarriersAndCountersComplete : Prop :=
  (∀ (s b t : State) (c n k id : Nat) (e e1 : Entry) (v : VSync) (st : Status), b = Claims.fresh s → b.entry c n k = some e →
    e.phase = .issued → e.cmd.op = 0x012 → e.fate = none → id = bits e.cmd.imm 0 12 → b.vsync c id = some v → b.counterLost v = false →
    (t, st) = (
      let d := (bits e.cmd.imm 16 32 + 2 ^ 32 - v.value.toNat % 2 ^ 32) % 2 ^ 32
      if v.broken then (b, .barrierOverrun)
      else if d = 0 then ((((b.setVsync c id { v with a := v.a + 1 }).advance c id 2).wake c id), .ok)
      else if d = 1 ∧ v.h + 1 ≤ v.e then (((b.setVsync c id { v with h := v.h + 1 }).wake c id), .ok)
      else (b.breakBarrier c id v, .barrierOverrun)) →
    t.entry c n k = some e1 →
    exec (.barrierArrival c n k) s = .next (s.commit (t.finish c n k e1 st)))
  ∧ (∀ (s b : State) (c id : Nat) (set : Bool) (value : W64) (v : VSync), b = Claims.fresh s → b.vsync c id = some v → v.kind = 0 →
    b.counterLost v = false →
    exec (.counterUpdate c id set value) s = .next (s.commit
      ((b.setVsync c id { v with value := if set then value else v.value + value }).wake c id)))

/-! Work commands: issue and completion -/

/-- The homomorphic commands (R95 to R119) and `he.refresh` (R130, R131) issue under their checks.
The lookup (R138 to R142) and share commands (R152 to R161) issue under their checks.
The transforms, the automorphism and the vector chain (R49 to R58, R207), the layout and copy commands (R208 to R224) and `bar.arrive`
(R260) issue under their checks. -/
def Obligations.WorkCommandsIssue : Prop :=
  (Claims.rowIssues .heAdd 0x100 anyImm chkAdd ∧ Claims.rowIssues .heSub 0x101 anyImm chkAdd ∧ Claims.rowIssues .heNeg 0x102 anyImm chkNeg
  ∧ Claims.rowIssues .heAddp 0x103 anyImm (chkPlain false) ∧ Claims.rowIssues .heSubp 0x104 anyImm (chkPlain false)
  ∧ Claims.rowIssues .heMulp 0x105 anyImm (chkPlain true) ∧ Claims.rowIssues .heMul 0x106 anyImm chkMul
  ∧ Claims.rowIssues .heRelin 0x107 anyImm (chkSwitch 3 kRelin) ∧ Claims.rowIssues .heRot 0x108 anyImm (chkSwitch 2 kGalois)
  ∧ Claims.rowIssues .heRoth 0x109 anyImm chkRoth ∧ Claims.rowIssues .heRescale 0x10A anyImm chkRescale
  ∧ Claims.rowIssues .heModdrop 0x10B anyImm chkModdrop ∧ Claims.rowIssues .heModraise 0x10C anyImm chkModraise
  ∧ Claims.rowIssues .heBconv 0x10D anyImm chkBconv ∧ Claims.rowIssues .heLin 0x10E anyImm chkLin
  ∧ Claims.rowIssues .heEncode 0x10F anyImm chkEncode
  ∧ Claims.rowIssues .heScaleConst 0x110 (fun i => bits i 72 2 == 0) chkScale
  ∧ Claims.rowIssues .heScaleDivide 0x110 (fun i => bits i 72 2 == 1) chkScale
  ∧ Claims.rowIssues .heScaleAlign 0x110 (fun i => bits i 72 2 == 2) chkScale
  ∧ Claims.rowIssues .heRefresh 0x111 anyImm chkRefresh)
  ∧ (Claims.rowIssues .luExtract 0x200 anyImm chkExtract ∧ Claims.rowIssues .luEval 0x201 anyImm chkEval
  ∧ Claims.rowIssues .luPack 0x202 anyImm chkPack ∧ Claims.rowIssues .shSplit 0x300 anyImm chkSplit
  ∧ Claims.rowIssues .shMulPrepare 0x301 (fun i => shPhase i == 0) chkMulPrepare
  ∧ Claims.rowIssues .shMulFinish 0x301 (fun i => shPhase i == 1) chkMulFinish ∧ Claims.rowIssues .shTriple 0x302 anyImm chkTriple
  ∧ Claims.rowIssues .shCmpOpen 0x303 (fun i => shPhase i == 0) chkCmpOpen
  ∧ Claims.rowIssues .shCmpReveal 0x303 (fun i => shPhase i == 1) chkCmpReveal
  ∧ Claims.rowIssues .shCmpFinish 0x303 (fun i => shPhase i == 2) chkCmpFinish
  ∧ Claims.rowIssues .shJoinReshare 0x304 (fun i => shPhase i == 0) chkReshare
  ∧ Claims.rowIssues .shJoinAdd 0x304 (fun i => shPhase i == 1) chkJoinAdd)
  ∧ (Claims.rowIssues .ntFwd 0x400 anyImm (chkTransform fwdPair (fun _ i => i == 0) false)
  ∧ Claims.rowIssues .ntInv 0x401 anyImm (chkTransform invPair (fun _ i => i == 0) false)
  ∧ Claims.rowIssues .pxAuto 0x402 anyImm (chkTransform (fun a d => a == d) (fun p i => decide (i % 2 = 1 ∧ i < 2 * p.n)) true)
  ∧ Claims.rowIssues .vcRun 0x403 anyImm chkVc
  ∧ Claims.rowIssues .stLayoutCopy 0x500 (fun i => bits i 0 2 == 0) (chkCopy false)
  ∧ Claims.rowIssues .stLayoutMul 0x500 (fun i => bits i 0 2 == 1) (chkCopy true)
  ∧ Claims.rowIssues .layCopyCopy 0x501 (fun i => bits i 0 2 == 0) (chkCopy false)
  ∧ Claims.rowIssues .layCopyGather 0x501 (fun i => bits i 0 2 == 1) (chkIndexed 1)
  ∧ Claims.rowIssues .layCopyScatter 0x501 (fun i => bits i 0 2 == 2) (chkIndexed 2)
  ∧ Claims.rowIssues .layCopyScatteradd 0x501 (fun i => bits i 0 2 == 3) (chkIndexed 3)
  ∧ Claims.rowIssues .barArrive 0x012 anyImm (fun s c _ e => s.chkArrive c e))

/-- COMMAND_COMPLETION (R69, R199, Table 4.7): a work command of a bay, or a refresh, with its slots, keys and every piece done runs and
ends with OK. REFRESH_PRIMITIVE_BOUNDARY
(R132): a refresh's primitive, its keys streamed and its pieces done, writes its register, and the next one is under way. -/
def Obligations.WorkCommandsEnd : Prop :=
  (∀ (s b t : State) (c n k : Nat) (x : Stream) (e e1 : Entry), b = Claims.fresh s → b.stream c n = some x → b.entry c n k = some e →
    (bayOp e.cmd.op = true ∨ e.cmd.op = 0x111) → b.mayRun c n k e = true → b.runEntry c n k x.wing e = .ok t →
    t.entry c n k = some e1 →
    exec (.commandCompletion c n k) s = .next (s.commit (t.endOk c n k x.wing e1)))
  ∧ (∀ (s b : State) (c n k : Nat) (x : Stream) (e : Entry) (jb : Job) (p : Plan) (q : ParamSet) (y : Prim) (rest : List Prim) (v : Ct),
    b = Claims.fresh s → b.stream c n = some x → b.entry c n k = some e → e.job = some jb → e.phase = .issued → e.fate = none →
    jb.prims = y :: rest → (b.ctx c).plans.get jb.plan = some p → e.keys = [] → e.todo = [] → b.hasPieces ⟨c, n, k⟩ = false →
    b.pset c p.set = some q → (y.op = 0x10C → b.hex.drbgError = false) →
    (jb.inCarrel = false → b.deny c (scratchRange p q jb).1 (scratchRange p q jb).2 = none) → b.primValue c e p q jb y = .ok v →
    exec (.refreshPrimitiveBoundary c n k) s = .next (s.commit (
      let jb1 : Job := { jb with prims := rest, regs := jb.regs.put y.d v }
      let e1 : Entry := match rest with
        | z :: _ => { e with job := some jb1, keys := p.primKeys z, level := ((jb1.regs.get z.a).map (fun u => u.level)).getD 0 }
        | [] => { e with job := some jb1, keys := jb.keys, level := jb.level }
      let t : State := if y.op = 0x10C then b.drew c x.wing 1 else b
      ((({ t with draw := t.draw + 1 } : State).setEntry c n k e1).startPieces x.wing c n k e1).wantPass x.wing c n k e1)))

/-! DMA -/

/-- DMA_CHANNEL_OPEN (R228): the lowest free channel of its kind opens on a ready wing, within the limits of a context.
DMA_CHANNEL_CLOSE: an idle channel of the context closes. DMA_CHANNEL_STOP (R240): an idle channel completes at once, and any other begins
to stop.
DMA_STOP_TAKES_EFFECT (R239, R240): a channel opened with BURST stops after a burst, one opened with DESCRIPTOR stops at the end of the
descriptor in flight and of its merged group. DMA_STOP_FORCED (R240): a DESCRIPTOR stop that has not taken effect becomes a BURST stop, and
its record says so. -/
def Obligations.ChannelCommandsAndStops : Prop :=
  ((∀ (s b : State) (m : Mbx) (c wing kind stop vector port window status i : Nat), b = Claims.begun s m →
    Claims.begins s m { op := 0x0601 } c → wing < 4 → kind ≤ 1 → stop ≤ 1 → vector ≤ 63 → (if portIx m.port = 0 then 4 else 1) ≤ vector →
    status % 64 = 0 → b.populated status = true → b.secretHit status 64 = false → window ≤ 255 →
    (port = 0xFF ∨ (kind = 1 ∧ port / 2 = wing ∧ (b.port port).present = true ∧ (b.port port).lost = false)) →
    (b.wing wing).ready = true → (b.stk (dpaStack status)).ready = true →
    (if kind = 1 then List.range 16 else (List.range 64).map (· + 16)).find? (fun i => (b.chan wing i).isNone) = some i →
    ((b.wing wing).chans.filter (fun h => h.2.ctx == c)).length < 16 →
    (kind = 1 → ((b.wing wing).chans.filter (fun h => h.2.ctx == c)).countP (fun h => h.2.bulk) < 8) →
    exec (.dmaChannelOpen m wing kind stop vector port window status) s = .next (s.commit (
      let ch : Channel :=
        { ctx := c, fn := portIx m.port, bulk := kind == 1, byDesc := stop == 1, vector := vector
          port := if port = 0xFF then none else some port, window := window, status := status }
      Claims.ended s m 0x0601 c [b8 i] (b.setWing wing { b.wing wing with chans := (b.wing wing).chans.put i ch }))))
  ∧ (∀ (s b : State) (m : Mbx) (c wing ch : Nat) (h : Channel), b = Claims.begun s m → Claims.begins s m { op := 0x0602 } c →
    b.ownChan c wing ch = some h → h.state = .idle →
    exec (.dmaChannelClose m wing ch) s = .next (s.commit (Claims.ended s m 0x0602 c []
      (b.setWing wing { b.wing wing with chans := (b.wing wing).chans.del ch }))))
  ∧ (∀ (s b : State) (m : Mbx) (c wing ch : Nat) (h : Channel), b = Claims.begun s m → Claims.begins s m { op := 0x0603 } c →
    b.ownChan c wing ch = some h →
    exec (.dmaChannelStop m wing ch) s = .next (s.commit (
      if h.state = .idle then Claims.ended s m 0x0603 c [] b
      else b.setChan wing ch { h with state := .stopping, stopOwed := h.stopOwed ++ [Claims.owed s m 0x0603 c] }))))
  ∧ ((∀ (s b : State) (w ch : Nat) (h : Channel) (x : Chain), b = Claims.fresh s → b.chan w ch = some h → h.chain = some x →
    h.state = .stopping →
    (h.byDesc = false → exec (.dmaStopTakesEffect w ch) s = .next (s.commit (b.stopBurst w ch false)))
    ∧ (h.byDesc = true → (x.flight = none ∨ b.canFinish w ch = true) → ∀ u, u = b.finishFlight w ch .pass →
      exec (.dmaStopTakesEffect w ch) s = .next (s.commit (
        if ((u.chan w ch).bind (fun h => h.chain)).any (fun y => y.flight.isSome && y.fault.isNone) then u
        else (u.finishGroup w ch 65536).stopHere w ch false)))
    ∧ (h.byDesc = true → ∀ f, x.flight = some f → b.canFinish w ch = false → x.done = 0 →
      b.slots.all (fun p => p.2.granted.all (fun r => r.who != chanWho h.ctx w ch)) = true →
      exec (.dmaStopTakesEffect w ch) s = .next (s.commit
        ((b.setChain w ch { x with flight := none, desc := some f.1, toTake := [] }).stopHere w ch false)))
    ∧ (h.byDesc = true → exec (.dmaStopForced w ch) s = .next (s.commit (b.stopBurst w ch true)))))

/-- DM_GO (R230, R231): with an idle channel that no earlier command waits for, and for a core channel a bay that may take it, the chain
starts. DESCRIPTOR_FETCH (R233 to R238, R241): the descriptor in flight completes when it can, its transfer checked, then the next, well
formed and allowed, is in flight and takes its slots. DMA_CHAIN_END (R232, R256): a chain with nothing left ends its command with OK, and
one that has failed ends it with the fault's status. -/
def Obligations.ChainsRun : Prop :=
  (∀ (s b : State) (c n k ch : Nat) (x : Stream) (e : Entry) (o : Option Status) (h : Channel), b = Claims.fresh s →
    b.issueReady c n k 0x502 = some (x, e, o) → b.chkGo c x e = .ok (ch, h) → (h.port.map b.portHeld).getD false = false →
    h.state = .idle → (h.bulk = true ∨ b.dmBays x.wing c ≠ []) → b.nextWaiting c h.waiting = none → b.chan x.wing ch = some h →
    exec (.dmGo c n k) s = .next (s.commit (
      let z : Chain := { stream := n, entry := k, desc := some (bits e.cmd.imm 0 48) }
      (b.setChan x.wing ch { h with waiting := [] }).startChain x.wing ch c n k z)))
  ∧ (∀ (s a b t : State) (w ch at_ : Nat) (data chk : Check) (g h : Channel) (x : Chain) (d : Desc) (bs : List Byte), a = Claims.fresh s →
    a.chan w ch = some g → g.state = .active → b = a.finishFlight w ch data → b.chan w ch = some h → h.chain = some x →
    x.desc = some at_ → x.flight = none → x.fault = none → (h.port.map (fun p => (b.port p).st != .active)).getD false = false →
    t = b.checked w at_ chk → t.descFault at_ chk h.port.isSome = none → bs = t.bytes at_ 64 → d = parseDesc bs →
    (t.secretSource h.ctx d && !t.secretDest h.ctx d h.port.isSome) = false →
    exec (.descriptorFetch w ch ⟨data, chk⟩) s = .next (s.commit (
      let y : Chain := { x with
        desc := if d.next = 0 then none else some d.next, flight := some (at_, bs), done := 0, toTake := d.slots h.port.isSome
        secret := t.secretSource h.ctx d
        group := match joins x.group d h.port.isSome with | some g => g | none => if d.single then [(d.src, d.dst, d.bytes)] else [] }
      (t.setChain w ch y).takeSlots w ch)))
  ∧ (∀ (s b t : State) (w ch : Nat) (data : Check) (h : Channel) (x : Chain), b = (Claims.fresh s).finishFlight w ch data →
    b.chan w ch = some h → h.chain = some x → x.desc = none → x.flight = none → x.fault = none → t = b.chainSignal w ch →
    t.chainDone w ch = true →
    exec (.dmaChainEnd w ⟨ch, data⟩) s = .next (s.commit (t.endChain w ch .ok false)))
  ∧ (∀ (s b : State) (w ch : Nat) (data : Check) (h : Channel) (x : Chain) (st : Status), b = (Claims.fresh s).finishFlight w ch data →
    b.chan w ch = some h → h.chain = some x → x.fault = some st →
    exec (.dmaChainEnd w ⟨ch, data⟩) s = .next (s.commit (b.endChain w ch st false)))

/-- SLOT_ACCESS_GRANT (R64): the oldest stalled request that the slot's tag allows is granted, and a channel it belongs to takes its next
slot. SLOT_ACCESS_END (R64): the access of a command that has run ends: a PUT fills the slot, a TAKE counts down, the last empties it. -/
def Obligations.SlotAccesses : Prop :=
  (∀ (s b : State) (k : Nat) (r : SlotReq), b = Claims.fresh s → (b.slot k).waiting.find? (b.slot k).grants = some r →
    exec (.slotAccessGrant k) s = .next (s.commit (
      let t : State := { b with slots := b.slots.put k { b.slot k with granted := (b.slot k).granted ++ [r], waiting := (b.slot k).waiting.erase r } }
      t.afterGrant r.who)))
  ∧ (∀ (s b t : State) (slot req c n k : Nat) (r : SlotReq) (x : Stream) (e : Entry), b = Claims.fresh s →
    (b.slot slot).granted[req]? = some r → r.who.2.1 = 0 → c = r.who.1 → n = r.who.2.2 / 2 ^ 40 → k = r.who.2.2 % 2 ^ 40 →
    b.stream c n = some x → b.entry c n k = some e → (bayOp e.cmd.op = true ∨ e.cmd.op = 0x111) → b.mayRun c n k e = true →
    b.runEntry c n k x.wing e = .ok t →
    exec (.slotAccessEnd slot req) s = .next (s.commit ((t.markSecret c n k e).endAccess slot r)))

/-! Stacks -/

/-- MEMORY_REQUEST (R281): a request of 1 to 256 bytes within a granule of the pseudo-channel joins its queue when there is room, and the
queue serves the oldest entry when it has waited 1 µs, else the first whose row is open, else the oldest. PATROL_SCRUB (R288): a patrol read of a block of a ready stack corrects
and detects as a request does.
RESHELVE_ROW (R294 to R296): a failing row with no entry is remapped to a good spare of the bank that has most, its failures counted,
with the advisory of the third, after the copy's reads have been checked. RESHELVE_LEDGER_RECORD (R294, R460): the entry is durable, one record per row. -/
def Obligations.StackRequestsAndReshelving : Prop :=
  ((∀ (s b : State) (r : Option MemReq) (stack pc failed : Nat) (q q1 : List (MemReq × Nat)) (e : MemReq × Nat), b = Claims.fresh s →
    q = (b.stk stack).queues.getD pc [] → (b.stk stack).lost = false → (b.stk stack).step < 5 → (b.stk stack).selfRefresh = false →
    (∀ z ∈ r, q.length < 32 ∧ dpaStack z.addr = stack ∧ dpaPc z.addr = pc ∧ 0 < z.len ∧ z.len ≤ 256 ∧ z.addr % 256 + z.len ≤ 256
      ∧ z.addr < 2 ^ 40 ∧ b.reachAt z.addr = none ∧ (b.stk stack).drained = false) →
    q1 = q ++ r.toList.map (fun z => (z, b.time.now)) → nextEntry (b.stk stack) b.time.now q1 = some e →
    exec (.memoryRequest r stack pc failed) s = .next (s.commit
      ((b.setStk stack { b.stk stack with queues := (b.stk stack).queues.put pc (q1.erase e) }).serve stack failed e.1)))
  ∧ (∀ (s b : State) (stack pc bank row block failed a : Nat), b = Claims.fresh s →
    a = rowDpa stack pc bank row (block / 4 % 4) + block % 4 * 64 → (b.stk stack).ready = true → pc < 64 → bank < 16 → stack < 16 →
    a % 2 ^ 36 < b.grade.stackBytes →
    exec (.patrolScrub stack pc bank row block failed) s = .next (s.commit ((b.stkCount stack 4 1).checkBlock a failed).1)))
  ∧ ((∀ (s a b t : State) (stack pc bank row sp key count : Nat) (reads : List (Nat × Nat)), a = Claims.fresh s → key = rowKey pc bank row →
    (a.stk stack).failing.contains key = true →
    b = reads.foldl (fun s q => (s.checkBlock (rowDpa stack pc bank row (q.1 / 4 % 4) + q.1 % 4 * 64) q.2).1) a →
    (b.stk stack).shelves.get key = none →
    t = b.setStk stack { b.stk stack with
      failing := (b.stk stack).failing.filter (· != key)
      tallies := (b.stk stack).tallies.put pc (((b.stk stack).tallies.getD pc []).filter (fun t => t.row != key)) } →
    t.pickSpare stack pc = some sp → ((b.stk stack).entriesOf pc).length < 256 → count = (b.stk stack).rowFails.getD key 0 + 1 →
    exec (.reshelveRow stack pc bank ⟨row, reads⟩) s = .next (s.commit (
      let e : Shelf := { spare := sp, count := count, hard := false, recorded := false }
      let u := (t.setStk stack { t.stk stack with shelves := (t.stk stack).shelves.put key e }).stkCount stack 12 1
      (if 3 ≤ count then u.advise stack bank row 1 else u).weedOnlyCheck ((List.range 64).any (fun p => b.weedOnly stack p)) stack pc)))
  ∧ (∀ (s b : State) (stack pc bank row : Nat) (e : Shelf), b = Claims.fresh s → (b.stk stack).shelves.get (rowKey pc bank row) = some e →
    exec (.reshelveLedgerRecord stack pc bank row) s = .next (s.commit (
      let at_ := [b8 pc, b8 bank] ++ leBytes 2 row
      let r := b.lrec 2 1 (stack / 4) stack (at_ ++ [if e.hard then 1 else 0, b8 e.count] ++ leBytes 2 e.spare)
      { b.setStk stack { b.stk stack with shelves := (b.stk stack).shelves.put (rowKey pc bank row) { e with recorded := true } } with
        ledger := { b.ledger with
          reshelves := b.ledger.reshelves.filter (fun r => !(r.unit == stack && r.detail.take 4 == at_)) ++ [r] } }))))

/-- STACK_THERMAL_READING (R298, R300, R301, Table 12.5): a stack in service takes the step of the reading; a change posts an event; T4
starts the drain; T5 loses the stack and switches its domain off.
STACK_DRAIN_END (R300): what is queued is served and the stack enters self-refresh. STACK_RESUME (R300, R303): at 95 °C or lower it
retrains and serves in the step of the reading. RETRAIN_SLICE (R303): the third failed slice in a row of a pseudo-channel posts an event. -/
def Obligations.StackThermalSteps : Prop :=
  (∀ (s b u : State) (stack new : Nat) (t : Int), b = Claims.fresh s → stack < 16 → b.power.st = .run → (b.stk stack).lost = false →
    new = nextStep (b.stk stack).step t → u = b.setStk stack { b.stk stack with temp := t, step := new } →
    (new = (b.stk stack).step → exec (.stackThermalReading stack t) s = .next (s.commit u))
    ∧ (new ≠ (b.stk stack).step → new < 4 →
      exec (.stackThermalReading stack t) s = .next (s.commit (u.stepEvent stack (b.stk stack).step new)))
    ∧ (new ≠ (b.stk stack).step → new = 4 → ∀ v, v = ((u.stepEvent stack (b.stk stack).step 4).abandonStackTest stack).abandonSnapshot stack →
      exec (.stackThermalReading stack t) s = .next (s.commit
        ((v.setStk stack { v.stk stack with ready := false, draining := true }).haltStackWork stack)))
    ∧ (new ≠ (b.stk stack).step → new = 5 → ∀ v d,
      v = (((u.stepEvent stack (b.stk stack).step 5).abandonStackTest stack).abandonSnapshot stack).loseStack stack 2 →
      d = stack / 4 * 18 + 12 + stack % 4 →
      exec (.stackThermalReading stack t) s = .next (s.commit (v.setDom d { v.dom d with on := false }))))
  ∧ ((∀ (s b u : State) (stack : Nat), b = Claims.fresh s → (b.stk stack).step = 4 → (b.stk stack).draining = true →
    u = ((b.stk stack).queues.flatMap (fun q => q.2)).foldl (fun s r => s.serve stack 0 r.1) (b.setStk stack { b.stk stack with queues := [] }) →
    exec (.stackDrainEnd stack) s = .next (s.commit (u.setStk stack { u.stk stack with draining := false, selfRefresh := true })))
  ∧ (∀ (s b : State) (stack : Nat) (t : Int), b = Claims.fresh s → (b.stk stack).step = 4 → (b.stk stack).selfRefresh = true → t ≤ 95 →
    exec (.stackResume stack t) s = .next (s.commit ((b.setStk stack { b.stk stack with
      step := stepMet t, temp := t, trainTemp := t, selfRefresh := false, ready := true, retrain := [] }).stepEvent stack 4 (stepMet t))))
  ∧ (∀ (s b u : State) (stack pc n : Nat) (ok : Bool), b = Claims.fresh s → (b.stk stack).ready = true → stack < 16 → pc < 64 →
    n = (if ok then 0 else (b.stk stack).retrain.getD pc 0 + 1) →
    u = (b.setStk stack { b.stk stack with
      retrain := (b.stk stack).retrain.put pc n, trainTemp := if ok then (b.stk stack).temp else (b.stk stack).trainTemp }).stkCount stack 15 1 →
    exec (.retrainSlice stack pc ok) s = .next (s.commit (if n = 3 then u.event .ok 6 0xFF [b8 stack, b8 pc] else u))))

/-! Ports: configuration, windows, flits -/

/-- GOLAT_PORT_CONFIG (R322): a port present and in service, without windows or channels, takes its configuration. LOAN_OPEN (R325): a
window over a range the context may lend takes the lowest free number. LOAN_CLOSE (R326): the context's window ends. -/
def Obligations.PortCommandsComplete : Prop :=
  (∀ (s b : State) (m : Mbx) (port role timeMode fwd localParty expected : Nat), b = Claims.begun s m →
    Claims.begins s m { op := 0x0801, tenant := false, ctx := .none } 255 → port < 8 → role ≤ 2 → timeMode ≤ 2 → fwd ≤ 1 →
    1 ≤ localParty → localParty < 2 ^ 32 → expected < 2 ^ 32 →
    (timeMode = 1 → role ≠ 2 ∧ ∀ q w, b.time.follow = some (q, w) → q = port) → (b.port port).present = true → (b.port port).lost = false →
    (b.port port).windows = [] → b.wings.any (fun w => w.2.chans.any (fun h => h.2.port == some port)) = false →
    exec (.golatPortConfig m port role timeMode fwd localParty expected) s = .next (s.commit
      (Claims.ended s m 0x0801 255 [] (b.configure port role timeMode fwd localParty expected))))
  ∧ (∀ (s b : State) (m : Mbx) (c port rights mode party base len sigFirst sigCount i : Nat), b = Claims.begun s m →
    Claims.begins s m { op := 0x0802 } c → port < 8 → 1 ≤ rights → rights < 16 → 1 ≤ party → party < 2 ^ 32 →
    b.windowRange c base len mode = true → (rights.testBit 3 = true → 1 ≤ sigCount ∧ sigFirst + sigCount ≤ 4096 ∧ (b.port port).role = 1) →
    (rights.testBit 3 = false → sigFirst = 0 ∧ sigCount = 0) → (b.port port).present = true → (b.port port).lost = false →
    ((b.port port).role = 1 ∨ (b.port port).role = 2) → b.rangeReady base len = true → b.windowsOf c < 64 →
    (List.range 256).find? (fun i => ((b.port port).windows.get i).isNone) = some i →
    exec (.loanOpen m port rights mode party base len sigFirst sigCount) s = .next (s.commit (
      let w : Window :=
        { ctx := c, rights := rights, put := mode / 4, party := party, base := base, len := len, sigFirst := sigFirst, sigCount := sigCount }
      Claims.ended s m 0x0802 c [b8 i] (b.setPort port { b.port port with windows := (b.port port).windows.put i w }))))
  ∧ (∀ (s b : State) (m : Mbx) (c port window : Nat) (w : Window), b = Claims.begun s m → Claims.begins s m { op := 0x0803 } c →
    port < 8 → (b.port port).windows.get window = some w → w.ctx = c →
    exec (.loanClose m port window) s = .next (s.commit (Claims.ended s m 0x0803 c [] (b.closeWindow port window))))

/-- The flits of an open window that has the right (R318, R321, R325): WRITE stores its granule, under the held MASK if there is one, and
counts in its transfer's tally; MASK is held for the WRITE after it; FETCH is answered with the granules; ACCH is held for the ACCUM flits
after it; an ACCUM that is taken is added into its bucket; SIG ends its transfer's PUTs and sets its tally's count. Each then leaves the
receive buffer and returns its credit. -/
def Obligations.WindowFlitsTakeEffect : Prop :=
  (∀ (s b u z v : State) (p : Nat) (f : Flit) (w : Window) (a k : Nat), b = (Claims.fresh s).askSlot p f → Claims.flitTurn b p 1 f u →
    (u.port p).refused.contains (f.window, f.transfer) = false → u.granted p f 0 = .ok w → u.granuleFault w f.index = none →
    (w.rights.testBit 3 = true → (u.port p).tallyRoom f.window f.transfer = true) → a = w.base + 256 * f.index → k = slotKey a →
    u.secretGranule a = false → (z, true) = (u.setPort p { u.port p with mask := none }).putReady p f w a →
    v = z.putGranule a (match (u.port p).mask with | some m => m.mask | none => 2 ^ 256 - 1) f.poison f.payload →
    exec (.write p f) s = .next (s.commit (
      ((if (z.port p).puts.contains (f.window, f.transfer, k) ∧ a % 4096 = 3840 then v.endPut p f.window f.transfer k else v).tallied
        p f w).freeRx p f)))
  ∧ (∀ (s b u : State) (p : Nat) (f : Flit) (w : Window), b = Claims.fresh s → Claims.flitTurn b p 2 f u →
    (u.port p).refused.contains (f.window, f.transfer) = false → u.granted p f 0 = .ok w → 256 * f.index + 256 ≤ w.len →
    exec (.mask p f) s = .next (s.commit (
      let m : HeldMask :=
        { window := f.window, transfer := f.transfer, index := f.index, seq := (f.seq + 1) % 4096, mask := leNat (f.payload.take 32) }
      (u.setPort p { u.port p with mask := some m }).freeRx p f)))
  ∧ (∀ (s b u : State) (p : Nat) (f : Flit) (w : Window) (n : Nat), b = Claims.fresh s → Claims.flitTurn b p 3 f u →
    (u.port p).refused.contains (f.window, f.transfer) = false → u.granted p f 1 = .ok w → n = fld f.payload 0 2 → 1 ≤ n → n ≤ 256 →
    256 * (f.index + n) ≤ w.len →
    ((List.range n).map (· + f.index)).any (fun i => (u.reachAt (w.base + 256 * i)).any (fun e => e != .thermalHalt)) = false →
    exec (.fetch p f) s = .next (s.commit ((u.fetchGranules p f w ((List.range n).map (· + f.index))).freeRx p f)))
  ∧ (∀ (s b u : State) (p : Nat) (f : Flit) (w : Window) (ds : List (List Byte)), b = Claims.fresh s → Claims.flitTurn b p 5 f u →
    (u.port p).refused.contains (f.window, f.transfer) = false → u.granted p f 2 = .ok w →
    ds = (List.range f.ndesc).map (fun i => (f.payload.drop (16 * i)).take 16) → ds.any (fun d => decide (3 < fld d 2 1)) = false →
    exec (.acch p f) s = .next (s.commit (
      let g : HeldAcch := { window := f.window, transfer := f.transfer, seq := (f.seq + 1) % 4096, descs := ds }
      (u.setPort p { u.port p with acch := some g }).freeRx p f)))
  ∧ (∀ (s b u : State) (p : Nat) (f : Flit) (w : Window) (a tag : Nat) (g : HeldAcch) (d : List Byte) (rest : List (List Byte)) (k : Block),
    b = Claims.fresh s → Claims.flitTurn b p 6 f u → (u.port p).refused.contains (f.window, f.transfer) = false → u.granted p f 2 = .ok w →
    a = w.base + 256 * f.index → 256 * f.index + 256 ≤ w.len → (u.reachAt a).any (fun e => e != .thermalHalt) = false →
    (u.port p).acch = some g → g.descs = d :: rest → tag = fld d 0 2 →
    k = { op := fld d 2 1, modulus := fld d 8 8, residue := fld d 4 2, count := fld d 6 2, poison := f.poison, data := f.payload } →
    (w.rights.testBit 3 = true → (u.port p).tallyRoom f.window f.transfer = true) →
    u.arrives w.ctx tag { port := p, window := f.window, transfer := f.transfer } (u.blockAt tag a) (fld d 3 1) k = .take →
    exec (.accum p f) s = .next (s.commit (
      let y : Port := { u.port p with acch := if rest.isEmpty then none else some { g with seq := (g.seq + 1) % 4096, descs := rest } }
      (((u.setPort p y).takeBlock tag { port := p, window := f.window, transfer := f.transfer } ((u.blockAt tag a).getD 0) k).tallied p f w).freeRx
        p f)))
  ∧ (∀ (s b u v : State) (p : Nat) (f : Flit) (w : Window), b = Claims.fresh s → Claims.flitTurn b p 7 f u →
    (u.port p).refused.contains (f.window, f.transfer) = false → (u.port p).role ≠ 2 → u.granted p f 3 = .ok w →
    (u.port p).tallyRoom f.window f.transfer = true →
    v = ((u.port p).puts.filter (fun x => (x.1, x.2.1) == (f.window, f.transfer))).foldl (fun s x => s.endPut p x.1 x.2.1 x.2.2) u →
    exec (.sig p f) s = .next (s.commit (
      let a := ((v.port p).tallyOf f.window f.transfer).getD
        { window := f.window, transfer := f.transfer, since := u.time.now, got := 0, want := none }
      let a1 : Arrival := { a with want := some (fld f.payload 0 4, fld f.payload 4 2, fld f.payload 8 4) }
      ((v.setPort p ((v.port p).setTally a1)).settle p a1).freeRx p f)))

/-- The other flits (R318, R320, R324, R328, R329): RDATA is discarded and counted, TNAK ends the sender's transfer and withdraws its
waiting flits, STAMP is taken on a port that forwards stamps, TIME is taken by a follower. TALLY_TIMEOUT (R257) discards an incomplete
tally after 10 ms and counts it. REFUSED_TRANSFER_DISCARD_END (R320): from 10 ms after the refusal the transfer's flits
are no longer discarded.
TIME_REPORT (R328): a server reports its partner's marker of logical lane 0. TIME_MEASUREMENT (R439): the port's follower takes a valid
offset: four within 100 ns acquire the server in one step, four in a row above 1 µs lose it, any other steers the timebase. -/
def Obligations.OtherFlitsAndTimeExchange : Prop :=
  ((∀ (s b u : State) (p : Nat) (f : Flit), b = Claims.fresh s → Claims.flitTurn b p 4 f u →
    exec (.rdata p f) s = .next (s.commit ((u.count 5 1).freeRx p f)))
  ∧ (∀ (s b u : State) (p : Nat) (f : Flit), b = Claims.fresh s → Claims.flitTurn b p 8 f u →
    exec (.tnak p f) s = .next (s.commit (
      let x := (u.port p).tally 26
      (((u.setPort p { x with queue := x.queue.filter (fun g => !([1, 2, 5, 6, 7].contains g.ftype && g.window == f.window
        && g.transfer == f.transfer)) }).endTransfer p f.window f.transfer (fld f.payload 4 4) (refusalOf (fld f.payload 0 1))).freeRx p f))))
  ∧ (∀ (s b u : State) (p : Nat) (f : Flit), b = Claims.fresh s → Claims.flitTurn b p 9 f u → (b.port p).role = 1 → (b.port p).forward = true →
    exec (.stamp p f) s = .next (s.commit (((u.setPort p ((u.port p).tally 27)).takeStamp p f.payload).freeRx p f)))
  ∧ (∀ (s b u t : State) (p : Nat) (f : Flit) (w : Follow), b = Claims.fresh s → Claims.flitTurn b p 0xA f u → (b.port p).role = 1 →
    (b.port p).timeMode = 1 → (b.port p).timeStopped = false →
    t = u.setPort p { u.port p with report := some (fld f.payload 0 2, fld f.payload 8 8) } → t.time.follow = some (p, w) →
    exec (.time p f) s = .next (s.commit (
      ({ t with time := { t.time with follow := some (p, { w with serverHold := fld f.payload 16 1 % 2 == 1 }) } } : State).freeRx p f)))
  ∧ (∀ (s b : State) (p window transfer : Nat) (a : Arrival), b = Claims.fresh s → (b.port p).tallyOf window transfer = some a →
    a.since + 10000000 ≤ b.time.now →
    exec (.tallyTimeout p window transfer) s = .next (s.commit ((b.setPort p ((b.port p).dropTally window transfer)).count 4 1)))
  ∧ (∀ (s b : State) (p window transfer : Nat), b = Claims.fresh s →
    (b.port p).refusedAt.getD (window * 65536 + transfer) 0 + 10000000 ≤ b.time.now →
    exec (.refusedTransferDiscardEnd p window transfer) s = .next (s.commit
      (b.setPort p { b.port p with refused := (b.port p).refused.erase (window, transfer)
                                   refusedAt := (b.port p).refusedAt.del (window * 65536 + transfer) }))))
  ∧ ((∀ (s b : State) (p l : Nat) (m : Marker), b = Claims.fresh s → (b.port p).st = .active → (b.port p).timeMode = 2 →
    (b.port p).timeStopped = false → (b.port p).markers.find? (fun m => m.2.logical == 0) = some (l, m) →
    exec (.timeReport p) s = .next (s.commit (b.send p [flitOf 0xA false 0 0 0
      (leBytes 2 m.superframe ++ zeros 6 ++ leBytes 8 m.arrive ++ [if b.holdover then 1 else 0])])))
  ∧ (∀ (s b : State) (p : Nat) (m : TimeMeas) (w : Follow) (th : Int), b = Claims.fresh s → b.time.follow = some (p, w) →
    (b.port p).st = .active → (b.port p).timeStopped = false → m.valid = true → th = (m.dIn - m.dOut) / 2 →
    exec (.timeMeasurement p m) s = .next (s.commit (
      if !w.acquired then
        let l := (th :: w.recent).take 4
        if l.length == 4 && l.all (fun a => l.all (fun c => decide ((a - c).natAbs ≤ 100))) then
          let t := ((b.time.now : Int) - th).toNat
          { b with time := { b.time with
            now := t, follow := some (p, { w with acquired := true, recent := [], far := 0, lastValid := t }) } }
        else { b with time := { b.time with follow := some (p, { w with recent := l, lastValid := b.time.now }) } }
      else
        let far := if 1000 < th.natAbs then w.far + 1 else 0
        if 4 ≤ far then
          { b with time := { b.time with follow := some (p, { w with acquired := false, recent := [], far := 0, lastValid := b.time.now }) } }
        else { b with
          draw := b.draw + 1
          time := { b.time with follow := some (p, { w with
            far := far, ppm := (Config.free b.draw 4 % 201 : Nat) - 100, lastValid := b.time.now }) } }))))

/-! Port links: training, lanes, retry, credits, receipt -/

/-- PORT_TRAINING_ADVANCE (R307, R310, R311): each training state gives way to the next; EQUALISE sets the equaliser's taps as the
partner asks; IDENTIFY that matches makes the lane maps from the
working lanes of both directions, ten and a spare at most, and clears what an earlier link left. PORT_TRAINING_TIMEOUT (R310): an exceeded
limit is FAILED. PORT_FAILED_RETRY (R310): after 1 s FAILED goes back to DETECT. PORT_LEAVES_ACTIVE (R330): what the link held ends. -/
def Obligations.PortTrains : Prop :=
  (∀ (s b : State) (p : Nat) (t : Train) (x : Port), b = Claims.fresh s → x = b.port p → x.present = true → x.lost = false → x.role ≠ 0 →
    (x.st = .detect → 9 ≤ t.rxLanes.length →
      exec (.portTrainingAdvance p t) s = .next (s.commit (b.setPort p { x with st := .equalise })))
    ∧ (x.st = .recover → exec (.portTrainingAdvance p t) s = .next (s.commit (b.setPort p { x with st := .equalise })))
    ∧ (x.st = .equalise → exec (.portTrainingAdvance p t) s = .next (s.commit (b.setPort p { x.equalised t.ffe with st := .identify })))
    ∧ (x.st = .identify → ∀ tx rx : List Nat, tx = addBlocks [] (t.txLanes.filter (fun l => decide (l < 11))) →
      rx = addBlocks [] (t.rxLanes.filter (fun l => decide (l < 11))) → 9 ≤ tx.length → 9 ≤ rx.length →
      (t.partnerRole = 1 ∨ t.partnerRole = 2) → (x.role = 2 → t.partnerRole ≠ 2) → (x.expected = 0 ∨ t.partnerParty = x.expected) →
      exec (.portTrainingAdvance p t) s = .next (s.commit (b.setPort p { x with
        st := .frame, partner := t.partnerParty, partnerRole := t.partnerRole
        txMap := tx.take 10, rxMap := rx.take 10, txSpare := decide (10 < tx.length), rxSpare := decide (10 < rx.length)
        txSpareLane := tx.getD 10 0, rxSpareLane := rx.getD 10 0, fewLanes := 0, markers := [], report := none, timeStopped := false
        txSeq := 0, rxSeq := 0, rx := [], queue := [], sent := [], credits := [], due := [], retrying := false, swapping := none, out := [] })))
    ∧ (x.st = .frame →
      exec (.portTrainingAdvance p t) s = .next (s.commit (b.setPort p ({ x with st := .init }.control creditInitPayload)))))
  ∧ (∀ (s b : State) (p : Nat), b = Claims.fresh s → ((b.port p).st = .equalise ∨ (b.port p).st = .identify ∨ (b.port p).st = .frame
      ∨ (b.port p).st = .init) →
    exec (.portTrainingTimeout p) s = .next (s.commit
      ((b.setPort p { b.port p with st := .failed, fewLanes := 0, failedAt := b.time.now }).event .ok 8 0xFF [b8 p, 8])))
  ∧ (∀ (s b : State) (p : Nat), b = Claims.fresh s → (b.port p).st = .failed → (b.port p).lost = false → (b.port p).role ≠ 0 →
    (b.port p).failedAt + 1000000000 ≤ b.time.now →
    exec (.portFailedRetry p) s = .next (s.commit (b.setPort p { b.port p with st := .detect })))
  ∧ (∀ (s b c : State) (p : Nat) (r : Bool) (st : PState) (x : Port), b = Claims.fresh s → x = b.port p → x.st = .active →
    st = (if r then .recover else .failed) →
    c = x.puts.foldl (fun s u => s.dropAccess (p, 2, u.1 * 2 ^ 16 + u.2.1)) ((({ b with time := b.time.portDown p } : State).setPort p { x with
      st := st, rx := [], queue := [], sent := [], credits := [], due := [], txSeq := 0, rxSeq := 0, retrying := false
      swapping := none, tallies := [], mask := none, acch := none, refused := [], refusedAt := [], puts := []
      failedAt := if st = .failed then b.time.now else x.failedAt }).count 4 x.tallies.length) →
    exec (.portLeavesActive p r) s = .next (s.commit (
      ((c.buckets.foldl (fun s b =>
        ((b.2.openC.filter (fun c => c.port == p)).foldl (fun s c => s.tear b.1 c .linkDown) s).closing b.1) c).downChains p).event
        .linkDown 8 0xFF [b8 p, b8 st.code])))

/-- LANE_FAIL (R313): a failed logical lane is recorded and LANE_SWAP asks the partner for its spare or for nine lanes; without either the
port recovers. LANE_SWAP (R313): the transmitter takes its spare, else goes on with nine lanes and answers with LANE_SWAP_ACK.
LANE_SWAP_ACK (R313): the receiver's map follows. LANE_MARKER (R308): a good marker of the partner is taken. -/
def Obligations.LanesSwap : Prop :=
  (∀ (s b c : State) (p lane : Nat) (x : Port), b = Claims.fresh s → x = b.port p → x.st = .active → x.swapping = none → lane ≠ 255 →
    lane < x.rxMap.length → c = b.laneRec p 1 (x.rxMap.getD lane 0) →
    ((x.rxSpare = true ∨ 10 ≤ x.rxMap.length) →
      exec (.laneFail p lane) s = .next (s.commit (c.setPort p ({ x with swapping := some lane }.control [0x03, b8 lane]))))
    ∧ (x.rxSpare = false → x.rxMap.length < 10 → exec (.laneFail p lane) s = .next (s.commit (c.portDown p 2))))
  ∧ (∀ (s b c : State) (p lane : Nat) (x : Port), b = Claims.fresh s → x = b.port p → x.st = .active → lane ≠ 255 →
    lane < x.txMap.length → c = b.laneRec p 0 (x.txMap.getD lane 0) →
    (x.txSpare = true → exec (.laneSwap p lane) s = .next (s.commit
      ((c.setPort p ({ x with txMap := x.txMap.set lane x.txSpareLane, txSpare := false }.control [0x04, b8 lane, b8 x.txSpareLane])).laneEvent
        p 0 lane x.txSpareLane)))
    ∧ (x.txSpare = false → x.txMap.length = 10 → exec (.laneSwap p lane) s = .next (s.commit
      ((c.setPort p ({ x with txMap := x.txMap.eraseIdx lane }.control [0x04, b8 lane, 0xFF])).laneEvent p 0 lane 0xFF).degrade))
    ∧ (x.txSpare = false → x.txMap.length < 10 → exec (.laneSwap p lane) s = .next (s.commit (c.portDown p 2))))
  ∧ (∀ (s b : State) (p lane phys : Nat) (x : Port), b = Claims.fresh s → x = b.port p → x.st = .active → x.swapping = some lane →
    lane ≠ 255 →
    (phys ≠ 255 → exec (.laneSwapAck p lane phys) s = .next (s.commit
      ((b.setPort p { x with swapping := none, rxMap := x.rxMap.set lane phys, rxSpare := false }).laneEvent p 1 lane phys)))
    ∧ (phys = 255 → exec (.laneSwapAck p lane phys) s = .next (s.commit
      ((b.setPort p { x with swapping := none, rxMap := x.rxMap.eraseIdx lane }).laneEvent p 1 lane 0xFF).degrade)))
  ∧ (∀ (s b : State) (p lane arrive : Nat) (bytes : List Byte) (x : Port), b = Claims.fresh s → x = b.port p →
    (x.st = .frame ∨ x.st = .init ∨ x.st = .active) → bytes.length = 272 →
    bytes.take 8 = [0x9A, 0x4F, 0xD2, 0x31, 0x6B, 0x0C, 0xE5, 0x78] → fld bytes 268 4 = crc32c (bytes.take 268) → fld bytes 8 1 = lane →
    fld bytes 12 4 = x.partner → ∀ m : Marker,
    m = { logical := fld bytes 9 1, superframe := fld bytes 10 2, party := fld bytes 12 4, depart := fld bytes 16 8
          holdover := fld bytes 24 1 % 2 == 1, arrive := arrive } →
    exec (.laneMarker p lane bytes arrive) s = .next (s.commit (b.setPort p { x with markers := x.markers.put lane m })))

/-- RETRY (R316): every flit from the one named goes out again, and a flit resent 16 times recovers the port. RETRY_REPEAT (R316, R317):
what is unanswered goes out again. CREDIT_INIT (R317): a port in INIT is ACTIVE with the partner's credits. DOWN (R317): the port leaves
ACTIVE for RECOVER. FLIT_RECEIVE (R314, R316): a good flit of the expected number is accepted, its acknowledgement and credits are taken;
one with a bad check code is counted, and it or one out of sequence is asked for again, once. -/
def Obligations.FlitsAreReceivedInOrder : Prop :=
  (∀ (s b : State) (p seq : Nat) (x : Port) (again kept : List (Flit × Nat)), b = Claims.fresh s → x = b.port p → x.st = .active →
    again = x.sent.dropWhile (fun e => e.1.seq != seq) → kept = x.sent.takeWhile (fun e => e.1.seq != seq) → again ≠ [] →
    (again.any (fun e => decide (15 ≤ e.2)) = false → exec (.retry p seq) s = .next (s.commit
      (b.setPort p (again.foldl (fun x e => (x.emit e.1).tally 4) { x with sent := kept ++ again.map (fun e => (e.1, e.2 + 1)) }))))
    ∧ (again.any (fun e => decide (15 ≤ e.2)) = true → exec (.retry p seq) s = .next (s.commit (b.portDown p 2))))
  ∧ (∀ (s b : State) (p : Nat) (x : Port), b = Claims.fresh s → x = b.port p →
    (x.st = .init → exec (.retryRepeat p) s = .next (s.commit (b.setPort p (x.control creditInitPayload))))
    ∧ (x.st = .active → x.retrying = true → x.swapping = none →
      exec (.retryRepeat p) s = .next (s.commit (b.setPort p (x.control ([0x01] ++ leBytes 2 x.rxSeq)))))
    ∧ (x.st = .active → x.retrying = false → ∀ l, x.swapping = some l →
      exec (.retryRepeat p) s = .next (s.commit (b.setPort p (x.control [0x03, b8 l])))))
  ∧ (∀ (s b : State) (p posted request response : Nat) (x : Port), b = Claims.fresh s → x = b.port p → x.st = .init →
    exec (.creditInit p posted request response) s = .next (s.commit
      (b.setPort p ({ x with st := .active, credits := [(0, posted), (1, request), (2, response)] }.null))))
  ∧ (∀ (s b : State) (p reason : Nat), b = Claims.fresh s → 1 ≤ reason → reason ≤ 3 →
    exec (.down p reason) s = .next (s.commit (b.leaveActive p .recover)))
  ∧ (∀ (s b : State) (p : Nat) (bytes : List Byte) (x : Port) (f : Flit), b = Claims.fresh s → x = b.port p → x.st = .active →
    bytes.length = 272 → f = parseFlit bytes → unsequenced f.ftype = false →
    (crc32c (bytes.take 268) = fld bytes 268 4 → flitForm bytes = true → f.seq = x.rxSeq →
      exec (.flitReceive p bytes) s = .next (s.commit (b.setPort p
        ((({ x with rx := x.rx ++ [f], rxSeq := (x.rxSeq + 1) % 4096, retrying := false }.takes bytes).tally 16).null))))
    ∧ (crc32c (bytes.take 268) = fld bytes 268 4 → flitForm bytes = true → f.seq ≠ x.rxSeq →
      exec (.flitReceive p bytes) s = .next (s.commit (b.setPort p x.missed)))
    ∧ (crc32c (bytes.take 268) ≠ fld bytes 268 4 →
      exec (.flitReceive p bytes) s = .next (s.commit ((b.setPort p (x.tally 21)).setPort p (x.tally 21).missed))))

/-! Weeding, the ledger's records, the mailbox, the registers -/

/-- PAGE_WEED (R289, R290): the page's queued requests are served, it is blocked, its reshelving entries released and its weed-list entry
written; a page already listed completes OK. WEED_LIST_READ (R291) and LEDGER_READ (R460) give as many entries as the buffer takes, with
their number and the total. -/
def Obligations.WeedAndLedgerCommandsComplete : Prop :=
  (∀ (s b u : State) (m : Mbx) (page reason : Nat) (list : List Weed), b = Claims.begun s m →
    Claims.begins s m { op := 0x0701, tenant := false, ctx := .none } 255 → b.ledger.ready = true → page % 65536 = 0 → page < 2 ^ 40 →
    page % 2 ^ 36 < b.grade.stackBytes → 1 ≤ reason → reason ≤ 3 → list = b.ledger.weeds.getD (dpaStack page) [] →
    (list.any (fun w => w.page == page / 65536) = true →
      exec (.pageWeed m page reason) s = .next (s.commit (Claims.ended s m 0x0701 255 [] b)))
    ∧ (list.any (fun w => w.page == page / 65536) = false → b.pageBusy page = false → list.length < 4096 →
      u = ((b.servePage page).setStk (dpaStack page) { (b.servePage page).stk (dpaStack page) with
        weeded := ((b.servePage page).stk (dpaStack page)).weeded ++ [page / 65536] }).releasePage page →
      exec (.pageWeed m page reason) s = .next (s.commit (Claims.ended s m 0x0701 255 [] { u with ledger := { u.ledger with
        weeds := u.ledger.weeds.put (dpaStack page)
          (list ++ [{ page := page / 65536, reason := reason, boot := b.ledger.boots, tick := b.stamp }]) } }))))
  ∧ (∀ (s b : State) (m : Mbx) (stack first : Nat) (all out : List Weed), b = Claims.begun s m →
    Claims.begins s m { op := 0x0702, tenant := false, ctx := .none, buf := true } 255 → b.ledger.ready = true → (stack < 16 ∨ stack = 255) →
    all = (if stack = 255 then (List.range 16).flatMap (fun k => b.ledger.weeds.getD k []) else b.ledger.weeds.getD stack []) →
    out = (all.drop first).take (m.buf.len / 16) → b.outBuf m (16 * out.length) = none →
    exec (.weedListRead m stack first) s = .next (s.commit
      (Claims.ended s m 0x0702 255 (leBytes 4 out.length ++ leBytes 4 all.length) (b.putBuf m.buf (out.flatMap Weed.bytes)))))
  ∧ (∀ (s b : State) (m : Mbx) (cls first : Nat) (all out : List LRec), b = Claims.begun s m →
    Claims.begins s m { op := 0x0103, tenant := false, ctx := .none, buf := true } 255 → b.ledger.ready = true →
    (cls = 1 ∧ all = b.ledger.errors.filter (fun r => !r.torn) ∨ cls = 2 ∧ all = b.ledger.reshelves.filter (fun r => !r.torn)
      ∨ cls = 3 ∧ all = b.ledger.ageing.filter (fun r => !r.torn) ∨ cls = 4 ∧ all = b.ledger.life.filter (fun r => !r.torn)) →
    out = (all.drop first).take (m.buf.len / 32) → b.outBuf m (32 * out.length) = none →
    exec (.ledgerRead m cls first) s = .next (s.commit
      (Claims.ended s m 0x0103 255 (leBytes 4 out.length ++ leBytes 4 all.length) (b.putBuf m.buf (out.flatMap LRec.bytes)))))

/-- The mailbox registers (R348, R355, R359): MBX_SQ_TAIL is kept; MBX_ENABLE set resets the indices, the phases and an error, and held
completions are posted, cleared it stops the fetching; MBX_CQ_HEAD frees entries; a passed phase limit stops the mailbox with BAD_COMMAND;
D3hot stops the function and D0 resumes it. SUBMISSION_FETCH (R355, R362): a ring access that fails stops the mailbox with ADDRESS_FAULT; a
new entry is taken off the ring, and its command begun with the operands that Table 15.12 names. -/
def Obligations.MailboxRegistersWork : Prop :=
  (∀ (s b : State) (p : MPort) (v : W32) (x : Mailbox), b = Claims.fresh s → x = b.mb (portIx p) → b.power.st = .run →
    exec (.mbxSqTail p v) s = .next (s.commit (b.setMb (portIx p) { x with sqTail := v.toNat % 4096 }))
    ∧ (v.getLsbD 0 = true → x.enable = false → exec (.mbxEnable p v) s = .next (s.commit
      ((b.setMb (portIx p) { x with
        enable := true, error := false, errCode := 0, sqHead := 0, sqTail := 0, cqHead := 0, cqTail := 0
        sqPhase := true, cqPhase := true }).drain (portIx p))))
    ∧ (v.getLsbD 0 = false → exec (.mbxEnable p v) s = .next (s.commit (b.setMb (portIx p) { x with enable := false })))
    ∧ exec (.mbxCqHead p v) s = .next (s.commit ((b.setMb (portIx p) { x with cqHead := v.toNat % 4096 }).drain (portIx p)))
    ∧ exec (.d3hotEntry p) s = .next (s.commit (b.setMb (portIx p) { x with d3 := true }))
    ∧ exec (.d0Entry p) s = .next (s.commit ((b.setMb (portIx p) { x with d3 := false }).drain (portIx p)))
    ∧ (b.mbxFetches (portIx p) = true → x.sqHead % x.sqDepth ≠ x.sqTail % x.sqDepth →
      exec (.mbxPhaseTimeout p) s = .next (s.commit (b.setMb (portIx p) { x with error := true, errCode := Status.badCommand.code }))))
  ∧ (∀ (s b : State) (p : MPort) (entry data : List Byte) (fault : BufFault) (x : Mailbox), b = Claims.fresh s → x = b.mb (portIx p) →
    b.mbxFetches (portIx p) = true → b.hex.moving.contains 0 = false → x.sqHead % x.sqDepth ≠ x.sqTail % x.sqDepth →
    (entry = [] → exec (.submissionFetch p entry data fault) s = .next (s.commit
      (b.setMb (portIx p) { x with error := true, errCode := Status.addressFault.code })))
    ∧ (entry.length = 64 → (fld entry 63 1 / 128 == 1) = x.sqPhase →
      ∀ (r : SubmitRow) (m : Mbx), submitRow (fld entry 0 2) = some r → entryClean entry (fld entry 0 2) r.fields = true →
      m = { port := p, context := fld entry 6 1, tag := fld entry 4 2, buf := {
        dev := fld entry 2 1 % 2 == 1, addr := fld entry 8 8, len := fld entry 16 4, data := data, fault := fault } } →
      exec (.submissionFetch p entry data fault) s = .next (s.commit
        (r.run m (r.fields.map (fun f => fld entry f.1 f.2)) (b.popSubmission (portIx p))))))

/-- The registers of the module (R348, R351, R353, R354, R356, R468): read-to-clear registers return and clear; a low half latches the high
half; a wrong width reads as ones, drops a write and is counted; IRQ_CAUSE clears the bits written as 1; a reserved CLKOUT selection sets
CKO_ERR; EVT_HEAD and EVT_RING_CTRL move the ring on; STP_TRIGGER raises the stamp with the next identifier; a buffer register restarts
the snapshot directory. -/
def Obligations.ModuleRegistersWork : Prop :=
  ∀ (s b : State), b = Claims.fresh s → b.power.st = .run →
    (∀ v : W32, exec (.evtHead v) s = .next (s.commit (({ b with evt := { b.evt with head := v.toNat % 4096 } } : State).evtDrain b.evt.held.length)))
    ∧ (∀ v : W32, exec (.evtRingCtrl v) s = .next (s.commit (({ b with evt := { b.evt with
        ctrl := v &&& 0x8000000F#32, phase := b.evt.phase || (v.getLsbD 31 && !b.evt.enabled) } } : State).evtDrain b.evt.held.length)))
    ∧ exec (.rcRegisterRead 0x201C) s = .next (s.commit
        { b with host := { b.host with readData := leBytes 4 b.evt.lost }, evt := { b.evt with lost := 0 } })
    ∧ (∀ j, j < 16 → exec (.rcRegisterRead (0x2100 + 4 * j)) s = .next (s.commit
        { b with host := { b.host with readData := leBytes 4 (b.evt.counts.getD j 0) }
                 evt := { b.evt with counts := b.evt.counts.put j 0 } }))
    ∧ (∀ (p : MPort) (off : Nat) (v : W64) (u : State), b.reg64 p off = some v →
      u = b.setMb (portIx p) { b.mb (portIx p) with latch := some (off + 4, BitVec.ofNat 32 (v.toNat / 2 ^ 32)) } →
      exec (.lowHalfRead p off) s = .next (s.commit { u with host := { u.host with readData := leBytes 4 v.toNat } }))
    ∧ (∀ (p : MPort), exec (.badWidthAccess p true) s = .next (s.commit (b.count 1 1))
      ∧ exec (.badWidthAccess p false) s = .next (s.commit
          { b.count 1 1 with host := { (b.count 1 1).host with readData := List.replicate 8 0xFF } }))
    ∧ (∀ v : W32, exec (.irqCause v) s = .next (s.commit { b with host := { b.host with irqCause := b.host.irqCause &&& ~~~v } }))
    ∧ (∀ v : W32, exec (.ckoCtrl v) s = .next (s.commit { b with host := { b.host with cko :=
        (if ckoRefused v.toNat = true then (v &&& 0x800F1FFF#32) ||| 0x40000000#32 else v &&& 0x800F1FFF#32) } }))
    ∧ (∀ v : W32, exec (.stpTrigger v) s = .next (s.commit (if v.getLsbD 0 then (b.stpCtrl v).localStamp else b.stpCtrl v)))
    ∧ (∀ (len : Bool) (v : W64), (b.stamps.busy = false → exec (.stpBufferWrite len v) s = .next (s.commit (b.bufWrite len v)))
      ∧ (b.stamps.busy = true → exec (.stpBufferWrite len v) s = .next (s.commit
          { b with stamps := { b.stamps with pendingBuf := b.stamps.pendingBuf ++ [(len, v)] } })))

/-- REGISTER_WRITE (R10, R348, R354): a register takes its writable bits and leaves the others: the event ring's base is a multiple of 4 KiB,
IRQ_MASK has five bits, STP_PERIOD 40; a mailbox base is written only while its mailbox is disabled; an offset that names no writable
register changes nothing. STAGING_READ and STAGING_WRITE (R349, R167): the window reaches device memory; what it does not serve reads as
ones and drops writes; a secret region is refused and counted; a secret carrel slot reads as ones (the model's choice, log entry 87); poisoned data is flagged. -/
def Obligations.RegisterAndStagingAccesses : Prop :=
  (∀ (s b : State) (v : W64), b = Claims.fresh s → b.power.st = .run →
    exec (.registerWrite .owner 0x2008 v) s = .next (s.commit { b with evt := { b.evt with base := v &&& ~~~0xFFF#64 } })
    ∧ exec (.registerWrite .owner 0x40004 v) s = .next (s.commit { b with host := { b.host with irqMask := v.truncate 32 &&& 0x1F#32 } })
    ∧ exec (.registerWrite .owner 0x30004 v) s = .next (s.commit { b with stamps := { b.stamps with nextId := v.truncate 32 } })
    ∧ exec (.registerWrite .owner 0x30008 v) s = .next (s.commit { b with stamps := { b.stamps with period := v &&& 0xFFFFFFFFFF#64 } })
    ∧ exec (.registerWrite .owner 0x30000 v) s = .next (s.commit (b.stpCtrl (v.truncate 32)))
    ∧ (∀ (p : MPort) (k : Nat), k = (if p = .owner then 0x10000 else 0) →
      ((b.mb (portIx p)).enable = false → exec (.registerWrite p k v) s = .next (s.commit
        (b.setMb (portIx p) { b.mb (portIx p) with sqBase := v &&& ~~~0xFFF#64 }))
        ∧ exec (.registerWrite p (k + 8) v) s = .next (s.commit
          (b.setMb (portIx p) { b.mb (portIx p) with cqBase := v &&& ~~~0xFFF#64 }))
        ∧ exec (.registerWrite p (k + 0x10) v) s = .next (s.commit
          (b.setMb (portIx p) { b.mb (portIx p) with size := v.truncate 32 &&& 0xF0F#32 })))
      ∧ ((b.mb (portIx p)).enable = true → ∀ r, r < 0x14 → exec (.registerWrite p (k + r) v) s = .next (s.commit b)))
    ∧ (∀ n j, j < 256 → exec (.registerWrite (.vf n) (0x8000 + 4 * j) v) s = .next (s.commit (b.msixWrite n j (v.truncate 32))))
    ∧ (∀ j, j < 256 → exec (.registerWrite .owner (0xF00000 + 4 * j) v) s = .next (s.commit (b.msixWrite 0 j (v.truncate 32))))
    ∧ (∀ off, off < 0x2000 → exec (.registerWrite .owner off v) s = .next (s.commit b)))
  ∧ (∀ (s b : State) (off len : Nat), b = Claims.fresh s → b.power.st = .run →
    (b.stageDpa off len = none → exec (.stagingRead off len) s = .next (s.commit
      { b with host := { b.host with readData := List.replicate len 0xFF, readPoison := false } }))
    ∧ ∀ a, b.stageDpa off len = some a →
      (b.stageServes a len = false → exec (.stagingRead off len) s = .next (s.commit
        { b with host := { b.host with readData := List.replicate len 0xFF, readPoison := false } }))
      ∧ (b.stageServes a len = true → b.secretSlotHit a len = true → exec (.stagingRead off len) s = .next (s.commit
        { b with host := { b.host with readData := List.replicate len 0xFF, readPoison := false } }))
      ∧ (b.stageServes a len = true → b.secretSlotHit a len = false → b.secretHit a len = true → exec (.stagingRead off len) s = .next (s.commit
        { b.count 2 1 with host := { (b.count 2 1).host with readData := List.replicate len 0xFF, readPoison := false } }))
      ∧ (b.stageServes a len = true → b.secretSlotHit a len = false → b.secretHit a len = false → b.poisoned a len = true →
        exec (.stagingRead off len) s = .next (s.commit
        { b with host := { b.host with readData := List.replicate len 0xFF, readPoison := true } }))
      ∧ (b.stageServes a len = true → b.secretSlotHit a len = false → b.secretHit a len = false → b.poisoned a len = false →
        exec (.stagingRead off len) s = .next (s.commit
          { b with host := { b.host with readData := b.bytes a len, readPoison := false } })))
  ∧ (∀ (s b : State) (off : Nat) (d : List Byte), b = Claims.fresh s → b.power.st = .run →
    (b.stageDpa off d.length = none → exec (.stagingWrite off d) s = .next (s.commit b))
    ∧ ∀ a, b.stageDpa off d.length = some a →
      (b.stageServes a d.length = false → exec (.stagingWrite off d) s = .next (s.commit b))
      ∧ (b.stageServes a d.length = true → b.secretHit a d.length = true → exec (.stagingWrite off d) s = .next (s.commit (b.count 2 1)))
      ∧ (b.stageServes a d.length = true → b.secretHit a d.length = false →
        exec (.stagingWrite off d) s = .next (s.commit (b.outWrite a d))))

/-! Buckets -/

/-- RED_ACCUM_OPEN (R335): an admitted `OPEN` places its bucket, zero-fills it, and the result card takes the template's bookkeeping,
POISON and, as every card the command writes, PENDING; a tag in its hold makes it wait. BUCKET_ZERO_FILL_DONE (Table 14.5): the bucket accepts and the `OPEN` completes OK.
BUCKET_TAG_HOLD_END (R335): 10 ms after the close the hold ends, and not before. -/
def Obligations.BucketsOpen : Prop :=
  (∀ (s b : State) (c n k tag : Nat) (x : Stream) (e : Entry) (u : Bucket), b = Claims.fresh s → b.reduceReady c n k 0 = some (x, e) →
    tag = raTag e.cmd.imm → b.chkOpen c n k e = .ok u → (b.opnd c e 0).any (fun t => t.poison) = false → b.bucket tag = none →
    b.buckets.countP (fun x => x.2.ctx == c) < 1024 →
    (b.tagHeld tag = false → exec (.redAccumOpen c n k) s = .next (s.commit (
      ((((({ b with buckets := b.buckets.put tag u } : State).zeroFill u.base (bucketBytes u.blocks)).modCard c u.result (fun d =>
        match b.opnd c e 0 with
        | some t => { d with level := t.level, scale := t.scale, accession := t.accession, floor := t.floor, poison := true }
        | none => { d with poison := true })).markPending c e true).setEntry c n k { e with phase := .issued, awaits := true }))))
    ∧ (b.tagHeld tag = true → b.tagWaits.contains (tag, c, n, k) = false →
      exec (.redAccumOpen c n k) s = .next (s.commit { b with tagWaits := b.tagWaits ++ [(tag, c, n, k)] })))
  ∧ (∀ (s b t : State) (tag n k : Nat) (u : Bucket) (e : Entry), b = Claims.fresh s → b.bucket tag = some u → u.state = .filling →
    u.aborted = false → u.opener = some (n, k) → t = b.setBucket tag { u with state := .accepting, opener := none } →
    t.entry u.ctx n k = some e → e.phase = .issued → e.fate = none →
    exec (.bucketZeroFillDone tag) s = .next (s.commit (t.finish u.ctx n k e .ok)))
  ∧ (∀ (s b : State) (tag : Nat), b = Claims.fresh s →
    (b.tagHeld tag = true → exec (.bucketTagHoldEnd tag) s = .next (s.commit b))
    ∧ (b.tagHeld tag = false → b.tagWaits.find? (fun w => w.1 == tag) = none →
      exec (.bucketTagHoldEnd tag) s = .next (s.commit
        { b with tagHolds := b.tagHolds.del tag, tagWaits := b.tagWaits.filter (fun w => w.1 != tag) })))

/-- RED_ACCUM_ADD (R336, R337): an admitted local `ADD` opens its contribution, is under way and asks for its source's slots; a remote one
takes its place on its bulk channel. RED_ACCUM_COLLECT (R342): the command waits for its bucket's closing. -/
def Obligations.ContributionsAndCollection : Prop :=
  (∀ (s b : State) (c n k nb : Nat) (x : Stream) (e : Entry) (a : Card) (p : ParamSet) (u : Bucket) (me : Contribution),
    b = Claims.fresh s → b.reduceReady c n k 1 = some (x, e) → b.chkAddForm c e = .ok (a, p, nb) → raChan e.cmd.imm = 0xFF →
    me = { port := 8, window := c, transfer := entryKey n k } → b.chkAddLocal c e a nb me = .ok u → b.openCount < 1024 →
    exec (.redAccumAdd c n k) s = .next (s.commit (
      (((b.expandSeed c (e.hnd 0)).setBucket (raTag e.cmd.imm) { u with openC := u.openC ++ [me] }).setEntry c n k
        { e with phase := .issued }).requestCard c n k a false)))
  ∧ (∀ (s b t : State) (c n k nb ch : Nat) (x : Stream) (e : Entry) (a : Card) (p : ParamSet) (h : Channel), b = Claims.fresh s →
    b.reduceReady c n k 1 = some (x, e) → b.chkAddForm c e = .ok (a, p, nb) → ch = raChan e.cmd.imm → ch ≠ 0xFF →
    b.ownChan c x.wing ch = some h → h.bulk = true → h.port.isSome = true → a.poison = false →
    t = b.onChannel x.wing ch c n k h { stream := n, entry := k, desc := none } →
    exec (.redAccumAdd c n k) s = .next (s.commit (
      match t.entry c n k with
      | some f => if f.phase = .issued then ((t.expandSeed c (e.hnd 0)).requestCard c n k a false).sendAdd c n k x.wing ch f a p nb else t
      | none => t)))
  ∧ (∀ (s b : State) (c n k : Nat) (x : Stream) (e : Entry) (u : Bucket), b = Claims.fresh s → b.reduceReady c n k 2 = some (x, e) →
    b.chkCollect c e = .ok u →
    exec (.redAccumCollect c n k) s = .next (s.commit
      (((b.setBucket (raTag e.cmd.imm) { u with collector := some (n, k) }).markPending c e true).setEntry c n k
        { e with phase := .issued, awaits := true })))

/-- BUCKET_ADMISSION_CLOSE and BUCKET_DEADLINE (Table 14.5): from tick D − G no contribution is admitted; at tick D every open one is torn
as LATE. BUCKET_CLOSE_PASS (R340, R343): the bucket is verified, and failed if a check does not hold; `MEAN` divides; it is closed. -/
def Obligations.BucketsClose : Prop :=
  ∀ (s b : State) (tag : Nat) (u : Bucket), b = Claims.fresh s → b.bucket tag = some u →
    (u.state = .accepting → u.deadline ≤ b.time.now + u.margin →
      exec (.bucketAdmissionClose tag) s = .next (s.commit ((b.setBucket tag { u with state := .closing }).closing tag)))
    ∧ ((u.state = .accepting ∨ u.state = .closing) → u.deadline ≤ b.time.now →
      exec (.bucketDeadline tag) s = .next (s.commit
        (((b.setBucket tag { u with state := .closing }).tearAll tag .late).closing tag)))
    ∧ (u.state = .verifying → (u.ended = true ∨ b.bucketUp u = false) → ∀ chk,
      exec (.bucketClosePass tag chk) s = .next (s.commit (b.setBucket tag { u with state := .closed, ended := true, closedAt := b.time.now })))
    ∧ (u.state = .verifying → u.ended = false → b.bucketUp u = true → u.torn.isNone = true → b.closeFails u = false → u.mean = false →
      exec (.bucketClosePass tag .pass) s = .next (s.commit (b.setBucket tag { u with state := .closed, failed := false, closedAt := b.time.now })))
    ∧ (u.state = .verifying → u.ended = false → b.bucketUp u = true → u.mean = true → u.torn.isNone = true → b.closeFails u = false →
      exec (.bucketClosePass tag .pass) s = .next (s.commit (
        match (b.divideAll tag u).bucket tag with
        | some v => (b.divideAll tag u).setBucket tag { v with state := .closed, failed := false, closedAt := b.time.now }
        | none => b.divideAll tag u)))

/-! Bays and key passes -/

/-- BAY_PULL (R70, R273): a bay with room pulls the oldest command that it may take of the next admitted context in turn; changing context
it releases its working slots and zeroes its tiles and LU's store. WEIGHT_UPDATE (R274): the weight of each bay is its cores times its mean rate times its thermal factor, and
its depth is four times its share of the largest weight, rounded. PIECE_COMPLETE (R69, R42, R449 to R452): an engine's piece that passes its check is counted, and the engine takes its
next one; one that fails its retry ends its command with
INTEGRITY_FAULT and marks its core suspect. -/
def Obligations.BaysWork : Prop :=
  (∀ (s b t : State) (bay w c n k : Nat) (e : Entry), b = Claims.fresh s → w = bay / 22 → b.bayUp bay = true → (b.bay bay).applying = false →
    (b.bay bay).drained = false → (b.bay bay).weight ≠ 0 → b.inFlight bay < (b.bay bay).depth →
    (((List.range 16).map (fun i => ((b.bay bay).last + 1 + i) % 16)).filter (fun c => (b.bay bay).entry.getLsbD c)).findSome?
      (fun c => (b.nextOf bay c).map (fun q => (c, q))) = some (c, n, k) →
    b.turnTo bay c = some t → ∀ u, u = t.setBay bay { t.bay bay with last := c } → u.entry c n k = some e →
    exec (.bayPull bay) s = .next (s.commit ((u.setEntry c n k { e with phase := .pulled, bay := some bay }).unqueue w c n k)))
  ∧ (∀ (s b : State) (wing m : Nat) (ix : List Nat), b = Claims.fresh s →
    ix = ((List.range 22).map (· + wing * 22)).filter (fun i => b.bayUp i) → m = (ix.map b.bayWeight).foldl max 0 →
    exec (.weightUpdate wing) s = .next (s.commit (ix.foldl (fun t i => t.setBay i { t.bay i with
        eb := popcount 16 (t.bay i).cores, weight := b.bayWeight i * 65536 / 1500000
        depth := if m = 0 then 1 else max 1 ((8 * b.bayWeight i + m) / (2 * m)) }) b)))
  ∧ (∀ (s b u : State) (bay core c n k i : Nat) (en : Engine) (lane : Option Nat) (e : Entry), b = Claims.fresh s → b.entry c n k = some e →
    e.phase = .issued → core < 16 → (b.bay bay).cores.testBit core = true → b.workingOn bay core en ⟨c, n, k⟩ = some i →
    u = (b.pieceDone i (engineCode en) ⟨c, n, k⟩).tallyBay bay 93 →
    exec (.pieceComplete bay core en c n k .pass lane) s = .next (s.commit u)
    ∧ (en ≠ .mx → exec (.pieceComplete bay core en c n k .fail lane) s = .next (s.commit
        ((((u.tallyBay bay 96).setFate c n k .integrityFault).faultRec (bay / 22) (bay % 22) core 3 0xFF).suspectCore bay core))))

/-- GATHER_WINDOW_EXPIRE (R92): at the end of its window the pass closes. PASS_HEADER_CHECK (R93): with its four header pages intact and of its key the pass goes on;
an integrity failure and a foreign identity end it. KEY_BLOCK_RELEASE (R90, R94): the next block is released into the key buffers once each has room, and after the last every
subscriber goes on to its next key. -/
def Obligations.KeyPassesRun : Prop :=
  (∀ (s b : State) (wing pass : Nat) (q : Pass), b = Claims.fresh s → (b.wing wing).passes.get pass = some q →
    q.opened + q.window ≤ b.time.now →
    exec (.gatherWindowExpire wing pass) s = .next (s.commit
      (b.setWing wing { b.wing wing with passes := (b.wing wing).passes.put pass { q with closed := true } })))
  ∧ (∀ (s b : State) (wing pass : Nat) (q : Pass) (cd : Card), b = Claims.fresh s → (b.wing wing).passes.get pass = some q →
    b.card q.key.1 q.key.2 = some cd → q.checked = false →
    (∀ i, i < 4 → b.reach (cd.extents.getD i 0) 65536 = none ∧ b.poisoned (cd.extents.getD i 0) 65536 = false) →
    ((∀ i, i < 4 → pageIntact (b.bytes (cd.extents.getD i 0) 96) i = true) →
      (∀ i, i < 4 → pageIs (b.bytes (cd.extents.getD i 0) 96) cd = true) →
      exec (.passHeaderCheck wing pass .pass) s = .next (s.commit
        (b.setWing wing { b.wing wing with passes := (b.wing wing).passes.put pass { q with checked := true, retried := false } })))
    ∧ ((∀ i, i < 4 → pageIntact (b.bytes (cd.extents.getD i 0) 96) i = true) →
      (∃ i, i < 4 ∧ pageIs (b.bytes (cd.extents.getD i 0) 96) cd = false) →
      exec (.passHeaderCheck wing pass .pass) s = .next (s.commit (b.endPass wing pass .keyMismatch)))
    ∧ ((∃ i, i < 4 ∧ pageIntact (b.bytes (cd.extents.getD i 0) 96) i = false) →
      exec (.passHeaderCheck wing pass .pass) s = .next (s.commit (b.endPass wing pass .integrityFault))))
  ∧ (∀ (s a b t u : State) (wing pass failed j m : Nat) (q : Pass) (cd : Card) (p : ParamSet), a = Claims.fresh s →
    b = { (((a.wing wing).passes.get pass).map Pass.bays |>.getD []).foldl State.drainKeys a with draw := a.draw + 1 } →
    (b.wing wing).passes.get pass = some q → b.card q.key.1 q.key.2 = some cd → b.pset q.key.1 cd.set = some p → q.closed = true →
    q.checked = true → q.blocks[q.next]? = some j → m = blockBytes p cd.keyKind cd.aux → b.reach (blockAddr p cd j) m = none →
    (∀ i ∈ q.bays, (b.bay i).keyBytes + landed cd m ≤ 0x200000) → (t, false) = b.readKeyBlock (blockAddr p cd j) m failed →
    u = q.bays.foldl (fun s i => s.setBay i { s.bay i with keyBuf := (s.bay i).keyBuf ++ [(pass, landed cd m)] }) t →
    exec (.keyBlockRelease wing pass failed) s = .next (s.commit (
      if q.next + 1 < q.blocks.length then
        u.setWing wing { u.wing wing with passes := (u.wing wing).passes.put pass { q with next := q.next + 1 } }
      else (((q.subs.map (fun x => (x.1, x.2.1, x.2.2.1))).eraseDups).foldl (fun s x => s.keyDone x.1 x.2.1 x.2.2)
        (u.setWing wing { u.wing wing with passes := (u.wing wing).passes.del pass })).wantPasses wing)))

/-! Stamps and snapshots -/

/-- STAMP_PERIOD (R468): a periodic stamp. STAMP_APPLY (R469, R470): at its tick a stamp names itself and latches a snapshot in the
next slot that fits; one that finds no usable buffer is lost. SNAPSHOT_DONE (R471, R472): when 65.536 GB/s have had time for its bytes the slot stands in the buffer, the directory names the
next one, the owner is interrupted. TRACE_HEADER_UPDATE (R474): the rings' headers follow. -/
def Obligations.StampsAndSnapshots : Prop :=
  (∀ (s b : State), b = Claims.fresh s → b.stamps.periodic = true → 0 < b.stamps.period.toNat →
    b.stamps.periodStart + b.stamps.period.toNat ≤ b.time.now →
    exec .stampPeriod s = .next (s.commit (({ b with stamps := { b.stamps with
      periodStart := b.stamps.periodStart + b.stamps.period.toNat } } : State).localStamp)))
  ∧ (∀ (s b t : State) (i : StampInfo) (rest : List StampInfo) (mask z : Nat), b = Claims.fresh s → b.stamps.waiting = i :: rest →
    i.apply ≤ b.time.now → b.stamps.busy = false →
    t = { b with stamps := { b.stamps with
      waiting := rest, lastId := BitVec.ofNat 32 i.id, lastTick := i.origin, overrun := false } } →
    mask = b.num b.stamps.bufBase.toNat 16 % 2 ^ 88 → z = 0x1C000 + 0x4000 * (detailBays mask).length →
    ((t.bufUsable = false ∨ b.stamps.bufLen.toNat < 0x1000 + z) → exec .stampApply s = .next (s.commit
      { t with stamps := { t.stamps with overrun := true, lostOne := true } }))
    ∧ (t.bufUsable = true → 0x1000 + z ≤ b.stamps.bufLen.toNat → exec .stampApply s = .next (s.commit { t with
        draw := b.draw + 1
        stamps := { t.stamps with
          busy := true, lostOne := false, latchedAt := i.apply
          latched := some (if b.stamps.next + z ≤ b.stamps.bufLen.toNat then b.stamps.next else 0x1000,
            b.snapshot i (BitVec.ofNat 64 (i.apply % 2 ^ 63 + if b.holdover then 2 ^ 63 else 0)) mask) } })))
  ∧ (∀ (s b t : State) (off : Nat) (d : List Byte), b = Claims.fresh s → b.stamps.latched = some (off, d) →
    t = b.write (b.stamps.bufBase.toNat + off) d →
    b.stamps.latchedAt * 65536 + d.length * 1000 ≤ b.time.now * 65536 →
    exec .snapshotDone s = .next (s.commit (b.stamps.pendingBuf.foldl (fun s w => s.bufWrite w.1 w.2)
      (({ t with stamps := { b.stamps with
        latched := none, busy := false, written := b.stamps.written + 1, pendingBuf := []
        next := if off + d.length < b.stamps.bufLen.toNat then off + d.length else 0x1000 } } : State).writeDir.irq 3 3))))
  ∧ (∀ (s b : State), b = Claims.fresh s → exec .traceHeaderUpdate s = .next (s.commit b.traceHeader))

/-! Feeds, resets by contact, the governor, thermal limits, ageing -/

/-- FEED_PRESENT (R401, R415): a feed in range becomes present and its limiter charges. FEED_LOST (R415, R418): outside 39 to 61 V it is not
present. INRUSH_LIMITER_DONE, INRUSH_TIMEOUT and INRUSH_RETRY (R486): charging ends, or the feed is disconnected and tried again. The current
limit is 40 A times each present voltage, the limit in force the least of the three (R416). Beyond 64 V no behaviour is stated (R484,
Table 22.3): the row ends in the fault stressBeyondRatings. -/
def Obligations.FeedsComeAndGo : Prop :=
  ∀ (s b : State) (feed mv : Nat) (f : Feed), b = Claims.fresh s → f = b.feed feed → feed < 2 →
    (mv ≤ 64000 → f.present = false → f.limiter ≠ .waitRetry → f.inRange mv = true →
      exec (.feedPresent feed mv) s = .next (s.commit (b.feedIn feed mv)))
    ∧ (mv ≤ 64000 → f.present = true → (mv < 39000 ∨ 61000 < mv) → exec (.feedLost feed mv) s = .next (s.commit
        (b.feedOut feed { f with mv := mv, present := false, limiter := .idle, was := if mv < 39000 then 1 else 2 })))
    ∧ (64000 < mv → exec (.feedPresent feed mv) s = .fault .stressBeyondRatings ∧ exec (.feedLost feed mv) s = .fault .stressBeyondRatings)
    ∧ (f.limiter = .charging →
      exec (.inrushLimiterDone feed) s = .next (s.commit (b.setFeed feed { f with limiter := .done }))
      ∧ exec (.inrushTimeout feed) s = .next (s.commit (b.feedOut feed { f with present := false, limiter := .waitRetry })))
    ∧ (f.limiter = .waitRetry →
      exec (.inrushRetry feed) s = .next (s.commit
        (if f.inRange f.mv then b.feedIn feed f.mv else b.setFeed feed { f with limiter := .idle })))
    ∧ (∀ (a c : Nat) (u : State),
      u = { b with power := { b.power with
        feedA := if b.power.feedA.present then { b.power.feedA with mv := a } else b.power.feedA
        feedB := if b.power.feedB.present then { b.power.feedB with mv := c } else b.power.feedB } } →
      ∀ l, l = (if b.power.feedA.present then 40 * a else 0) + (if b.power.feedB.present then 40 * c else 0) →
      ∀ m, m = min b.power.setLimit (min b.power.feedLimit (l / 1000)) →
      ∀ v : State, v = { u with power := { u.power with curLimit := l, limit := m } } →
      exec (.currentLimitUpdate a c) s = .next (s.commit
        (if b.power.st = .run ∧ (b.power.limit + 50 ≤ m ∨ m + 50 ≤ b.power.limit) then
          v.event .ok 0x10 0xFF ([b8 v.feeds] ++ leBytes 2 m) else v)))

/-- POWER_GOOD (R401): the always-on domains come up, PRSNT_N is driven low and an early release takes effect. PERST_N_ASSERT (R407): a warm
reset. PERST_N_RELEASE (R401, R402): bring-up starts, or waits for power. VIO_SB_CHANGE (R489): below 1.0 V SDA is open-drain. -/
def Obligations.ContactsBringUpAndReset : Prop :=
  ∀ (s b : State), b = Claims.fresh s →
    (b.power.st = .starting → ∀ u v : State, u = [72, 76, 79].foldl (fun s d => s.setDom d { s.dom d with on := true }) b →
      v = { u with power := { u.power with st := .standby, prsnt := true } } →
      exec .powerGood s = .next (s.commit (if v.power.earlyRelease then v.tryBringUp else v)))
    ∧ (∀ u : State, u = { b with power := { b.power with perst := true, earlyRelease := false } } →
      ((b.power.st = .off ∨ b.power.st = .starting) → exec .perstNAssert s = .next (s.commit u))
      ∧ ((b.power.st = .standby ∨ b.power.st = .run) → exec .perstNAssert s = .next (s.commit
        (let r := u.resetTo .standby
         { r with power := { r.power with ckoDriven := true }, time := {} }))))
    ∧ (∀ u : State, u = { b with power := { b.power with perst := false } } →
      (b.power.st = .standby → exec .perstNRelease s = .next (s.commit u.tryBringUp))
      ∧ ((b.power.st = .starting ∨ b.power.st = .off) → exec .perstNRelease s = .next (s.commit
        { u with power := { u.power with earlyRelease := true } }))
      ∧ (b.power.st = .run → exec .perstNRelease s = .next (s.commit u)))
    ∧ (∀ mv, exec (.vioSbChange mv) s = .next (s.commit
        { b with power := { b.power with vio := mv, sdaOpenDrain := decide (mv < 1000) } }))

/-- VOLTAGE_LOOP_STEP (R422, R424, R425): 5 mV up while the rate is below its setpoint and the power and temperature allow it, 5 mV down
while it is more than 1 percent above, within 850 mV and the rail's floor. GOVERNOR_UPDATE (R418, R423, R424). JUNCTION_READING (R425, R426,
Table 18.4): the row of the reading; 115 °C loses a wing or shuts the module down. AGEING_MEASUREMENT (R427): the age index is the largest
drift and never falls. AGEING_DAILY_RECORD (R427, R428): the record is written, and an index above 125 is end of life. -/
def Obligations.LoopsAndLimits : Prop :=
  (∀ (s b : State) (dom rate : Nat) (d : Domain), b = Claims.fresh s → d = b.dom dom → dom < 80 → d.on = true → fixedDomain dom = false →
    ∀ v, v = { d with
      rate := rate
      powerTicks := d.powerTicks + (if d.paced then 10000 else 0)
      thermalTicks := d.thermalTicks + (if d.hot = 3 then 10000 else 0) } →
    (rate < d.setpoint → b.power.inputMw < 1000 * b.power.limit → d.hot < 2 → d.rail + 5 ≤ 850 →
      exec (.voltageLoopStep dom rate) s = .next (s.commit (b.setDom dom { v with rail := d.rail + 5 })))
    ∧ (rate < d.setpoint → (1000 * b.power.limit ≤ b.power.inputMw ∨ 2 ≤ d.hot ∨ 850 < d.rail + 5) →
      exec (.voltageLoopStep dom rate) s = .next (s.commit (b.setDom dom v)))
    ∧ (101 * d.setpoint < 100 * rate → railFloor dom + 5 ≤ d.rail →
      exec (.voltageLoopStep dom rate) s = .next (s.commit (b.setDom dom { v with rail := d.rail - 5 })))
    ∧ (d.setpoint ≤ rate → (100 * rate ≤ 101 * d.setpoint ∨ d.rail < railFloor dom + 5) →
      exec (.voltageLoopStep dom rate) s = .next (s.commit (b.setDom dom v))))
  ∧ (∀ (s b : State) (mw : Nat) (l : List Nat), b = Claims.fresh s →
    exec (.governorUpdate mw l) s = .next (s.commit (b.govern mw l b.pairBusy)))
  ∧ (∀ (s b u : State) (dom : Nat) (t outlet : Int) (d : Domain), b = Claims.fresh s → d = b.dom dom → dom < 80 → b.power.st = .run →
    u = b.setDom dom { d with
      tj := t, tjMax := max d.tjMax t, hot := nextRow d.hot t
      rail := if nextRow d.hot t = 3 ∧ railFloor dom + 5 ≤ d.rail ∧ fixedDomain dom = false then d.rail - 5 else d.rail } →
    ∀ v : State, v = { u with power := { u.power with outlet := outlet } } →
    (t < 115 → outlet < 750 → exec (.junctionReading dom t outlet) s = .next (s.commit v))
    ∧ ((750 ≤ outlet ∨ 72 ≤ dom ∧ 115 ≤ t) → exec (.junctionReading dom t outlet) s = .next (s.commit v.thermalShutdown))
    ∧ (outlet < 750 → dom < 72 → 115 ≤ t → exec (.junctionReading dom t outlet) s = .next (s.commit (v.loseWing (dom / 18) 3))))
  ∧ (∀ (s b : State) (dom : Nat) (l : List Nat), b = Claims.fresh s → dom < 80 → fixedDomain dom = false → (b.dom dom).on = true →
    exec (.ageingMeasurement dom l) s = .next (s.commit (b.setDom dom { b.dom dom with age := l.foldl max (b.dom dom).age })))
  ∧ (∀ (s b u : State) (dom c : Nat) (d : Domain), b = Claims.fresh s → d = b.dom dom → dom < 80 → fixedDomain dom = false →
    c = (if 125 < d.age ∧ (isBayPair dom = true ∨ isNoc dom = true) then min d.ceiling (rateAt (850 - d.age) rate105) else d.ceiling) →
    u = b.setDom dom { d with ceiling := c, tjMax := d.tj } →
    ∀ (r : LRec) (v : State),
    r = b.lrec 3 1 (if dom < 72 then dom / 18 else 0xFF) dom (leBytes 2 d.age ++ intBytes 1 d.tjMax ++ [b8 (c / 10)]) →
    v = { u with ledger := { u.ledger with ageing := ringPush 49152 u.ledger.ageing r } } →
    (d.age ≤ 125 → exec (.ageingDailyRecord dom) s = .next (s.commit v))
    ∧ (125 < d.age → (isBayPair dom = true ∨ isNoc dom = true) → exec (.ageingDailyRecord dom) s = .next (s.commit v.degrade))
    ∧ (125 < d.age → dom < 72 → 12 ≤ dom % 18 → dom % 18 < 16 →
      exec (.ageingDailyRecord dom) s = .next (s.commit (v.loseStack (dom / 18 * 4 + (dom % 18 - 12)) 1)))
    ∧ (125 < d.age → dom < 72 → 16 ≤ dom % 18 →
      exec (.ageingDailyRecord dom) s = .next (s.commit (v.losePort (dom / 18 * 2 + (dom % 18 - 16)))))
    ∧ (125 < d.age → 72 ≤ dom → exec (.ageingDailyRecord dom) s = .next (s.commit (v.deskFailure dom))))

/-! Bring-up -/

/-- The steps of bring-up (R402, R403, R434 to R436): the oscillator is stable, then disciplined after 1 s of lock; the host link's lock
decides the source; the ledger's scan discards torn records and counts the power-up; each bay's carrels are zeroed and its test judged; a
wing's fabric test; a trained stack takes its weed list and its hard repairs; a wing is ready with a bay and a stack. -/
def Obligations.BringUpSteps : Prop :=
  ∀ (s b : State), b = Claims.fresh s →
    (b.time.running = true → exec .oscillatorStable s = .next (s.commit { b with time := { b.time with stable := true } }))
    ∧ (∀ t, b.time.lockedSince = some t → t + 1000000000 ≤ b.time.now → b.time.stable = true →
      exec .oscillatorDisciplined s = .next (s.commit { b with time := { b.time with disciplined := true } }))
    ∧ (b.power.st = .run →
      (∀ l, b.time.hostLocked ≠ l → exec (.hostLinkLockChange l) s = .next (s.commit { b with time := { b.time with
        hostLocked := l
        lockedSince := if l = true then some b.time.now else if b.timSource = 3 then b.time.lockedSince else none } }))
      ∧ (b.ledger.ready = false →
        exec (.ledgerScanDone true) s = .next (s.commit (({ b with ledger := { b.ledger with
          ready := true, boots := b.ledger.boots + 1
          errors := b.ledger.errors.filter (fun r => !r.torn), reshelves := b.ledger.reshelves.filter (fun r => !r.torn)
          ageing := b.ledger.ageing.filter (fun r => !r.torn), life := b.ledger.life.filter (fun r => !r.torn) } } : State).lifeRec 0 0xFF))
        ∧ exec (.ledgerScanDone false) s = .next (s.commit b.endOfService))
      ∧ (∀ (bay : Nat) (good : W16) (q lu : Bool), bay < 88 → (b.bay bay).tested = false → (b.bay bay).gone = false →
        (b.wing (bay / 22)).lost = false →
        exec (.baySelfTestDone bay good q lu) s = .next (s.commit ((b.zeroBayCarrels bay).bayTested bay good.toNat q lu)))
      ∧ (∀ w, w < 4 → (b.wing w).fabric = none → (b.wing w).lost = false →
        exec (.wingFabricSelfTestDone w true) s = .next (s.commit (b.setWing w { b.wing w with fabric := some true }))
        ∧ exec (.wingFabricSelfTestDone w false) s = .next (s.commit
          ((b.setWing w { b.wing w with fabric := some false }).loseWing w 6)))
      ∧ (∀ (k n : Nat) (x : Stack), x = b.stk k → k < 16 → x.seen = false → x.lost = false →
        (∀ t, t = b.hardRepairs k (if b.power.softReset then 0 else min 16 n) → x.temp < 110 →
          exec (.stackTrainingDone k true n) s = .next (s.commit (t.setStk k { t.stk k with
            ready := true, seen := true, trainTemp := x.temp, weeded := (b.ledger.weeds.getD k []).map (fun w => w.page) })))
        ∧ exec (.stackTrainingDone k false n) s = .next (s.commit (b.loseStack k 1)))
      ∧ (∀ w, w < 4 → (b.wing w).lost = false → (b.wing w).fabric = some true → b.hex.rdyMbx = true →
        b.hex.orphans.contains (1 + w) = false → (List.range 22).any (fun i => b.bayUp (w * 22 + i)) = true →
        (List.range 4).any (fun i => (b.stk (4 * w + i)).ready) = true →
        exec (.wingReady w) s = .next (s.commit (b.setWing w { b.wing w with ready := true }))))

/-! Failures and the maintenance port -/

/-- CONTROL_CORE_FAILURE (R375, R376): the failed core's roles move to the first survivor in their order, and a role with none is end of
service and takes its wing out of READY (R403). ROLE_MIGRATION_DONE (R375). DESK_FAILURE (R459), WING_LOST (R276) and SYNC_PLANE_FAIL (R454). -/
def Obligations.FailuresAreContained : Prop :=
  ∀ (s b : State), b = Claims.fresh s →
    (∀ role, exec (.roleMigrationDone role) s = .next (s.commit { b with hex := { b.hex with moving := b.hex.moving.filter (· != role) } }))
    ∧ (b.power.st = .run →
      (∀ dom, 72 ≤ dom → dom < 80 → exec (.deskFailure dom) s = .next (s.commit (b.deskFailure dom)))
      ∧ (∀ w cause, w < 4 → exec (.wingLost w cause) s = .next (s.commit (b.loseWing w cause)))
      ∧ (b.hex.failed.contains 0 = false → exec (.controlCoreFailure 0) s = .next (s.commit (b.deskFailure 74)))
      ∧ (∀ (hx : Nat) (moved orph : List Nat) (target : Nat → Option Nat), 1 ≤ hx → hx ≤ 5 → b.hex.failed.contains hx = false →
        moved = (List.range 5).filter (fun r => b.hex.roles.getD r 0 == hx) →
        target = (fun r => (roleOrder r).find? (fun c => !(hx :: b.hex.failed).contains c)) →
        orph = moved.filter (fun r => (target r).isNone) →
        ∀ u, u = (((({ b with hex := { b.hex with
            failed := hx :: b.hex.failed
            roles := (List.range 5).map (fun r =>
              if moved.contains r then (target r).getD (b.hex.roles.getD r 0) else b.hex.roles.getD r 0)
            orphans := b.hex.orphans ++ orph
            moving := b.hex.moving ++ moved.filter (fun r => (target r).isSome && !b.hex.moving.contains r)
            rdyHexset := b.hex.rdyHexset && orph.isEmpty } } : State).suspectEvent 0xFF 0xFF hx).errRec 0xC 0xFF hx []).degrade) →
        exec (.controlCoreFailure hx) s = .next (s.commit (if orph.isEmpty then u else (u.unhost orph).endOfService)))
      ∧ (∀ plane path, plane < 2 → b.planes.contains (plane, path) = false →
        ∀ u, u = (((({ b with planes := (plane, path) :: b.planes } : State).setHealth 5 true).event .ok 0x11 0xFF [b8 plane]).errRec
          0xB 0xFF 0xFF ([b8 plane] ++ leBytes 2 path)) →
        (b.planes.contains (1 - plane, path) = false → exec (.syncPlaneFail plane path) s = .next (s.commit u))
        ∧ (b.planes.contains (1 - plane, path) = true → exec (.syncPlaneFail plane path) s = .next (s.commit
          (if Config.pathWing path < 4 then u.loseWing (Config.pathWing path) 4 else u.deskFailure 77)))))

/-- The maintenance port while D.MAINT is powered (R371, R487, Table 15.14): TELEMETRY, HEALTH and LEDGER_SUMMARY answer; WING_POWER_OFF
loses the wing and MODULE_RESET resets the module when confirmed with 0xA5, and draw a NACK otherwise; SETDASA and ENTDAA assign the
address once. -/
def Obligations.MaintenancePortAnswers : Prop :=
  ∀ (s b : State), b = Claims.fresh s → b.maintUp = true →
    (∃ share, 450 ≤ share ∧ share ≤ 550 ∧ ∀ (ma : Feed → Nat → Nat), ma = (fun f k => if f.present = false ∨ f.mv = 0 then 0
        else b.power.inputMw * k / f.mv) →
      exec .telemetry s = .next (s.commit (({ b with draw := b.draw + 1 } : State).replyWith (leBytes 2 b.power.feedA.mv ++ leBytes 2 b.power.feedB.mv
        ++ leBytes 2 (ma b.power.feedA (if b.power.feedB.present then share else 1000))
        ++ leBytes 2 (ma b.power.feedB (if b.power.feedA.present then 1000 - share else 1000)) ++ leBytes 2 (b.power.inputMw / 1000)
        ++ intBytes 2 b.power.inlet ++ intBytes 2 b.power.outlet
        ++ (List.range 4).flatMap (fun w => intBytes 1 (hottest ((List.range 12).map fun j => (b.dom (18 * w + j)).tj)))
        ++ intBytes 1 (hottest (b.stks.map fun k => k.2.temp)) ++ [0] ++ leBytes 4 b.time.now ++ zeros 8))))
    ∧ (∀ u, u = b.replyWith (leBytes 4 b.healthView ++ leBytes 4 b.rdyService ++ leBytes 4 b.rdyStack
        ++ leBytes 4 (b.rdyPort * 256 + b.rdyWing)) →
      exec .health s = .next (s.commit { u with power := { u.power with alert := false } }))
    ∧ exec .ledgerSummary s = .next (s.commit (b.replyWith ((List.range 16).flatMap (fun k =>
        leBytes 2 (b.ledger.weeds.getD k []).length) ++ leBytes 4 b.ledger.boots ++ leBytes 4 b.ledger.errors.length)))
    ∧ (∀ w, w < 4 → b.power.st = .run → (b.wing w).lost = false →
      exec (.wingPowerOff w 0xA5) s = .next (s.commit ((b.replyWith [b8 Status.ok.code]).loseWing w 5)))
    ∧ (b.power.st = .run → exec (.maintModuleReset 0xA5) s = .next (s.commit (b.replyWith [b8 Status.ok.code]).moduleReset))
    ∧ (∀ w k, k ≠ 0xA5 → exec (.wingPowerOff w k) s = .next (s.commit { b with power := { b.power with nack := true } })
      ∧ exec (.maintModuleReset k) s = .next (s.commit { b with power := { b.power with nack := true } }))
    ∧ (b.power.i3c = none → ∀ a, exec (.setdasa 0x3A a) s = .next (s.commit { b with power := { b.power with i3c := some a } })
      ∧ exec (.entdaa a) s = .next (s.commit { b with power := { b.power with i3c := some a } }))

/-! The queue, reset, whole-machine rules -/

/-- The step takes the command at the front of the queue and executes it with the rest of the queue; a command put in front is the next one
executed. -/
def Obligations.FrontOfQueueIsExecuted : Prop :=
  (∀ (s : State) (c : Instr) (rest : List Instr), s.pending = c :: rest → step s = exec c { s with pending := rest })
  ∧ (∀ (s : State) (c : Instr), step (s.withCommand c) = exec c s)

/-- The model's choice (log 2): on an empty queue one tick of the timebase passes while it runs; the time counters of R464 count it, and
with a trace ring the traced cores write what their packets say (R475). Nothing else changes; a stopped timebase changes nothing. -/
def Obligations.EmptyQueueTicks : Prop :=
  (∀ s : State, s.pending = [] → s.time.running = true → s.stamps.trLen = 0 →
    step s = .next { s with time := { s.time with now := (s.time.now + 1) % 2 ^ 63 }, ticks := s.countTick, draw := s.draw + 1 })
  ∧ (∀ s : State, s.pending = [] → s.time.running = true → s.stamps.trLen ≠ 0 →
    step s = .next (s.commit ({ s with
      time := { s.time with now := (s.time.now + 1) % 2 ^ 63 }, ticks := s.countTick, draw := s.draw + 1, stores := [] } : State).traceTick))
  ∧ (∀ s : State, s.pending = [] → s.time.running = false → step s = .next s)

/-- What reset leaves: no feed present and PRSNT_N not driven (R401), mailbox registers 0 and disabled, STP_NEXTID 1 (Table 15.7), event
counters 0 (Table 15.3), every slot empty (R68), no context, no bucket, no sync plane failed, no poison, the timebase stopped; a module of
either grade has the enabled bays, the lookup units and the ports of its grade (R2, R3). That memory lists nothing, reading as zero, is the
model's choice (log 6), and that this module is of grade AX (log 4). -/
def Obligations.ResetState : Prop :=
  State.reset.power.feedA.present = false ∧ State.reset.power.feedB.present = false ∧ State.reset.power.prsnt = false
  ∧ (∀ n, n < 17 → State.reset.mb n = { sqBase := 0, cqBase := 0, size := 0, enable := false, sqTail := 0, sqHead := 0, cqHead := 0, stage := 0 })
  ∧ State.reset.stamps.nextId = 1 ∧ State.reset.evt.counts = [] ∧ State.reset.slots = [] ∧ State.reset.ctxs = [] ∧ State.reset.buckets = []
  ∧ State.reset.planes = [] ∧ State.reset.poison = [] ∧ State.reset.time.running = false ∧ State.reset.pending = [] ∧ State.reset.mem = []
  ∧ State.reset = State.resetOf .ax
  ∧ (∀ (g : Grade) (w i : Nat), w < 4 → i < 22 →
    (((State.resetOf g).bay (22 * w + i)).kind = .enabled ↔ i < g.bays) ∧ (g = .bx → ((State.resetOf g).bay (22 * w + i)).lu = false))
  ∧ (∀ (g : Grade) (p : Nat), p < 8 → ((State.resetOf g).port p).present = decide (p < g.ports))

/-- No command changes the queue behind it. -/
def Obligations.CommandsLeaveTheQueue : Prop :=
  ∀ (c : Instr) (s t : State), exec c s = .next t → t.pending = s.pending

/-- Every command answers a next state, but for a feed driven beyond its absolute maximum rating of 64 V (R484, Table 22.3). -/
def Obligations.OnlyFeedStressStops : Prop :=
  ∀ (c : Instr) (s : State),
    (∃ t, exec c s = .next t) ∨ (exec c s = .fault .stressBeyondRatings
      ∧ ∃ feed mv, 64000 < mv ∧ (c = .feedPresent feed mv ∨ c = .feedLost feed mv))

/-- Memory keeps its canonical form over every step, and no store of a step outlives it: addresses rise strictly and no cell lists the
zero that an unlisted address reads as. -/
def Obligations.StepsKeepMemoryCanonical : Prop :=
  ∀ s t : State, Memory.wf s.mem = true → s.stores = [] → step s = .next t → Memory.wf t.mem = true ∧ t.stores = []

/-- Memory at reset is in canonical form, with no store outstanding. -/
def Obligations.ResetMemoryCanonical : Prop := Memory.wf State.reset.mem = true ∧ State.reset.stores = []

/-- R366: the rows that only the owner may issue, from a tenant port, complete with PORT_DENIED, have no effect and are counted in
EVT_COUNT0. -/
def Obligations.TenantsAreDeniedOwnerRows : Prop :=
  ∀ (s : State) (m : Mbx) (n : Nat) (c : Instr) (op : Nat), m.port = .vf n → (Claims.fresh s).mbxOn (portIx m.port) = true →
    (Claims.fresh s).hex.moving.contains 0 = false → Claims.ownerRow c = some (m, op) →
    exec c s = .next (s.commit (((Claims.begun s m).count 0 1).complete (Claims.owed s m op 255) .portDenied []))

/-- The frame of what only the host sees: these rows change registers of the host port, mailboxes, event ring and ledger alone; the rest of
the module, device memory whole, the timebase, every context, unit and port stay as they were. -/
def Obligations.HostRowsLeaveTheMachine : Prop :=
  ∀ (c : Instr) (s t : State), Claims.hostRow c = true → exec c s = .next t → Claims.machine t = Claims.machine s

/-- The frame of device memory: STAGING_WRITE changes no byte outside the window range written (R349), and CARD_EXPORT of a card without a
seed none outside its destination (R39). -/
def Obligations.DeviceStoresStayInTheirRange : Prop :=
  (∀ (s t : State) (off : Nat) (d : List Byte) (x : Nat), exec (.stagingWrite off d) s = .next t →
    (∀ a, s.stageDpa off d.length = some a → x < a ∨ a + d.length ≤ x) → t.byte x = (Claims.fresh s).byte x)
  ∧ (∀ (s t : State) (m : Mbx) (c handle dst cap : Nat) (cd : Card) (x : Nat), Claims.begins s m { op := 0x0303 } c →
    (Claims.fresh s).card c handle = some cd → cd.seed = none → exec (.cardExport m handle dst cap) s = .next t →
    (x < dst ∨ dst + cap ≤ x) → t.byte x = (Claims.fresh s).byte x)

/-- R280: a populated DPA names stack, pseudo-channel, bank, row and byte of the row by the function of the rule, and each row's bytes have
one DPA. -/
def Obligations.AddressesDecodeOneToOne : Prop :=
  (∀ a, a < 2 ^ 40 →
    dpaStack a = a / 2 ^ 36 ∧ dpaPc a = (a / 2 ^ 8 % 64) ^^^ (a / 2 ^ 16 % 64) ∧ dpaBank a = a / 2 ^ 16 % 16 ∧ dpaRow a = a / 2 ^ 20 % 2 ^ 16
    ∧ rowDpa (dpaStack a) (dpaPc a) (dpaBank a) (dpaRow a) (a / 2 ^ 14 % 4) + a % 256 = a)
  ∧ (∀ stack pc bank row chunk byte, stack < 16 → pc < 64 → bank < 16 → row < 2 ^ 16 → chunk < 4 → byte < 256 →
    ∀ a, a = rowDpa stack pc bank row chunk + byte →
    a < 2 ^ 40 ∧ dpaStack a = stack ∧ dpaPc a = pc ∧ dpaBank a = bank ∧ dpaRow a = row ∧ a / 2 ^ 14 % 4 = chunk ∧ a % 256 = byte)

/-- R84: a request to write an exchange image from a key card is refused with BAD_PARAMETER, and nothing is written. -/
def Obligations.KeysAreNeverExported : Prop :=
  ∀ (s b : State) (m : Mbx) (c handle dst cap : Nat) (cd : Card), b = Claims.begun s m → Claims.begins s m { op := 0x0303 } c →
    b.card c handle = some cd → cd.kind = .key →
    exec (.cardExport m handle dst cap) s = .next (s.commit (b.complete (Claims.owed s m 0x0303 c) .badParameter []))

/-- R87: unbinding a key card while any command that names it is in flight completes with BUSY and changes nothing. -/
def Obligations.BusyKeysAreNotUnbound : Prop :=
  ∀ (s b : State) (m : Mbx) (c n k handle : Nat) (cd : Card) (x : Stream) (e : Entry), b = Claims.begun s m →
    Claims.begins s m { op := 0x0304 } c → handle < 65536 → b.card c handle = some cd → cd.kind = .key →
    (n, x) ∈ (b.ctx c).streams → (k, e) ∈ x.window → e.phase ≠ .done → (handle ∈ e.reads ∨ handle ∈ e.writes) →
    exec (.cardUnbind m handle) s = .next (s.commit (b.complete (Claims.owed s m 0x0304 c) .busy []))

/-! Residue arithmetic -/

/-- R19, R21, R110: the operations on residues answer canonical ones, in [0, q); ciphertext addition, subtraction and negation are those of
each residue modulo its limb's prime. -/
def Obligations.ResidueOperationsAreModular : Prop :=
  (∀ (q c : Nat) (a b : List Nat), 0 < q →
    (∀ x ∈ addL q a b, x < q) ∧ (∀ x ∈ subL q a b, x < q) ∧ (∀ x ∈ mulL q a b, x < q) ∧ (∀ x ∈ negL q a, x < q) ∧ (∀ x ∈ scaleL q c a, x < q)
    ∧ ∀ n, (∀ x ∈ nttFwd q n a, x < q) ∧ (∀ x ∈ nttInv q n a, x < q))
  ∧ (∀ (p : ParamSet) (a b : Ct) (k i j q : Nat) (el : Ct → Nat), q = p.prime i → 0 < q → i ≤ a.level → i ≤ b.level →
    el = (fun c => ((c.comps.getD k []).getD i []).getD j 0) → k < a.comps.length → k < b.comps.length →
    i < (a.comps.getD k []).length → i < (b.comps.getD k []).length →
    j < ((a.comps.getD k []).getD i []).length → j < ((b.comps.getD k []).getD i []).length →
    el (Ct.add p false a b) = (el a + el b) % q ∧ (el (Ct.add p true a b) : Int) = ((el a : Int) - el b) % q
    ∧ (el (Ct.neg p a) : Int) = (-(el a : Int)) % q)

/-- R24: element i of the forward transform is the sum over k of a[k] times the power (2·brv(i) + 1)·k of the prime's root, modulo q. -/
def Obligations.ForwardTransformEvaluates : Prop :=
  ∀ (q n i : Nat) (a : List Nat), 0 < q → i < 2 ^ n →
    (nttFwd q n a).getD i 0 = ((List.range a.length).map (fun k => a.getD k 0 * psi q n ^ ((2 * brv n i + 1) * k))).sum % q

/-- R24: where the prime has its 2N-th root (R23), the forward transform followed by the inverse returns the input exactly. -/
def Obligations.TransformsInvert : Prop :=
  ∀ (q n : Nat) (a : List Nat), Nat.Prime q → 2 < q → n ≤ 16 → psi q n ^ 2 ^ n % q = q - 1 → a.length = 2 ^ n → (∀ x ∈ a, x < q) →
    nttInv q n (nttFwd q n a) = a
end

