-- ==== Sys2Proof/Laws/Memory.lean ====
section
/-! SUPPORT. Tables and memory: what a read gives after a write, and that every write keeps the canonical form. -/

namespace Sys2Proof

/-! Tables -/

theorem Tbl.get_put {α : Type} (t : Tbl α) (k j : Nat) (v : α) : Tbl.get (Tbl.put t k v) j = if k = j then some v else Tbl.get t j := by
  induction t with
  | nil => simp [Tbl.put, Tbl.get]
  | cons p r ih =>
    obtain ⟨a, w⟩ := p
    by_cases h1 : k < a
    · simp [Tbl.put, h1, Tbl.get]
    · by_cases h2 : k = a
      · subst h2; simp [Tbl.put, Tbl.get]; split <;> simp_all
      · simp only [Tbl.put, h1, h2, if_false, Tbl.get, ih]
        split
        · next h => subst h; simp [h2]
        · rfl

theorem Tbl.getD_put {α : Type} (t : Tbl α) (k j : Nat) (v d : α) :
    Tbl.getD (Tbl.put t k v) j d = if k = j then v else Tbl.getD t j d := by
  simp only [Tbl.getD, Tbl.get_put]; split <;> rfl

theorem Tbl.get_mod {α : Type} (t : Tbl α) (k j : Nat) (f : α → α) :
    Tbl.get (Tbl.mod t k f) j = if k = j then (Tbl.get t j).map f else Tbl.get t j := by
  induction t with
  | nil => simp [Tbl.mod, Tbl.get]
  | cons p r ih =>
    obtain ⟨a, w⟩ := p
    rw [Tbl.mod, List.map_cons]
    change Tbl.get ((if a = k then (a, f w) else (a, w)) :: Tbl.mod r k f) j = _
    by_cases h : a = k
    · subst h; simp only [if_true, Tbl.get, ih]; split <;> simp
    · simp only [h, if_false, Tbl.get, ih]
      by_cases hk : k = j
      · subst hk; simp [h]
      · simp [hk]

theorem Tbl.get_del {α : Type} (t : Tbl α) (k j : Nat) : Tbl.get (Tbl.del t k) j = if k = j then none else Tbl.get t j := by
  induction t with
  | nil => simp [Tbl.del, Tbl.get]
  | cons p r ih =>
    obtain ⟨a, w⟩ := p
    by_cases h : a = k
    · subst h; simp only [Tbl.del, List.filter, bne_self_eq_false, Tbl.get]
      rw [show List.filter (fun p => p.1 != a) r = Tbl.del r a from rfl, ih]
      split <;> simp_all
    · have : ((a, w).1 != k) = true := by simp [h]
      simp only [Tbl.del, List.filter, this, Tbl.get]
      rw [show List.filter (fun p => p.1 != k) r = Tbl.del r k from rfl, ih]
      split
      · next h2 => subst h2; simp [Ne.symm h]
      · rfl

theorem leBytes_length (n v : Nat) : (leBytes n v).length = n := by
  induction n generalizing v with
  | zero => rfl
  | succ n ih => simp [leBytes, ih]

namespace Machine

/-! Memory -/

theorem Memory.wf_iff (m : List Host.Cell) : Memory.wf m = true ↔ (m.map Prod.fst).Pairwise (· < ·) ∧ ∀ c ∈ m, c.2 ≠ 0 := by
  simp [Memory.wf, List.all_eq_true]

theorem Memory.wf_nil : Memory.wf [] = true := by decide

theorem Memory.cells_bounds (a : Nat) (bs : List Byte) : ∀ c ∈ Memory.cells a bs, a ≤ c.1 ∧ c.1 < a + bs.length ∧ c.2 ≠ 0 := by
  induction bs generalizing a with
  | nil => simp [Memory.cells]
  | cons b bs ih =>
    intro c hc
    simp only [Memory.cells] at hc
    split at hc
    · have := ih (a + 1) c hc; simp only [List.length_cons]; exact ⟨by omega, by omega, this.2.2⟩
    · next hb =>
      rcases List.mem_cons.1 hc with rfl | h
      · exact ⟨le_refl _, by simp, hb⟩
      · have := ih (a + 1) c h; simp only [List.length_cons]; exact ⟨by omega, by omega, this.2.2⟩

theorem Memory.cells_sorted (a : Nat) (bs : List Byte) : ((Memory.cells a bs).map Prod.fst).Pairwise (· < ·) := by
  induction bs generalizing a with
  | nil => simp [Memory.cells]
  | cons b bs ih =>
    simp only [Memory.cells]
    split
    · exact ih _
    · simp only [List.map_cons, List.pairwise_cons]
      refine ⟨?_, ih _⟩
      intro x hx
      obtain ⟨c, hc, rfl⟩ := List.mem_map.1 hx
      have := Memory.cells_bounds (a + 1) bs c hc
      omega

/-- A write keeps the canonical form. -/
theorem Memory.wf_write (m : List Host.Cell) (a : Nat) (bs : List Byte) (run : Nat) (h : Memory.wf m = true) :
    Memory.wf (Memory.write m a bs run) = true := by
  rw [Memory.wf_iff] at h ⊢
  obtain ⟨hs, hz⟩ := h
  have sub : ∀ (p : Host.Cell → Bool), ((m.filter p).map Prod.fst).Pairwise (· < ·) := fun p =>
    hs.sublist (List.Sublist.map _ (List.filter_sublist))
  constructor
  · simp only [Memory.write, List.map_append, List.pairwise_append]
    refine ⟨⟨sub _, Memory.cells_sorted a bs, ?_⟩, sub _, ?_⟩
    · intro x hx y hy
      obtain ⟨c, hc, rfl⟩ := List.mem_map.1 hx
      obtain ⟨d, hd, rfl⟩ := List.mem_map.1 hy
      have h1 := (List.mem_filter.1 hc).2
      have h2 := Memory.cells_bounds a bs d hd
      simp only [decide_eq_true_eq] at h1
      omega
    · intro x hx y hy
      obtain ⟨d, hd, rfl⟩ := List.mem_map.1 hy
      have h2 := (List.mem_filter.1 hd).2
      simp only [decide_eq_true_eq] at h2
      rw [List.mem_append] at hx
      rcases hx with hx | hx
      · obtain ⟨c, hc, rfl⟩ := List.mem_map.1 hx
        have h1 := (List.mem_filter.1 hc).2
        simp only [decide_eq_true_eq] at h1
        omega
      · obtain ⟨c, hc, rfl⟩ := List.mem_map.1 hx
        have h1 := Memory.cells_bounds a bs c hc
        omega
  · intro c hc
    simp only [Memory.write, List.mem_append] at hc
    rcases hc with (hc | hc) | hc
    · exact hz c (List.mem_filter.1 hc).1
    · exact (Memory.cells_bounds a bs c hc).2.2
    · exact hz c (List.mem_filter.1 hc).1

/-- The writes of a step keep the canonical form. -/
theorem Memory.wf_apply (m : List Host.Cell) (ws : List Store) (h : Memory.wf m = true) : Memory.wf (Memory.apply m ws) = true := by
  induction ws with
  | nil => simpa [Memory.apply] using h
  | cons w ws ih => exact Memory.wf_write _ _ _ _ ih

theorem Tbl.getD_not_mem {α : Type} (l : Tbl α) (x : Nat) (d : α) (h : x ∉ l.map Prod.fst) : Tbl.getD l x d = d := by
  induction l with
  | nil => rfl
  | cons c l ih =>
    obtain ⟨a, v⟩ := c
    simp only [List.map_cons, List.mem_cons, not_or] at h
    simp only [Tbl.getD, Tbl.get, Ne.symm h.1, if_false]
    exact ih h.2

theorem Tbl.getD_append_right {α : Type} (l r : Tbl α) (x : Nat) (d : α) (h : x ∉ l.map Prod.fst) :
    Tbl.getD (l ++ r) x d = Tbl.getD r x d := by
  induction l with
  | nil => rfl
  | cons c l ih =>
    obtain ⟨a, v⟩ := c
    simp only [List.map_cons, List.mem_cons, not_or] at h
    simp only [Tbl.getD, List.cons_append, Tbl.get, Ne.symm h.1, if_false]
    exact ih h.2

theorem Tbl.getD_append_left {α : Type} (l r : Tbl α) (x : Nat) (d : α) (h : x ∉ r.map Prod.fst) :
    Tbl.getD (l ++ r) x d = Tbl.getD l x d := by
  induction l with
  | nil => exact Tbl.getD_not_mem r x d h
  | cons c l ih =>
    obtain ⟨a, v⟩ := c
    simp only [Tbl.getD, List.cons_append, Tbl.get] at ih ⊢
    split
    · rfl
    · exact ih

theorem Tbl.getD_filter {α : Type} (l : Tbl α) (p : Nat × α → Bool) (q : Nat → Bool) (hp : ∀ c, p c = q c.1) (x : Nat) (d : α) :
    Tbl.getD (l.filter p) x d = if q x then Tbl.getD l x d else d := by
  induction l with
  | nil => simp [Tbl.getD, Tbl.get]
  | cons c l ih =>
    obtain ⟨a, v⟩ := c
    simp only [Tbl.getD] at ih
    simp only [List.filter, hp]
    by_cases h : a = x
    · subst h
      cases hq : q a <;> simp_all [Tbl.getD, Tbl.get]
    · cases hq : q a <;> simp_all [Tbl.getD, Tbl.get]

theorem Memory.get_cells (a : Nat) (bs : List Byte) (x : Nat) :
    Memory.get (Memory.cells a bs) x = if a ≤ x then bs.getD (x - a) 0 else 0 := by
  induction bs generalizing a with
  | nil => simp [Memory.cells, Memory.get, Tbl.getD, Tbl.get]
  | cons b bs ih =>
    have key : Memory.get (Memory.cells a (b :: bs)) x = if a = x then b else Memory.get (Memory.cells (a + 1) bs) x := by
      simp only [Memory.cells]
      split
      · next hb =>
        split
        · next hx =>
          subst hx
          rw [ih]; simp [hb]
        · rfl
      · simp only [Memory.get, Tbl.getD, Tbl.get]; split <;> rfl
    rw [key, ih]
    by_cases h : a = x
    · subst h; simp
    · simp only [h, if_false]
      by_cases h2 : a + 1 ≤ x
      · have h3 : a ≤ x := by omega
        have h4 : x - a = (x - (a + 1)) + 1 := by omega
        simp [h2, h3, h4]
      · have h3 : ¬ a ≤ x := by omega
        simp [h2, h3]

theorem Memory.not_mem_filter (m : List Host.Cell) (q : Nat → Bool) (x : Nat) (h : q x = false) :
    x ∉ (m.filter (fun c => q c.1)).map Prod.fst := by
  intro hx
  obtain ⟨c, hc, rfl⟩ := List.mem_map.1 hx
  simp [h] at hc

theorem Memory.not_mem_cells (a : Nat) (bs : List Byte) (x : Nat) (h : x < a ∨ a + bs.length ≤ x) :
    x ∉ (Memory.cells a bs).map Prod.fst := by
  intro hx
  obtain ⟨c, hc, rfl⟩ := List.mem_map.1 hx
  have := Memory.cells_bounds a bs c hc
  omega

/-- What a read gives after a write. -/
theorem Memory.get_write (m : List Host.Cell) (a : Nat) (bs : List Byte) (run x : Nat) :
    Memory.get (Memory.write m a bs run) x = if a ≤ x ∧ x < a + bs.length + run then bs.getD (x - a) 0 else Memory.get m x := by
  have low := Tbl.getD_filter m (fun c => decide (c.1 < a)) (fun y => decide (y < a)) (fun _ => rfl) x (0 : Byte)
  have high := Tbl.getD_filter m (fun c => decide (a + bs.length + run ≤ c.1)) (fun y => decide (a + bs.length + run ≤ y)) (fun _ => rfl) x (0 : Byte)
  have mid := Memory.get_cells a bs x
  simp only [Memory.get] at mid ⊢
  simp only [Memory.write]
  by_cases h1 : x < a
  · rw [if_neg (by omega), List.append_assoc, Tbl.getD_append_left, low, if_pos (by simpa using h1)]
    rw [List.map_append, List.mem_append, not_or]
    exact ⟨Memory.not_mem_cells a bs x (.inl h1), Memory.not_mem_filter m (fun y => decide (a + bs.length + run ≤ y)) x (by simp; omega)⟩
  · have nl := Memory.not_mem_filter m (fun y => decide (y < a)) x (by simp; omega)
    by_cases h2 : x < a + bs.length + run
    · rw [if_pos ⟨by omega, h2⟩, List.append_assoc, Tbl.getD_append_right _ _ _ _ nl, Tbl.getD_append_left, mid, if_pos (by omega)]
      exact Memory.not_mem_filter m (fun y => decide (a + bs.length + run ≤ y)) x (by simp; omega)
    · rw [if_neg (by omega), Tbl.getD_append_right, high, if_pos (by simp; omega)]
      rw [List.map_append, List.mem_append, not_or]
      exact ⟨nl, Memory.not_mem_cells a bs x (.inr (by omega))⟩

/-- What a read gives after the writes of a step: the newest write that covers the address, else what stood there. -/
theorem Memory.get_apply (m : List Host.Cell) (ws : List Store) (x : Nat) :
    Memory.get (Memory.apply m ws) x = (storeByte ws x).getD (Memory.get m x) := by
  induction ws with
  | nil => rfl
  | cons w ws ih =>
    simp only [Memory.apply, List.foldr_cons, storeByte] at ih ⊢
    rw [Memory.get_write]
    split
    · rfl
    · exact ih

/-- A step in progress reads its own stores, newest first. -/
theorem State.byte_land (s t : State) (h : t.mem = s.mem) (x : Nat) : (s.land t).byte x = t.byte x := by
  have hm : (if t.mem.isEmpty then [] else s.mem) = t.mem := by
    cases ht : t.mem with
    | nil => simp
    | cons c r => simp [← h, ht]
  simp only [State.land, State.byte, hm, storeByte, Option.getD_none]
  exact Memory.get_apply _ _ _

end Machine
end Sys2Proof
end

