-- ==== Sys2Proof/Laws/State.lean ====
section
/-! SUPPORT. What each named update of the state leaves alone, field by field, and what a read gives after it. -/

namespace Sys2Proof.Machine

/-! One lemma per field and update -/

@[simp] theorem State.setMb_grade (s : State) (n : Nat) (x : Mailbox) : (s.setMb n x).grade = s.grade := rfl
@[simp] theorem State.setMb_cores (s : State) (n : Nat) (x : Mailbox) : (s.setMb n x).cores = s.cores := rfl
@[simp] theorem State.setMb_ticks (s : State) (n : Nat) (x : Mailbox) : (s.setMb n x).ticks = s.ticks := rfl
@[simp] theorem State.setMb_power (s : State) (n : Nat) (x : Mailbox) : (s.setMb n x).power = s.power := rfl
@[simp] theorem State.setMb_time (s : State) (n : Nat) (x : Mailbox) : (s.setMb n x).time = s.time := rfl
@[simp] theorem State.setMb_host (s : State) (n : Nat) (x : Mailbox) : (s.setMb n x).host = s.host := rfl
@[simp] theorem State.setMb_evt (s : State) (n : Nat) (x : Mailbox) : (s.setMb n x).evt = s.evt := rfl
@[simp] theorem State.setMb_hex (s : State) (n : Nat) (x : Mailbox) : (s.setMb n x).hex = s.hex := rfl
@[simp] theorem State.setMb_ledger (s : State) (n : Nat) (x : Mailbox) : (s.setMb n x).ledger = s.ledger := rfl
@[simp] theorem State.setMb_stamps (s : State) (n : Nat) (x : Mailbox) : (s.setMb n x).stamps = s.stamps := rfl
@[simp] theorem State.setMb_wings (s : State) (n : Nat) (x : Mailbox) : (s.setMb n x).wings = s.wings := rfl
@[simp] theorem State.setMb_bays (s : State) (n : Nat) (x : Mailbox) : (s.setMb n x).bays = s.bays := rfl
@[simp] theorem State.setMb_stks (s : State) (n : Nat) (x : Mailbox) : (s.setMb n x).stks = s.stks := rfl
@[simp] theorem State.setMb_ports (s : State) (n : Nat) (x : Mailbox) : (s.setMb n x).ports = s.ports := rfl
@[simp] theorem State.setMb_ctxs (s : State) (n : Nat) (x : Mailbox) : (s.setMb n x).ctxs = s.ctxs := rfl
@[simp] theorem State.setMb_map (s : State) (n : Nat) (x : Mailbox) : (s.setMb n x).map = s.map := rfl
@[simp] theorem State.setMb_tests (s : State) (n : Nat) (x : Mailbox) : (s.setMb n x).tests = s.tests := rfl
@[simp] theorem State.setMb_xbSuspect (s : State) (n : Nat) (x : Mailbox) : (s.setMb n x).xbSuspect = s.xbSuspect := rfl
@[simp] theorem State.setMb_planes (s : State) (n : Nat) (x : Mailbox) : (s.setMb n x).planes = s.planes := rfl
@[simp] theorem State.setMb_slots (s : State) (n : Nat) (x : Mailbox) : (s.setMb n x).slots = s.slots := rfl
@[simp] theorem State.setMb_mem (s : State) (n : Nat) (x : Mailbox) : (s.setMb n x).mem = s.mem := rfl
@[simp] theorem State.setMb_buckets (s : State) (n : Nat) (x : Mailbox) : (s.setMb n x).buckets = s.buckets := rfl
@[simp] theorem State.setMb_tagHolds (s : State) (n : Nat) (x : Mailbox) : (s.setMb n x).tagHolds = s.tagHolds := rfl
@[simp] theorem State.setMb_tagWaits (s : State) (n : Nat) (x : Mailbox) : (s.setMb n x).tagWaits = s.tagWaits := rfl
@[simp] theorem State.setMb_fills (s : State) (n : Nat) (x : Mailbox) : (s.setMb n x).fills = s.fills := rfl
@[simp] theorem State.setMb_poison (s : State) (n : Nat) (x : Mailbox) : (s.setMb n x).poison = s.poison := rfl
@[simp] theorem State.setMb_stores (s : State) (n : Nat) (x : Mailbox) : (s.setMb n x).stores = s.stores := rfl
@[simp] theorem State.setMb_draw (s : State) (n : Nat) (x : Mailbox) : (s.setMb n x).draw = s.draw := rfl
@[simp] theorem State.setMb_pending (s : State) (n : Nat) (x : Mailbox) : (s.setMb n x).pending = s.pending := rfl

@[simp] theorem State.setWing_grade (s : State) (w : Nat) (x : Wing) : (s.setWing w x).grade = s.grade := rfl
@[simp] theorem State.setWing_cores (s : State) (w : Nat) (x : Wing) : (s.setWing w x).cores = s.cores := rfl
@[simp] theorem State.setWing_ticks (s : State) (w : Nat) (x : Wing) : (s.setWing w x).ticks = s.ticks := rfl
@[simp] theorem State.setWing_power (s : State) (w : Nat) (x : Wing) : (s.setWing w x).power = s.power := rfl
@[simp] theorem State.setWing_time (s : State) (w : Nat) (x : Wing) : (s.setWing w x).time = s.time := rfl
@[simp] theorem State.setWing_host (s : State) (w : Nat) (x : Wing) : (s.setWing w x).host = s.host := rfl
@[simp] theorem State.setWing_mbx (s : State) (w : Nat) (x : Wing) : (s.setWing w x).mbx = s.mbx := rfl
@[simp] theorem State.setWing_evt (s : State) (w : Nat) (x : Wing) : (s.setWing w x).evt = s.evt := rfl
@[simp] theorem State.setWing_hex (s : State) (w : Nat) (x : Wing) : (s.setWing w x).hex = s.hex := rfl
@[simp] theorem State.setWing_ledger (s : State) (w : Nat) (x : Wing) : (s.setWing w x).ledger = s.ledger := rfl
@[simp] theorem State.setWing_stamps (s : State) (w : Nat) (x : Wing) : (s.setWing w x).stamps = s.stamps := rfl
@[simp] theorem State.setWing_bays (s : State) (w : Nat) (x : Wing) : (s.setWing w x).bays = s.bays := rfl
@[simp] theorem State.setWing_stks (s : State) (w : Nat) (x : Wing) : (s.setWing w x).stks = s.stks := rfl
@[simp] theorem State.setWing_ports (s : State) (w : Nat) (x : Wing) : (s.setWing w x).ports = s.ports := rfl
@[simp] theorem State.setWing_ctxs (s : State) (w : Nat) (x : Wing) : (s.setWing w x).ctxs = s.ctxs := rfl
@[simp] theorem State.setWing_map (s : State) (w : Nat) (x : Wing) : (s.setWing w x).map = s.map := rfl
@[simp] theorem State.setWing_tests (s : State) (w : Nat) (x : Wing) : (s.setWing w x).tests = s.tests := rfl
@[simp] theorem State.setWing_xbSuspect (s : State) (w : Nat) (x : Wing) : (s.setWing w x).xbSuspect = s.xbSuspect := rfl
@[simp] theorem State.setWing_planes (s : State) (w : Nat) (x : Wing) : (s.setWing w x).planes = s.planes := rfl
@[simp] theorem State.setWing_slots (s : State) (w : Nat) (x : Wing) : (s.setWing w x).slots = s.slots := rfl
@[simp] theorem State.setWing_mem (s : State) (w : Nat) (x : Wing) : (s.setWing w x).mem = s.mem := rfl
@[simp] theorem State.setWing_buckets (s : State) (w : Nat) (x : Wing) : (s.setWing w x).buckets = s.buckets := rfl
@[simp] theorem State.setWing_tagHolds (s : State) (w : Nat) (x : Wing) : (s.setWing w x).tagHolds = s.tagHolds := rfl
@[simp] theorem State.setWing_tagWaits (s : State) (w : Nat) (x : Wing) : (s.setWing w x).tagWaits = s.tagWaits := rfl
@[simp] theorem State.setWing_fills (s : State) (w : Nat) (x : Wing) : (s.setWing w x).fills = s.fills := rfl
@[simp] theorem State.setWing_poison (s : State) (w : Nat) (x : Wing) : (s.setWing w x).poison = s.poison := rfl
@[simp] theorem State.setWing_stores (s : State) (w : Nat) (x : Wing) : (s.setWing w x).stores = s.stores := rfl
@[simp] theorem State.setWing_draw (s : State) (w : Nat) (x : Wing) : (s.setWing w x).draw = s.draw := rfl
@[simp] theorem State.setWing_pending (s : State) (w : Nat) (x : Wing) : (s.setWing w x).pending = s.pending := rfl

@[simp] theorem State.setBay_grade (s : State) (i : Nat) (x : Bay) : (s.setBay i x).grade = s.grade := rfl
@[simp] theorem State.setBay_cores (s : State) (i : Nat) (x : Bay) : (s.setBay i x).cores = s.cores := rfl
@[simp] theorem State.setBay_ticks (s : State) (i : Nat) (x : Bay) : (s.setBay i x).ticks = s.ticks := rfl
@[simp] theorem State.setBay_power (s : State) (i : Nat) (x : Bay) : (s.setBay i x).power = s.power := rfl
@[simp] theorem State.setBay_time (s : State) (i : Nat) (x : Bay) : (s.setBay i x).time = s.time := rfl
@[simp] theorem State.setBay_host (s : State) (i : Nat) (x : Bay) : (s.setBay i x).host = s.host := rfl
@[simp] theorem State.setBay_mbx (s : State) (i : Nat) (x : Bay) : (s.setBay i x).mbx = s.mbx := rfl
@[simp] theorem State.setBay_evt (s : State) (i : Nat) (x : Bay) : (s.setBay i x).evt = s.evt := rfl
@[simp] theorem State.setBay_hex (s : State) (i : Nat) (x : Bay) : (s.setBay i x).hex = s.hex := rfl
@[simp] theorem State.setBay_ledger (s : State) (i : Nat) (x : Bay) : (s.setBay i x).ledger = s.ledger := rfl
@[simp] theorem State.setBay_stamps (s : State) (i : Nat) (x : Bay) : (s.setBay i x).stamps = s.stamps := rfl
@[simp] theorem State.setBay_wings (s : State) (i : Nat) (x : Bay) : (s.setBay i x).wings = s.wings := rfl
@[simp] theorem State.setBay_stks (s : State) (i : Nat) (x : Bay) : (s.setBay i x).stks = s.stks := rfl
@[simp] theorem State.setBay_ports (s : State) (i : Nat) (x : Bay) : (s.setBay i x).ports = s.ports := rfl
@[simp] theorem State.setBay_ctxs (s : State) (i : Nat) (x : Bay) : (s.setBay i x).ctxs = s.ctxs := rfl
@[simp] theorem State.setBay_map (s : State) (i : Nat) (x : Bay) : (s.setBay i x).map = s.map := rfl
@[simp] theorem State.setBay_tests (s : State) (i : Nat) (x : Bay) : (s.setBay i x).tests = s.tests := rfl
@[simp] theorem State.setBay_xbSuspect (s : State) (i : Nat) (x : Bay) : (s.setBay i x).xbSuspect = s.xbSuspect := rfl
@[simp] theorem State.setBay_planes (s : State) (i : Nat) (x : Bay) : (s.setBay i x).planes = s.planes := rfl
@[simp] theorem State.setBay_slots (s : State) (i : Nat) (x : Bay) : (s.setBay i x).slots = s.slots := rfl
@[simp] theorem State.setBay_mem (s : State) (i : Nat) (x : Bay) : (s.setBay i x).mem = s.mem := rfl
@[simp] theorem State.setBay_buckets (s : State) (i : Nat) (x : Bay) : (s.setBay i x).buckets = s.buckets := rfl
@[simp] theorem State.setBay_tagHolds (s : State) (i : Nat) (x : Bay) : (s.setBay i x).tagHolds = s.tagHolds := rfl
@[simp] theorem State.setBay_tagWaits (s : State) (i : Nat) (x : Bay) : (s.setBay i x).tagWaits = s.tagWaits := rfl
@[simp] theorem State.setBay_fills (s : State) (i : Nat) (x : Bay) : (s.setBay i x).fills = s.fills := rfl
@[simp] theorem State.setBay_poison (s : State) (i : Nat) (x : Bay) : (s.setBay i x).poison = s.poison := rfl
@[simp] theorem State.setBay_stores (s : State) (i : Nat) (x : Bay) : (s.setBay i x).stores = s.stores := rfl
@[simp] theorem State.setBay_draw (s : State) (i : Nat) (x : Bay) : (s.setBay i x).draw = s.draw := rfl
@[simp] theorem State.setBay_pending (s : State) (i : Nat) (x : Bay) : (s.setBay i x).pending = s.pending := rfl

@[simp] theorem State.setStk_grade (s : State) (i : Nat) (x : Stack) : (s.setStk i x).grade = s.grade := rfl
@[simp] theorem State.setStk_cores (s : State) (i : Nat) (x : Stack) : (s.setStk i x).cores = s.cores := rfl
@[simp] theorem State.setStk_ticks (s : State) (i : Nat) (x : Stack) : (s.setStk i x).ticks = s.ticks := rfl
@[simp] theorem State.setStk_power (s : State) (i : Nat) (x : Stack) : (s.setStk i x).power = s.power := rfl
@[simp] theorem State.setStk_time (s : State) (i : Nat) (x : Stack) : (s.setStk i x).time = s.time := rfl
@[simp] theorem State.setStk_host (s : State) (i : Nat) (x : Stack) : (s.setStk i x).host = s.host := rfl
@[simp] theorem State.setStk_mbx (s : State) (i : Nat) (x : Stack) : (s.setStk i x).mbx = s.mbx := rfl
@[simp] theorem State.setStk_evt (s : State) (i : Nat) (x : Stack) : (s.setStk i x).evt = s.evt := rfl
@[simp] theorem State.setStk_hex (s : State) (i : Nat) (x : Stack) : (s.setStk i x).hex = s.hex := rfl
@[simp] theorem State.setStk_ledger (s : State) (i : Nat) (x : Stack) : (s.setStk i x).ledger = s.ledger := rfl
@[simp] theorem State.setStk_stamps (s : State) (i : Nat) (x : Stack) : (s.setStk i x).stamps = s.stamps := rfl
@[simp] theorem State.setStk_wings (s : State) (i : Nat) (x : Stack) : (s.setStk i x).wings = s.wings := rfl
@[simp] theorem State.setStk_bays (s : State) (i : Nat) (x : Stack) : (s.setStk i x).bays = s.bays := rfl
@[simp] theorem State.setStk_ports (s : State) (i : Nat) (x : Stack) : (s.setStk i x).ports = s.ports := rfl
@[simp] theorem State.setStk_ctxs (s : State) (i : Nat) (x : Stack) : (s.setStk i x).ctxs = s.ctxs := rfl
@[simp] theorem State.setStk_map (s : State) (i : Nat) (x : Stack) : (s.setStk i x).map = s.map := rfl
@[simp] theorem State.setStk_tests (s : State) (i : Nat) (x : Stack) : (s.setStk i x).tests = s.tests := rfl
@[simp] theorem State.setStk_xbSuspect (s : State) (i : Nat) (x : Stack) : (s.setStk i x).xbSuspect = s.xbSuspect := rfl
@[simp] theorem State.setStk_planes (s : State) (i : Nat) (x : Stack) : (s.setStk i x).planes = s.planes := rfl
@[simp] theorem State.setStk_slots (s : State) (i : Nat) (x : Stack) : (s.setStk i x).slots = s.slots := rfl
@[simp] theorem State.setStk_mem (s : State) (i : Nat) (x : Stack) : (s.setStk i x).mem = s.mem := rfl
@[simp] theorem State.setStk_buckets (s : State) (i : Nat) (x : Stack) : (s.setStk i x).buckets = s.buckets := rfl
@[simp] theorem State.setStk_tagHolds (s : State) (i : Nat) (x : Stack) : (s.setStk i x).tagHolds = s.tagHolds := rfl
@[simp] theorem State.setStk_tagWaits (s : State) (i : Nat) (x : Stack) : (s.setStk i x).tagWaits = s.tagWaits := rfl
@[simp] theorem State.setStk_fills (s : State) (i : Nat) (x : Stack) : (s.setStk i x).fills = s.fills := rfl
@[simp] theorem State.setStk_poison (s : State) (i : Nat) (x : Stack) : (s.setStk i x).poison = s.poison := rfl
@[simp] theorem State.setStk_stores (s : State) (i : Nat) (x : Stack) : (s.setStk i x).stores = s.stores := rfl
@[simp] theorem State.setStk_draw (s : State) (i : Nat) (x : Stack) : (s.setStk i x).draw = s.draw := rfl
@[simp] theorem State.setStk_pending (s : State) (i : Nat) (x : Stack) : (s.setStk i x).pending = s.pending := rfl

@[simp] theorem State.setPort_grade (s : State) (p : Nat) (x : Port) : (s.setPort p x).grade = s.grade := rfl
@[simp] theorem State.setPort_cores (s : State) (p : Nat) (x : Port) : (s.setPort p x).cores = s.cores := rfl
@[simp] theorem State.setPort_ticks (s : State) (p : Nat) (x : Port) : (s.setPort p x).ticks = s.ticks := rfl
@[simp] theorem State.setPort_power (s : State) (p : Nat) (x : Port) : (s.setPort p x).power = s.power := rfl
@[simp] theorem State.setPort_time (s : State) (p : Nat) (x : Port) : (s.setPort p x).time = s.time := rfl
@[simp] theorem State.setPort_host (s : State) (p : Nat) (x : Port) : (s.setPort p x).host = s.host := rfl
@[simp] theorem State.setPort_mbx (s : State) (p : Nat) (x : Port) : (s.setPort p x).mbx = s.mbx := rfl
@[simp] theorem State.setPort_evt (s : State) (p : Nat) (x : Port) : (s.setPort p x).evt = s.evt := rfl
@[simp] theorem State.setPort_hex (s : State) (p : Nat) (x : Port) : (s.setPort p x).hex = s.hex := rfl
@[simp] theorem State.setPort_ledger (s : State) (p : Nat) (x : Port) : (s.setPort p x).ledger = s.ledger := rfl
@[simp] theorem State.setPort_stamps (s : State) (p : Nat) (x : Port) : (s.setPort p x).stamps = s.stamps := rfl
@[simp] theorem State.setPort_wings (s : State) (p : Nat) (x : Port) : (s.setPort p x).wings = s.wings := rfl
@[simp] theorem State.setPort_bays (s : State) (p : Nat) (x : Port) : (s.setPort p x).bays = s.bays := rfl
@[simp] theorem State.setPort_stks (s : State) (p : Nat) (x : Port) : (s.setPort p x).stks = s.stks := rfl
@[simp] theorem State.setPort_ctxs (s : State) (p : Nat) (x : Port) : (s.setPort p x).ctxs = s.ctxs := rfl
@[simp] theorem State.setPort_map (s : State) (p : Nat) (x : Port) : (s.setPort p x).map = s.map := rfl
@[simp] theorem State.setPort_tests (s : State) (p : Nat) (x : Port) : (s.setPort p x).tests = s.tests := rfl
@[simp] theorem State.setPort_xbSuspect (s : State) (p : Nat) (x : Port) : (s.setPort p x).xbSuspect = s.xbSuspect := rfl
@[simp] theorem State.setPort_planes (s : State) (p : Nat) (x : Port) : (s.setPort p x).planes = s.planes := rfl
@[simp] theorem State.setPort_slots (s : State) (p : Nat) (x : Port) : (s.setPort p x).slots = s.slots := rfl
@[simp] theorem State.setPort_mem (s : State) (p : Nat) (x : Port) : (s.setPort p x).mem = s.mem := rfl
@[simp] theorem State.setPort_buckets (s : State) (p : Nat) (x : Port) : (s.setPort p x).buckets = s.buckets := rfl
@[simp] theorem State.setPort_tagHolds (s : State) (p : Nat) (x : Port) : (s.setPort p x).tagHolds = s.tagHolds := rfl
@[simp] theorem State.setPort_tagWaits (s : State) (p : Nat) (x : Port) : (s.setPort p x).tagWaits = s.tagWaits := rfl
@[simp] theorem State.setPort_fills (s : State) (p : Nat) (x : Port) : (s.setPort p x).fills = s.fills := rfl
@[simp] theorem State.setPort_poison (s : State) (p : Nat) (x : Port) : (s.setPort p x).poison = s.poison := rfl
@[simp] theorem State.setPort_stores (s : State) (p : Nat) (x : Port) : (s.setPort p x).stores = s.stores := rfl
@[simp] theorem State.setPort_draw (s : State) (p : Nat) (x : Port) : (s.setPort p x).draw = s.draw := rfl
@[simp] theorem State.setPort_pending (s : State) (p : Nat) (x : Port) : (s.setPort p x).pending = s.pending := rfl

@[simp] theorem State.setDom_grade (s : State) (d : Nat) (x : Domain) : (s.setDom d x).grade = s.grade := rfl
@[simp] theorem State.setDom_cores (s : State) (d : Nat) (x : Domain) : (s.setDom d x).cores = s.cores := rfl
@[simp] theorem State.setDom_ticks (s : State) (d : Nat) (x : Domain) : (s.setDom d x).ticks = s.ticks := rfl
@[simp] theorem State.setDom_time (s : State) (d : Nat) (x : Domain) : (s.setDom d x).time = s.time := rfl
@[simp] theorem State.setDom_host (s : State) (d : Nat) (x : Domain) : (s.setDom d x).host = s.host := rfl
@[simp] theorem State.setDom_mbx (s : State) (d : Nat) (x : Domain) : (s.setDom d x).mbx = s.mbx := rfl
@[simp] theorem State.setDom_evt (s : State) (d : Nat) (x : Domain) : (s.setDom d x).evt = s.evt := rfl
@[simp] theorem State.setDom_hex (s : State) (d : Nat) (x : Domain) : (s.setDom d x).hex = s.hex := rfl
@[simp] theorem State.setDom_ledger (s : State) (d : Nat) (x : Domain) : (s.setDom d x).ledger = s.ledger := rfl
@[simp] theorem State.setDom_stamps (s : State) (d : Nat) (x : Domain) : (s.setDom d x).stamps = s.stamps := rfl
@[simp] theorem State.setDom_wings (s : State) (d : Nat) (x : Domain) : (s.setDom d x).wings = s.wings := rfl
@[simp] theorem State.setDom_bays (s : State) (d : Nat) (x : Domain) : (s.setDom d x).bays = s.bays := rfl
@[simp] theorem State.setDom_stks (s : State) (d : Nat) (x : Domain) : (s.setDom d x).stks = s.stks := rfl
@[simp] theorem State.setDom_ports (s : State) (d : Nat) (x : Domain) : (s.setDom d x).ports = s.ports := rfl
@[simp] theorem State.setDom_ctxs (s : State) (d : Nat) (x : Domain) : (s.setDom d x).ctxs = s.ctxs := rfl
@[simp] theorem State.setDom_map (s : State) (d : Nat) (x : Domain) : (s.setDom d x).map = s.map := rfl
@[simp] theorem State.setDom_tests (s : State) (d : Nat) (x : Domain) : (s.setDom d x).tests = s.tests := rfl
@[simp] theorem State.setDom_xbSuspect (s : State) (d : Nat) (x : Domain) : (s.setDom d x).xbSuspect = s.xbSuspect := rfl
@[simp] theorem State.setDom_planes (s : State) (d : Nat) (x : Domain) : (s.setDom d x).planes = s.planes := rfl
@[simp] theorem State.setDom_slots (s : State) (d : Nat) (x : Domain) : (s.setDom d x).slots = s.slots := rfl
@[simp] theorem State.setDom_mem (s : State) (d : Nat) (x : Domain) : (s.setDom d x).mem = s.mem := rfl
@[simp] theorem State.setDom_buckets (s : State) (d : Nat) (x : Domain) : (s.setDom d x).buckets = s.buckets := rfl
@[simp] theorem State.setDom_tagHolds (s : State) (d : Nat) (x : Domain) : (s.setDom d x).tagHolds = s.tagHolds := rfl
@[simp] theorem State.setDom_tagWaits (s : State) (d : Nat) (x : Domain) : (s.setDom d x).tagWaits = s.tagWaits := rfl
@[simp] theorem State.setDom_fills (s : State) (d : Nat) (x : Domain) : (s.setDom d x).fills = s.fills := rfl
@[simp] theorem State.setDom_poison (s : State) (d : Nat) (x : Domain) : (s.setDom d x).poison = s.poison := rfl
@[simp] theorem State.setDom_stores (s : State) (d : Nat) (x : Domain) : (s.setDom d x).stores = s.stores := rfl
@[simp] theorem State.setDom_draw (s : State) (d : Nat) (x : Domain) : (s.setDom d x).draw = s.draw := rfl
@[simp] theorem State.setDom_pending (s : State) (d : Nat) (x : Domain) : (s.setDom d x).pending = s.pending := rfl

@[simp] theorem State.setCtx_grade (s : State) (c : Nat) (x : Ctx) : (s.setCtx c x).grade = s.grade := rfl
@[simp] theorem State.setCtx_cores (s : State) (c : Nat) (x : Ctx) : (s.setCtx c x).cores = s.cores := rfl
@[simp] theorem State.setCtx_ticks (s : State) (c : Nat) (x : Ctx) : (s.setCtx c x).ticks = s.ticks := rfl
@[simp] theorem State.setCtx_power (s : State) (c : Nat) (x : Ctx) : (s.setCtx c x).power = s.power := rfl
@[simp] theorem State.setCtx_time (s : State) (c : Nat) (x : Ctx) : (s.setCtx c x).time = s.time := rfl
@[simp] theorem State.setCtx_host (s : State) (c : Nat) (x : Ctx) : (s.setCtx c x).host = s.host := rfl
@[simp] theorem State.setCtx_mbx (s : State) (c : Nat) (x : Ctx) : (s.setCtx c x).mbx = s.mbx := rfl
@[simp] theorem State.setCtx_evt (s : State) (c : Nat) (x : Ctx) : (s.setCtx c x).evt = s.evt := rfl
@[simp] theorem State.setCtx_hex (s : State) (c : Nat) (x : Ctx) : (s.setCtx c x).hex = s.hex := rfl
@[simp] theorem State.setCtx_ledger (s : State) (c : Nat) (x : Ctx) : (s.setCtx c x).ledger = s.ledger := rfl
@[simp] theorem State.setCtx_stamps (s : State) (c : Nat) (x : Ctx) : (s.setCtx c x).stamps = s.stamps := rfl
@[simp] theorem State.setCtx_wings (s : State) (c : Nat) (x : Ctx) : (s.setCtx c x).wings = s.wings := rfl
@[simp] theorem State.setCtx_bays (s : State) (c : Nat) (x : Ctx) : (s.setCtx c x).bays = s.bays := rfl
@[simp] theorem State.setCtx_stks (s : State) (c : Nat) (x : Ctx) : (s.setCtx c x).stks = s.stks := rfl
@[simp] theorem State.setCtx_ports (s : State) (c : Nat) (x : Ctx) : (s.setCtx c x).ports = s.ports := rfl
@[simp] theorem State.setCtx_map (s : State) (c : Nat) (x : Ctx) : (s.setCtx c x).map = s.map := rfl
@[simp] theorem State.setCtx_tests (s : State) (c : Nat) (x : Ctx) : (s.setCtx c x).tests = s.tests := rfl
@[simp] theorem State.setCtx_xbSuspect (s : State) (c : Nat) (x : Ctx) : (s.setCtx c x).xbSuspect = s.xbSuspect := rfl
@[simp] theorem State.setCtx_planes (s : State) (c : Nat) (x : Ctx) : (s.setCtx c x).planes = s.planes := rfl
@[simp] theorem State.setCtx_slots (s : State) (c : Nat) (x : Ctx) : (s.setCtx c x).slots = s.slots := rfl
@[simp] theorem State.setCtx_mem (s : State) (c : Nat) (x : Ctx) : (s.setCtx c x).mem = s.mem := rfl
@[simp] theorem State.setCtx_buckets (s : State) (c : Nat) (x : Ctx) : (s.setCtx c x).buckets = s.buckets := rfl
@[simp] theorem State.setCtx_tagHolds (s : State) (c : Nat) (x : Ctx) : (s.setCtx c x).tagHolds = s.tagHolds := rfl
@[simp] theorem State.setCtx_tagWaits (s : State) (c : Nat) (x : Ctx) : (s.setCtx c x).tagWaits = s.tagWaits := rfl
@[simp] theorem State.setCtx_fills (s : State) (c : Nat) (x : Ctx) : (s.setCtx c x).fills = s.fills := rfl
@[simp] theorem State.setCtx_poison (s : State) (c : Nat) (x : Ctx) : (s.setCtx c x).poison = s.poison := rfl
@[simp] theorem State.setCtx_stores (s : State) (c : Nat) (x : Ctx) : (s.setCtx c x).stores = s.stores := rfl
@[simp] theorem State.setCtx_draw (s : State) (c : Nat) (x : Ctx) : (s.setCtx c x).draw = s.draw := rfl
@[simp] theorem State.setCtx_pending (s : State) (c : Nat) (x : Ctx) : (s.setCtx c x).pending = s.pending := rfl

@[simp] theorem State.setBucket_grade (s : State) (t : Nat) (x : Bucket) : (s.setBucket t x).grade = s.grade := rfl
@[simp] theorem State.setBucket_cores (s : State) (t : Nat) (x : Bucket) : (s.setBucket t x).cores = s.cores := rfl
@[simp] theorem State.setBucket_ticks (s : State) (t : Nat) (x : Bucket) : (s.setBucket t x).ticks = s.ticks := rfl
@[simp] theorem State.setBucket_power (s : State) (t : Nat) (x : Bucket) : (s.setBucket t x).power = s.power := rfl
@[simp] theorem State.setBucket_time (s : State) (t : Nat) (x : Bucket) : (s.setBucket t x).time = s.time := rfl
@[simp] theorem State.setBucket_host (s : State) (t : Nat) (x : Bucket) : (s.setBucket t x).host = s.host := rfl
@[simp] theorem State.setBucket_mbx (s : State) (t : Nat) (x : Bucket) : (s.setBucket t x).mbx = s.mbx := rfl
@[simp] theorem State.setBucket_evt (s : State) (t : Nat) (x : Bucket) : (s.setBucket t x).evt = s.evt := rfl
@[simp] theorem State.setBucket_hex (s : State) (t : Nat) (x : Bucket) : (s.setBucket t x).hex = s.hex := rfl
@[simp] theorem State.setBucket_ledger (s : State) (t : Nat) (x : Bucket) : (s.setBucket t x).ledger = s.ledger := rfl
@[simp] theorem State.setBucket_stamps (s : State) (t : Nat) (x : Bucket) : (s.setBucket t x).stamps = s.stamps := rfl
@[simp] theorem State.setBucket_wings (s : State) (t : Nat) (x : Bucket) : (s.setBucket t x).wings = s.wings := rfl
@[simp] theorem State.setBucket_bays (s : State) (t : Nat) (x : Bucket) : (s.setBucket t x).bays = s.bays := rfl
@[simp] theorem State.setBucket_stks (s : State) (t : Nat) (x : Bucket) : (s.setBucket t x).stks = s.stks := rfl
@[simp] theorem State.setBucket_ports (s : State) (t : Nat) (x : Bucket) : (s.setBucket t x).ports = s.ports := rfl
@[simp] theorem State.setBucket_ctxs (s : State) (t : Nat) (x : Bucket) : (s.setBucket t x).ctxs = s.ctxs := rfl
@[simp] theorem State.setBucket_map (s : State) (t : Nat) (x : Bucket) : (s.setBucket t x).map = s.map := rfl
@[simp] theorem State.setBucket_tests (s : State) (t : Nat) (x : Bucket) : (s.setBucket t x).tests = s.tests := rfl
@[simp] theorem State.setBucket_xbSuspect (s : State) (t : Nat) (x : Bucket) : (s.setBucket t x).xbSuspect = s.xbSuspect := rfl
@[simp] theorem State.setBucket_planes (s : State) (t : Nat) (x : Bucket) : (s.setBucket t x).planes = s.planes := rfl
@[simp] theorem State.setBucket_slots (s : State) (t : Nat) (x : Bucket) : (s.setBucket t x).slots = s.slots := rfl
@[simp] theorem State.setBucket_mem (s : State) (t : Nat) (x : Bucket) : (s.setBucket t x).mem = s.mem := rfl
@[simp] theorem State.setBucket_tagHolds (s : State) (t : Nat) (x : Bucket) : (s.setBucket t x).tagHolds = s.tagHolds := rfl
@[simp] theorem State.setBucket_tagWaits (s : State) (t : Nat) (x : Bucket) : (s.setBucket t x).tagWaits = s.tagWaits := rfl
@[simp] theorem State.setBucket_fills (s : State) (t : Nat) (x : Bucket) : (s.setBucket t x).fills = s.fills := rfl
@[simp] theorem State.setBucket_poison (s : State) (t : Nat) (x : Bucket) : (s.setBucket t x).poison = s.poison := rfl
@[simp] theorem State.setBucket_stores (s : State) (t : Nat) (x : Bucket) : (s.setBucket t x).stores = s.stores := rfl
@[simp] theorem State.setBucket_draw (s : State) (t : Nat) (x : Bucket) : (s.setBucket t x).draw = s.draw := rfl
@[simp] theorem State.setBucket_pending (s : State) (t : Nat) (x : Bucket) : (s.setBucket t x).pending = s.pending := rfl

@[simp] theorem State.setChan_grade (s : State) (w ch : Nat) (x : Channel) : (s.setChan w ch x).grade = s.grade := rfl
@[simp] theorem State.setChan_cores (s : State) (w ch : Nat) (x : Channel) : (s.setChan w ch x).cores = s.cores := rfl
@[simp] theorem State.setChan_ticks (s : State) (w ch : Nat) (x : Channel) : (s.setChan w ch x).ticks = s.ticks := rfl
@[simp] theorem State.setChan_power (s : State) (w ch : Nat) (x : Channel) : (s.setChan w ch x).power = s.power := rfl
@[simp] theorem State.setChan_time (s : State) (w ch : Nat) (x : Channel) : (s.setChan w ch x).time = s.time := rfl
@[simp] theorem State.setChan_host (s : State) (w ch : Nat) (x : Channel) : (s.setChan w ch x).host = s.host := rfl
@[simp] theorem State.setChan_mbx (s : State) (w ch : Nat) (x : Channel) : (s.setChan w ch x).mbx = s.mbx := rfl
@[simp] theorem State.setChan_evt (s : State) (w ch : Nat) (x : Channel) : (s.setChan w ch x).evt = s.evt := rfl
@[simp] theorem State.setChan_hex (s : State) (w ch : Nat) (x : Channel) : (s.setChan w ch x).hex = s.hex := rfl
@[simp] theorem State.setChan_ledger (s : State) (w ch : Nat) (x : Channel) : (s.setChan w ch x).ledger = s.ledger := rfl
@[simp] theorem State.setChan_stamps (s : State) (w ch : Nat) (x : Channel) : (s.setChan w ch x).stamps = s.stamps := rfl
@[simp] theorem State.setChan_bays (s : State) (w ch : Nat) (x : Channel) : (s.setChan w ch x).bays = s.bays := rfl
@[simp] theorem State.setChan_stks (s : State) (w ch : Nat) (x : Channel) : (s.setChan w ch x).stks = s.stks := rfl
@[simp] theorem State.setChan_ports (s : State) (w ch : Nat) (x : Channel) : (s.setChan w ch x).ports = s.ports := rfl
@[simp] theorem State.setChan_ctxs (s : State) (w ch : Nat) (x : Channel) : (s.setChan w ch x).ctxs = s.ctxs := rfl
@[simp] theorem State.setChan_map (s : State) (w ch : Nat) (x : Channel) : (s.setChan w ch x).map = s.map := rfl
@[simp] theorem State.setChan_tests (s : State) (w ch : Nat) (x : Channel) : (s.setChan w ch x).tests = s.tests := rfl
@[simp] theorem State.setChan_xbSuspect (s : State) (w ch : Nat) (x : Channel) : (s.setChan w ch x).xbSuspect = s.xbSuspect := rfl
@[simp] theorem State.setChan_planes (s : State) (w ch : Nat) (x : Channel) : (s.setChan w ch x).planes = s.planes := rfl
@[simp] theorem State.setChan_slots (s : State) (w ch : Nat) (x : Channel) : (s.setChan w ch x).slots = s.slots := rfl
@[simp] theorem State.setChan_mem (s : State) (w ch : Nat) (x : Channel) : (s.setChan w ch x).mem = s.mem := rfl
@[simp] theorem State.setChan_buckets (s : State) (w ch : Nat) (x : Channel) : (s.setChan w ch x).buckets = s.buckets := rfl
@[simp] theorem State.setChan_tagHolds (s : State) (w ch : Nat) (x : Channel) : (s.setChan w ch x).tagHolds = s.tagHolds := rfl
@[simp] theorem State.setChan_tagWaits (s : State) (w ch : Nat) (x : Channel) : (s.setChan w ch x).tagWaits = s.tagWaits := rfl
@[simp] theorem State.setChan_fills (s : State) (w ch : Nat) (x : Channel) : (s.setChan w ch x).fills = s.fills := rfl
@[simp] theorem State.setChan_poison (s : State) (w ch : Nat) (x : Channel) : (s.setChan w ch x).poison = s.poison := rfl
@[simp] theorem State.setChan_stores (s : State) (w ch : Nat) (x : Channel) : (s.setChan w ch x).stores = s.stores := rfl
@[simp] theorem State.setChan_draw (s : State) (w ch : Nat) (x : Channel) : (s.setChan w ch x).draw = s.draw := rfl
@[simp] theorem State.setChan_pending (s : State) (w ch : Nat) (x : Channel) : (s.setChan w ch x).pending = s.pending := rfl

@[simp] theorem State.setCard_grade (s : State) (c h : Nat) (x : Card) : (s.setCard c h x).grade = s.grade := rfl
@[simp] theorem State.setCard_cores (s : State) (c h : Nat) (x : Card) : (s.setCard c h x).cores = s.cores := rfl
@[simp] theorem State.setCard_ticks (s : State) (c h : Nat) (x : Card) : (s.setCard c h x).ticks = s.ticks := rfl
@[simp] theorem State.setCard_power (s : State) (c h : Nat) (x : Card) : (s.setCard c h x).power = s.power := rfl
@[simp] theorem State.setCard_time (s : State) (c h : Nat) (x : Card) : (s.setCard c h x).time = s.time := rfl
@[simp] theorem State.setCard_host (s : State) (c h : Nat) (x : Card) : (s.setCard c h x).host = s.host := rfl
@[simp] theorem State.setCard_mbx (s : State) (c h : Nat) (x : Card) : (s.setCard c h x).mbx = s.mbx := rfl
@[simp] theorem State.setCard_evt (s : State) (c h : Nat) (x : Card) : (s.setCard c h x).evt = s.evt := rfl
@[simp] theorem State.setCard_hex (s : State) (c h : Nat) (x : Card) : (s.setCard c h x).hex = s.hex := rfl
@[simp] theorem State.setCard_ledger (s : State) (c h : Nat) (x : Card) : (s.setCard c h x).ledger = s.ledger := rfl
@[simp] theorem State.setCard_stamps (s : State) (c h : Nat) (x : Card) : (s.setCard c h x).stamps = s.stamps := rfl
@[simp] theorem State.setCard_wings (s : State) (c h : Nat) (x : Card) : (s.setCard c h x).wings = s.wings := rfl
@[simp] theorem State.setCard_bays (s : State) (c h : Nat) (x : Card) : (s.setCard c h x).bays = s.bays := rfl
@[simp] theorem State.setCard_stks (s : State) (c h : Nat) (x : Card) : (s.setCard c h x).stks = s.stks := rfl
@[simp] theorem State.setCard_ports (s : State) (c h : Nat) (x : Card) : (s.setCard c h x).ports = s.ports := rfl
@[simp] theorem State.setCard_map (s : State) (c h : Nat) (x : Card) : (s.setCard c h x).map = s.map := rfl
@[simp] theorem State.setCard_tests (s : State) (c h : Nat) (x : Card) : (s.setCard c h x).tests = s.tests := rfl
@[simp] theorem State.setCard_xbSuspect (s : State) (c h : Nat) (x : Card) : (s.setCard c h x).xbSuspect = s.xbSuspect := rfl
@[simp] theorem State.setCard_planes (s : State) (c h : Nat) (x : Card) : (s.setCard c h x).planes = s.planes := rfl
@[simp] theorem State.setCard_slots (s : State) (c h : Nat) (x : Card) : (s.setCard c h x).slots = s.slots := rfl
@[simp] theorem State.setCard_mem (s : State) (c h : Nat) (x : Card) : (s.setCard c h x).mem = s.mem := rfl
@[simp] theorem State.setCard_buckets (s : State) (c h : Nat) (x : Card) : (s.setCard c h x).buckets = s.buckets := rfl
@[simp] theorem State.setCard_tagHolds (s : State) (c h : Nat) (x : Card) : (s.setCard c h x).tagHolds = s.tagHolds := rfl
@[simp] theorem State.setCard_tagWaits (s : State) (c h : Nat) (x : Card) : (s.setCard c h x).tagWaits = s.tagWaits := rfl
@[simp] theorem State.setCard_fills (s : State) (c h : Nat) (x : Card) : (s.setCard c h x).fills = s.fills := rfl
@[simp] theorem State.setCard_poison (s : State) (c h : Nat) (x : Card) : (s.setCard c h x).poison = s.poison := rfl
@[simp] theorem State.setCard_stores (s : State) (c h : Nat) (x : Card) : (s.setCard c h x).stores = s.stores := rfl
@[simp] theorem State.setCard_draw (s : State) (c h : Nat) (x : Card) : (s.setCard c h x).draw = s.draw := rfl
@[simp] theorem State.setCard_pending (s : State) (c h : Nat) (x : Card) : (s.setCard c h x).pending = s.pending := rfl

@[simp] theorem State.setStream_grade (s : State) (c n : Nat) (x : Stream) : (s.setStream c n x).grade = s.grade := rfl
@[simp] theorem State.setStream_cores (s : State) (c n : Nat) (x : Stream) : (s.setStream c n x).cores = s.cores := rfl
@[simp] theorem State.setStream_ticks (s : State) (c n : Nat) (x : Stream) : (s.setStream c n x).ticks = s.ticks := rfl
@[simp] theorem State.setStream_power (s : State) (c n : Nat) (x : Stream) : (s.setStream c n x).power = s.power := rfl
@[simp] theorem State.setStream_time (s : State) (c n : Nat) (x : Stream) : (s.setStream c n x).time = s.time := rfl
@[simp] theorem State.setStream_host (s : State) (c n : Nat) (x : Stream) : (s.setStream c n x).host = s.host := rfl
@[simp] theorem State.setStream_mbx (s : State) (c n : Nat) (x : Stream) : (s.setStream c n x).mbx = s.mbx := rfl
@[simp] theorem State.setStream_evt (s : State) (c n : Nat) (x : Stream) : (s.setStream c n x).evt = s.evt := rfl
@[simp] theorem State.setStream_hex (s : State) (c n : Nat) (x : Stream) : (s.setStream c n x).hex = s.hex := rfl
@[simp] theorem State.setStream_ledger (s : State) (c n : Nat) (x : Stream) : (s.setStream c n x).ledger = s.ledger := rfl
@[simp] theorem State.setStream_stamps (s : State) (c n : Nat) (x : Stream) : (s.setStream c n x).stamps = s.stamps := rfl
@[simp] theorem State.setStream_wings (s : State) (c n : Nat) (x : Stream) : (s.setStream c n x).wings = s.wings := rfl
@[simp] theorem State.setStream_bays (s : State) (c n : Nat) (x : Stream) : (s.setStream c n x).bays = s.bays := rfl
@[simp] theorem State.setStream_stks (s : State) (c n : Nat) (x : Stream) : (s.setStream c n x).stks = s.stks := rfl
@[simp] theorem State.setStream_ports (s : State) (c n : Nat) (x : Stream) : (s.setStream c n x).ports = s.ports := rfl
@[simp] theorem State.setStream_map (s : State) (c n : Nat) (x : Stream) : (s.setStream c n x).map = s.map := rfl
@[simp] theorem State.setStream_tests (s : State) (c n : Nat) (x : Stream) : (s.setStream c n x).tests = s.tests := rfl
@[simp] theorem State.setStream_xbSuspect (s : State) (c n : Nat) (x : Stream) : (s.setStream c n x).xbSuspect = s.xbSuspect := rfl
@[simp] theorem State.setStream_planes (s : State) (c n : Nat) (x : Stream) : (s.setStream c n x).planes = s.planes := rfl
@[simp] theorem State.setStream_slots (s : State) (c n : Nat) (x : Stream) : (s.setStream c n x).slots = s.slots := rfl
@[simp] theorem State.setStream_mem (s : State) (c n : Nat) (x : Stream) : (s.setStream c n x).mem = s.mem := rfl
@[simp] theorem State.setStream_buckets (s : State) (c n : Nat) (x : Stream) : (s.setStream c n x).buckets = s.buckets := rfl
@[simp] theorem State.setStream_tagHolds (s : State) (c n : Nat) (x : Stream) : (s.setStream c n x).tagHolds = s.tagHolds := rfl
@[simp] theorem State.setStream_tagWaits (s : State) (c n : Nat) (x : Stream) : (s.setStream c n x).tagWaits = s.tagWaits := rfl
@[simp] theorem State.setStream_fills (s : State) (c n : Nat) (x : Stream) : (s.setStream c n x).fills = s.fills := rfl
@[simp] theorem State.setStream_poison (s : State) (c n : Nat) (x : Stream) : (s.setStream c n x).poison = s.poison := rfl
@[simp] theorem State.setStream_stores (s : State) (c n : Nat) (x : Stream) : (s.setStream c n x).stores = s.stores := rfl
@[simp] theorem State.setStream_draw (s : State) (c n : Nat) (x : Stream) : (s.setStream c n x).draw = s.draw := rfl
@[simp] theorem State.setStream_pending (s : State) (c n : Nat) (x : Stream) : (s.setStream c n x).pending = s.pending := rfl

@[simp] theorem State.count_grade (s : State) (j n : Nat) : (s.count j n).grade = s.grade := rfl
@[simp] theorem State.count_cores (s : State) (j n : Nat) : (s.count j n).cores = s.cores := rfl
@[simp] theorem State.count_ticks (s : State) (j n : Nat) : (s.count j n).ticks = s.ticks := rfl
@[simp] theorem State.count_power (s : State) (j n : Nat) : (s.count j n).power = s.power := rfl
@[simp] theorem State.count_time (s : State) (j n : Nat) : (s.count j n).time = s.time := rfl
@[simp] theorem State.count_host (s : State) (j n : Nat) : (s.count j n).host = s.host := rfl
@[simp] theorem State.count_mbx (s : State) (j n : Nat) : (s.count j n).mbx = s.mbx := rfl
@[simp] theorem State.count_hex (s : State) (j n : Nat) : (s.count j n).hex = s.hex := rfl
@[simp] theorem State.count_ledger (s : State) (j n : Nat) : (s.count j n).ledger = s.ledger := rfl
@[simp] theorem State.count_stamps (s : State) (j n : Nat) : (s.count j n).stamps = s.stamps := rfl
@[simp] theorem State.count_wings (s : State) (j n : Nat) : (s.count j n).wings = s.wings := rfl
@[simp] theorem State.count_bays (s : State) (j n : Nat) : (s.count j n).bays = s.bays := rfl
@[simp] theorem State.count_stks (s : State) (j n : Nat) : (s.count j n).stks = s.stks := rfl
@[simp] theorem State.count_ports (s : State) (j n : Nat) : (s.count j n).ports = s.ports := rfl
@[simp] theorem State.count_ctxs (s : State) (j n : Nat) : (s.count j n).ctxs = s.ctxs := rfl
@[simp] theorem State.count_map (s : State) (j n : Nat) : (s.count j n).map = s.map := rfl
@[simp] theorem State.count_tests (s : State) (j n : Nat) : (s.count j n).tests = s.tests := rfl
@[simp] theorem State.count_xbSuspect (s : State) (j n : Nat) : (s.count j n).xbSuspect = s.xbSuspect := rfl
@[simp] theorem State.count_planes (s : State) (j n : Nat) : (s.count j n).planes = s.planes := rfl
@[simp] theorem State.count_slots (s : State) (j n : Nat) : (s.count j n).slots = s.slots := rfl
@[simp] theorem State.count_mem (s : State) (j n : Nat) : (s.count j n).mem = s.mem := rfl
@[simp] theorem State.count_buckets (s : State) (j n : Nat) : (s.count j n).buckets = s.buckets := rfl
@[simp] theorem State.count_tagHolds (s : State) (j n : Nat) : (s.count j n).tagHolds = s.tagHolds := rfl
@[simp] theorem State.count_tagWaits (s : State) (j n : Nat) : (s.count j n).tagWaits = s.tagWaits := rfl
@[simp] theorem State.count_fills (s : State) (j n : Nat) : (s.count j n).fills = s.fills := rfl
@[simp] theorem State.count_poison (s : State) (j n : Nat) : (s.count j n).poison = s.poison := rfl
@[simp] theorem State.count_stores (s : State) (j n : Nat) : (s.count j n).stores = s.stores := rfl
@[simp] theorem State.count_draw (s : State) (j n : Nat) : (s.count j n).draw = s.draw := rfl
@[simp] theorem State.count_pending (s : State) (j n : Nat) : (s.count j n).pending = s.pending := rfl

@[simp] theorem State.hostWrite_grade (s : State) (a : Nat) (bs : List Byte) : (s.hostWrite a bs).grade = s.grade := rfl
@[simp] theorem State.hostWrite_cores (s : State) (a : Nat) (bs : List Byte) : (s.hostWrite a bs).cores = s.cores := rfl
@[simp] theorem State.hostWrite_ticks (s : State) (a : Nat) (bs : List Byte) : (s.hostWrite a bs).ticks = s.ticks := rfl
@[simp] theorem State.hostWrite_power (s : State) (a : Nat) (bs : List Byte) : (s.hostWrite a bs).power = s.power := rfl
@[simp] theorem State.hostWrite_time (s : State) (a : Nat) (bs : List Byte) : (s.hostWrite a bs).time = s.time := rfl
@[simp] theorem State.hostWrite_mbx (s : State) (a : Nat) (bs : List Byte) : (s.hostWrite a bs).mbx = s.mbx := rfl
@[simp] theorem State.hostWrite_evt (s : State) (a : Nat) (bs : List Byte) : (s.hostWrite a bs).evt = s.evt := rfl
@[simp] theorem State.hostWrite_hex (s : State) (a : Nat) (bs : List Byte) : (s.hostWrite a bs).hex = s.hex := rfl
@[simp] theorem State.hostWrite_ledger (s : State) (a : Nat) (bs : List Byte) : (s.hostWrite a bs).ledger = s.ledger := rfl
@[simp] theorem State.hostWrite_stamps (s : State) (a : Nat) (bs : List Byte) : (s.hostWrite a bs).stamps = s.stamps := rfl
@[simp] theorem State.hostWrite_wings (s : State) (a : Nat) (bs : List Byte) : (s.hostWrite a bs).wings = s.wings := rfl
@[simp] theorem State.hostWrite_bays (s : State) (a : Nat) (bs : List Byte) : (s.hostWrite a bs).bays = s.bays := rfl
@[simp] theorem State.hostWrite_stks (s : State) (a : Nat) (bs : List Byte) : (s.hostWrite a bs).stks = s.stks := rfl
@[simp] theorem State.hostWrite_ports (s : State) (a : Nat) (bs : List Byte) : (s.hostWrite a bs).ports = s.ports := rfl
@[simp] theorem State.hostWrite_ctxs (s : State) (a : Nat) (bs : List Byte) : (s.hostWrite a bs).ctxs = s.ctxs := rfl
@[simp] theorem State.hostWrite_map (s : State) (a : Nat) (bs : List Byte) : (s.hostWrite a bs).map = s.map := rfl
@[simp] theorem State.hostWrite_tests (s : State) (a : Nat) (bs : List Byte) : (s.hostWrite a bs).tests = s.tests := rfl
@[simp] theorem State.hostWrite_xbSuspect (s : State) (a : Nat) (bs : List Byte) : (s.hostWrite a bs).xbSuspect = s.xbSuspect := rfl
@[simp] theorem State.hostWrite_planes (s : State) (a : Nat) (bs : List Byte) : (s.hostWrite a bs).planes = s.planes := rfl
@[simp] theorem State.hostWrite_slots (s : State) (a : Nat) (bs : List Byte) : (s.hostWrite a bs).slots = s.slots := rfl
@[simp] theorem State.hostWrite_mem (s : State) (a : Nat) (bs : List Byte) : (s.hostWrite a bs).mem = s.mem := rfl
@[simp] theorem State.hostWrite_buckets (s : State) (a : Nat) (bs : List Byte) : (s.hostWrite a bs).buckets = s.buckets := rfl
@[simp] theorem State.hostWrite_tagHolds (s : State) (a : Nat) (bs : List Byte) : (s.hostWrite a bs).tagHolds = s.tagHolds := rfl
@[simp] theorem State.hostWrite_tagWaits (s : State) (a : Nat) (bs : List Byte) : (s.hostWrite a bs).tagWaits = s.tagWaits := rfl
@[simp] theorem State.hostWrite_fills (s : State) (a : Nat) (bs : List Byte) : (s.hostWrite a bs).fills = s.fills := rfl
@[simp] theorem State.hostWrite_poison (s : State) (a : Nat) (bs : List Byte) : (s.hostWrite a bs).poison = s.poison := rfl
@[simp] theorem State.hostWrite_stores (s : State) (a : Nat) (bs : List Byte) : (s.hostWrite a bs).stores = s.stores := rfl
@[simp] theorem State.hostWrite_draw (s : State) (a : Nat) (bs : List Byte) : (s.hostWrite a bs).draw = s.draw := rfl
@[simp] theorem State.hostWrite_pending (s : State) (a : Nat) (bs : List Byte) : (s.hostWrite a bs).pending = s.pending := rfl

@[simp] theorem State.tallyBay_grade (s : State) (i j : Nat) : (s.tallyBay i j).grade = s.grade := rfl
@[simp] theorem State.tallyBay_cores (s : State) (i j : Nat) : (s.tallyBay i j).cores = s.cores := rfl
@[simp] theorem State.tallyBay_ticks (s : State) (i j : Nat) : (s.tallyBay i j).ticks = s.ticks := rfl
@[simp] theorem State.tallyBay_power (s : State) (i j : Nat) : (s.tallyBay i j).power = s.power := rfl
@[simp] theorem State.tallyBay_time (s : State) (i j : Nat) : (s.tallyBay i j).time = s.time := rfl
@[simp] theorem State.tallyBay_host (s : State) (i j : Nat) : (s.tallyBay i j).host = s.host := rfl
@[simp] theorem State.tallyBay_mbx (s : State) (i j : Nat) : (s.tallyBay i j).mbx = s.mbx := rfl
@[simp] theorem State.tallyBay_evt (s : State) (i j : Nat) : (s.tallyBay i j).evt = s.evt := rfl
@[simp] theorem State.tallyBay_hex (s : State) (i j : Nat) : (s.tallyBay i j).hex = s.hex := rfl
@[simp] theorem State.tallyBay_ledger (s : State) (i j : Nat) : (s.tallyBay i j).ledger = s.ledger := rfl
@[simp] theorem State.tallyBay_stamps (s : State) (i j : Nat) : (s.tallyBay i j).stamps = s.stamps := rfl
@[simp] theorem State.tallyBay_wings (s : State) (i j : Nat) : (s.tallyBay i j).wings = s.wings := rfl
@[simp] theorem State.tallyBay_stks (s : State) (i j : Nat) : (s.tallyBay i j).stks = s.stks := rfl
@[simp] theorem State.tallyBay_ports (s : State) (i j : Nat) : (s.tallyBay i j).ports = s.ports := rfl
@[simp] theorem State.tallyBay_ctxs (s : State) (i j : Nat) : (s.tallyBay i j).ctxs = s.ctxs := rfl
@[simp] theorem State.tallyBay_map (s : State) (i j : Nat) : (s.tallyBay i j).map = s.map := rfl
@[simp] theorem State.tallyBay_tests (s : State) (i j : Nat) : (s.tallyBay i j).tests = s.tests := rfl
@[simp] theorem State.tallyBay_xbSuspect (s : State) (i j : Nat) : (s.tallyBay i j).xbSuspect = s.xbSuspect := rfl
@[simp] theorem State.tallyBay_planes (s : State) (i j : Nat) : (s.tallyBay i j).planes = s.planes := rfl
@[simp] theorem State.tallyBay_slots (s : State) (i j : Nat) : (s.tallyBay i j).slots = s.slots := rfl
@[simp] theorem State.tallyBay_mem (s : State) (i j : Nat) : (s.tallyBay i j).mem = s.mem := rfl
@[simp] theorem State.tallyBay_buckets (s : State) (i j : Nat) : (s.tallyBay i j).buckets = s.buckets := rfl
@[simp] theorem State.tallyBay_tagHolds (s : State) (i j : Nat) : (s.tallyBay i j).tagHolds = s.tagHolds := rfl
@[simp] theorem State.tallyBay_tagWaits (s : State) (i j : Nat) : (s.tallyBay i j).tagWaits = s.tagWaits := rfl
@[simp] theorem State.tallyBay_fills (s : State) (i j : Nat) : (s.tallyBay i j).fills = s.fills := rfl
@[simp] theorem State.tallyBay_poison (s : State) (i j : Nat) : (s.tallyBay i j).poison = s.poison := rfl
@[simp] theorem State.tallyBay_stores (s : State) (i j : Nat) : (s.tallyBay i j).stores = s.stores := rfl
@[simp] theorem State.tallyBay_draw (s : State) (i j : Nat) : (s.tallyBay i j).draw = s.draw := rfl
@[simp] theorem State.tallyBay_pending (s : State) (i j : Nat) : (s.tallyBay i j).pending = s.pending := rfl

@[simp] theorem State.tallyWing_grade (s : State) (w j : Nat) : (s.tallyWing w j).grade = s.grade := rfl
@[simp] theorem State.tallyWing_cores (s : State) (w j : Nat) : (s.tallyWing w j).cores = s.cores := rfl
@[simp] theorem State.tallyWing_ticks (s : State) (w j : Nat) : (s.tallyWing w j).ticks = s.ticks := rfl
@[simp] theorem State.tallyWing_power (s : State) (w j : Nat) : (s.tallyWing w j).power = s.power := rfl
@[simp] theorem State.tallyWing_time (s : State) (w j : Nat) : (s.tallyWing w j).time = s.time := rfl
@[simp] theorem State.tallyWing_host (s : State) (w j : Nat) : (s.tallyWing w j).host = s.host := rfl
@[simp] theorem State.tallyWing_mbx (s : State) (w j : Nat) : (s.tallyWing w j).mbx = s.mbx := rfl
@[simp] theorem State.tallyWing_evt (s : State) (w j : Nat) : (s.tallyWing w j).evt = s.evt := rfl
@[simp] theorem State.tallyWing_hex (s : State) (w j : Nat) : (s.tallyWing w j).hex = s.hex := rfl
@[simp] theorem State.tallyWing_ledger (s : State) (w j : Nat) : (s.tallyWing w j).ledger = s.ledger := rfl
@[simp] theorem State.tallyWing_stamps (s : State) (w j : Nat) : (s.tallyWing w j).stamps = s.stamps := rfl
@[simp] theorem State.tallyWing_bays (s : State) (w j : Nat) : (s.tallyWing w j).bays = s.bays := rfl
@[simp] theorem State.tallyWing_stks (s : State) (w j : Nat) : (s.tallyWing w j).stks = s.stks := rfl
@[simp] theorem State.tallyWing_ports (s : State) (w j : Nat) : (s.tallyWing w j).ports = s.ports := rfl
@[simp] theorem State.tallyWing_ctxs (s : State) (w j : Nat) : (s.tallyWing w j).ctxs = s.ctxs := rfl
@[simp] theorem State.tallyWing_map (s : State) (w j : Nat) : (s.tallyWing w j).map = s.map := rfl
@[simp] theorem State.tallyWing_tests (s : State) (w j : Nat) : (s.tallyWing w j).tests = s.tests := rfl
@[simp] theorem State.tallyWing_xbSuspect (s : State) (w j : Nat) : (s.tallyWing w j).xbSuspect = s.xbSuspect := rfl
@[simp] theorem State.tallyWing_planes (s : State) (w j : Nat) : (s.tallyWing w j).planes = s.planes := rfl
@[simp] theorem State.tallyWing_slots (s : State) (w j : Nat) : (s.tallyWing w j).slots = s.slots := rfl
@[simp] theorem State.tallyWing_mem (s : State) (w j : Nat) : (s.tallyWing w j).mem = s.mem := rfl
@[simp] theorem State.tallyWing_buckets (s : State) (w j : Nat) : (s.tallyWing w j).buckets = s.buckets := rfl
@[simp] theorem State.tallyWing_tagHolds (s : State) (w j : Nat) : (s.tallyWing w j).tagHolds = s.tagHolds := rfl
@[simp] theorem State.tallyWing_tagWaits (s : State) (w j : Nat) : (s.tallyWing w j).tagWaits = s.tagWaits := rfl
@[simp] theorem State.tallyWing_fills (s : State) (w j : Nat) : (s.tallyWing w j).fills = s.fills := rfl
@[simp] theorem State.tallyWing_poison (s : State) (w j : Nat) : (s.tallyWing w j).poison = s.poison := rfl
@[simp] theorem State.tallyWing_stores (s : State) (w j : Nat) : (s.tallyWing w j).stores = s.stores := rfl
@[simp] theorem State.tallyWing_draw (s : State) (w j : Nat) : (s.tallyWing w j).draw = s.draw := rfl
@[simp] theorem State.tallyWing_pending (s : State) (w j : Nat) : (s.tallyWing w j).pending = s.pending := rfl

@[simp] theorem State.setHealth_grade (s : State) (i : Nat) (v : Bool) : (s.setHealth i v).grade = s.grade := rfl
@[simp] theorem State.setHealth_cores (s : State) (i : Nat) (v : Bool) : (s.setHealth i v).cores = s.cores := rfl
@[simp] theorem State.setHealth_ticks (s : State) (i : Nat) (v : Bool) : (s.setHealth i v).ticks = s.ticks := rfl
@[simp] theorem State.setHealth_power (s : State) (i : Nat) (v : Bool) : (s.setHealth i v).power = s.power := rfl
@[simp] theorem State.setHealth_time (s : State) (i : Nat) (v : Bool) : (s.setHealth i v).time = s.time := rfl
@[simp] theorem State.setHealth_mbx (s : State) (i : Nat) (v : Bool) : (s.setHealth i v).mbx = s.mbx := rfl
@[simp] theorem State.setHealth_evt (s : State) (i : Nat) (v : Bool) : (s.setHealth i v).evt = s.evt := rfl
@[simp] theorem State.setHealth_hex (s : State) (i : Nat) (v : Bool) : (s.setHealth i v).hex = s.hex := rfl
@[simp] theorem State.setHealth_ledger (s : State) (i : Nat) (v : Bool) : (s.setHealth i v).ledger = s.ledger := rfl
@[simp] theorem State.setHealth_stamps (s : State) (i : Nat) (v : Bool) : (s.setHealth i v).stamps = s.stamps := rfl
@[simp] theorem State.setHealth_wings (s : State) (i : Nat) (v : Bool) : (s.setHealth i v).wings = s.wings := rfl
@[simp] theorem State.setHealth_bays (s : State) (i : Nat) (v : Bool) : (s.setHealth i v).bays = s.bays := rfl
@[simp] theorem State.setHealth_stks (s : State) (i : Nat) (v : Bool) : (s.setHealth i v).stks = s.stks := rfl
@[simp] theorem State.setHealth_ports (s : State) (i : Nat) (v : Bool) : (s.setHealth i v).ports = s.ports := rfl
@[simp] theorem State.setHealth_ctxs (s : State) (i : Nat) (v : Bool) : (s.setHealth i v).ctxs = s.ctxs := rfl
@[simp] theorem State.setHealth_map (s : State) (i : Nat) (v : Bool) : (s.setHealth i v).map = s.map := rfl
@[simp] theorem State.setHealth_tests (s : State) (i : Nat) (v : Bool) : (s.setHealth i v).tests = s.tests := rfl
@[simp] theorem State.setHealth_xbSuspect (s : State) (i : Nat) (v : Bool) : (s.setHealth i v).xbSuspect = s.xbSuspect := rfl
@[simp] theorem State.setHealth_planes (s : State) (i : Nat) (v : Bool) : (s.setHealth i v).planes = s.planes := rfl
@[simp] theorem State.setHealth_slots (s : State) (i : Nat) (v : Bool) : (s.setHealth i v).slots = s.slots := rfl
@[simp] theorem State.setHealth_mem (s : State) (i : Nat) (v : Bool) : (s.setHealth i v).mem = s.mem := rfl
@[simp] theorem State.setHealth_buckets (s : State) (i : Nat) (v : Bool) : (s.setHealth i v).buckets = s.buckets := rfl
@[simp] theorem State.setHealth_tagHolds (s : State) (i : Nat) (v : Bool) : (s.setHealth i v).tagHolds = s.tagHolds := rfl
@[simp] theorem State.setHealth_tagWaits (s : State) (i : Nat) (v : Bool) : (s.setHealth i v).tagWaits = s.tagWaits := rfl
@[simp] theorem State.setHealth_fills (s : State) (i : Nat) (v : Bool) : (s.setHealth i v).fills = s.fills := rfl
@[simp] theorem State.setHealth_poison (s : State) (i : Nat) (v : Bool) : (s.setHealth i v).poison = s.poison := rfl
@[simp] theorem State.setHealth_stores (s : State) (i : Nat) (v : Bool) : (s.setHealth i v).stores = s.stores := rfl
@[simp] theorem State.setHealth_draw (s : State) (i : Nat) (v : Bool) : (s.setHealth i v).draw = s.draw := rfl
@[simp] theorem State.setHealth_pending (s : State) (i : Nat) (v : Bool) : (s.setHealth i v).pending = s.pending := rfl

@[simp] theorem State.errRec_grade (s : State) (a b d : Nat) (l : List Byte) : (s.errRec a b d l).grade = s.grade := rfl
@[simp] theorem State.errRec_cores (s : State) (a b d : Nat) (l : List Byte) : (s.errRec a b d l).cores = s.cores := rfl
@[simp] theorem State.errRec_ticks (s : State) (a b d : Nat) (l : List Byte) : (s.errRec a b d l).ticks = s.ticks := rfl
@[simp] theorem State.errRec_power (s : State) (a b d : Nat) (l : List Byte) : (s.errRec a b d l).power = s.power := rfl
@[simp] theorem State.errRec_time (s : State) (a b d : Nat) (l : List Byte) : (s.errRec a b d l).time = s.time := rfl
@[simp] theorem State.errRec_host (s : State) (a b d : Nat) (l : List Byte) : (s.errRec a b d l).host = s.host := rfl
@[simp] theorem State.errRec_mbx (s : State) (a b d : Nat) (l : List Byte) : (s.errRec a b d l).mbx = s.mbx := rfl
@[simp] theorem State.errRec_evt (s : State) (a b d : Nat) (l : List Byte) : (s.errRec a b d l).evt = s.evt := rfl
@[simp] theorem State.errRec_hex (s : State) (a b d : Nat) (l : List Byte) : (s.errRec a b d l).hex = s.hex := rfl
@[simp] theorem State.errRec_stamps (s : State) (a b d : Nat) (l : List Byte) : (s.errRec a b d l).stamps = s.stamps := rfl
@[simp] theorem State.errRec_wings (s : State) (a b d : Nat) (l : List Byte) : (s.errRec a b d l).wings = s.wings := rfl
@[simp] theorem State.errRec_bays (s : State) (a b d : Nat) (l : List Byte) : (s.errRec a b d l).bays = s.bays := rfl
@[simp] theorem State.errRec_stks (s : State) (a b d : Nat) (l : List Byte) : (s.errRec a b d l).stks = s.stks := rfl
@[simp] theorem State.errRec_ports (s : State) (a b d : Nat) (l : List Byte) : (s.errRec a b d l).ports = s.ports := rfl
@[simp] theorem State.errRec_ctxs (s : State) (a b d : Nat) (l : List Byte) : (s.errRec a b d l).ctxs = s.ctxs := rfl
@[simp] theorem State.errRec_map (s : State) (a b d : Nat) (l : List Byte) : (s.errRec a b d l).map = s.map := rfl
@[simp] theorem State.errRec_tests (s : State) (a b d : Nat) (l : List Byte) : (s.errRec a b d l).tests = s.tests := rfl
@[simp] theorem State.errRec_xbSuspect (s : State) (a b d : Nat) (l : List Byte) : (s.errRec a b d l).xbSuspect = s.xbSuspect := rfl
@[simp] theorem State.errRec_planes (s : State) (a b d : Nat) (l : List Byte) : (s.errRec a b d l).planes = s.planes := rfl
@[simp] theorem State.errRec_slots (s : State) (a b d : Nat) (l : List Byte) : (s.errRec a b d l).slots = s.slots := rfl
@[simp] theorem State.errRec_mem (s : State) (a b d : Nat) (l : List Byte) : (s.errRec a b d l).mem = s.mem := rfl
@[simp] theorem State.errRec_buckets (s : State) (a b d : Nat) (l : List Byte) : (s.errRec a b d l).buckets = s.buckets := rfl
@[simp] theorem State.errRec_tagHolds (s : State) (a b d : Nat) (l : List Byte) : (s.errRec a b d l).tagHolds = s.tagHolds := rfl
@[simp] theorem State.errRec_tagWaits (s : State) (a b d : Nat) (l : List Byte) : (s.errRec a b d l).tagWaits = s.tagWaits := rfl
@[simp] theorem State.errRec_fills (s : State) (a b d : Nat) (l : List Byte) : (s.errRec a b d l).fills = s.fills := rfl
@[simp] theorem State.errRec_poison (s : State) (a b d : Nat) (l : List Byte) : (s.errRec a b d l).poison = s.poison := rfl
@[simp] theorem State.errRec_stores (s : State) (a b d : Nat) (l : List Byte) : (s.errRec a b d l).stores = s.stores := rfl
@[simp] theorem State.errRec_draw (s : State) (a b d : Nat) (l : List Byte) : (s.errRec a b d l).draw = s.draw := rfl
@[simp] theorem State.errRec_pending (s : State) (a b d : Nat) (l : List Byte) : (s.errRec a b d l).pending = s.pending := rfl

/-! Reads after updates -/

theorem State.mb_setMb (s : State) (n k : Nat) (x : Mailbox) : (s.setMb n x).mb k = if n = k then x else s.mb k := Tbl.getD_put _ _ _ _ _
theorem State.wing_setWing (s : State) (w k : Nat) (x : Wing) : (s.setWing w x).wing k = if w = k then x else s.wing k := Tbl.getD_put _ _ _ _ _
theorem State.bay_setBay (s : State) (i k : Nat) (x : Bay) : (s.setBay i x).bay k = if i = k then x else s.bay k := Tbl.getD_put _ _ _ _ _
theorem State.stk_setStk (s : State) (i k : Nat) (x : Stack) : (s.setStk i x).stk k = if i = k then x else s.stk k := Tbl.getD_put _ _ _ _ _
theorem State.port_setPort (s : State) (p k : Nat) (x : Port) : (s.setPort p x).port k = if p = k then x else s.port k := Tbl.getD_put _ _ _ _ _
theorem State.dom_setDom (s : State) (d k : Nat) (x : Domain) : (s.setDom d x).dom k = if d = k then x else s.dom k := Tbl.getD_put _ _ _ _ _

/-- A context that exists reads back as it was set; one that does not stays absent. -/
theorem State.get_setCtx (s : State) (c k : Nat) (x : Ctx) :
    Tbl.get (s.setCtx c x).ctxs k = if c = k then (Tbl.get s.ctxs k).map (fun _ => x) else Tbl.get s.ctxs k :=
  Tbl.get_mod s.ctxs c k (fun _ => x)
theorem State.ctx_setCtx (s : State) (c : Nat) (x : Ctx) (h : (Tbl.get s.ctxs c).isSome) : (s.setCtx c x).ctx c = x := by
  obtain ⟨y, hy⟩ := Option.isSome_iff_exists.1 h
  simp [State.ctx, Tbl.getD, State.get_setCtx, hy]
theorem State.ctx_setCtx_ne (s : State) (c k : Nat) (x : Ctx) (h : c ≠ k) : (s.setCtx c x).ctx k = s.ctx k := by
  simp [State.ctx, Tbl.getD, State.get_setCtx, h]
theorem State.card_setCard (s : State) (c h k : Nat) (x : Card) (hc : (Tbl.get s.ctxs c).isSome) :
    (s.setCard c h x).card c k = if h = k then some x else s.card c k := by
  simp only [State.card, State.setCard]
  rw [State.ctx_setCtx _ _ _ hc]
  exact Tbl.get_put _ _ _ _
theorem State.stream_setStream (s : State) (c n k : Nat) (x : Stream) (hc : (Tbl.get s.ctxs c).isSome) :
    (s.setStream c n x).stream c k = if n = k then (s.stream c k).map (fun _ => x) else s.stream c k := by
  simp only [State.stream, State.setStream]
  rw [State.ctx_setCtx _ _ _ hc]
  exact Tbl.get_mod (s.ctx c).streams n k (fun _ => x)
theorem State.chan_setChan (s : State) (w ch k : Nat) (x : Channel) :
    (s.setChan w ch x).chan w k = if ch = k then (s.chan w k).map (fun _ => x) else s.chan w k := by
  simp only [State.chan, State.setChan, State.wing_setWing, if_true]
  exact Tbl.get_mod (s.wing w).chans ch k (fun _ => x)
theorem State.bucket_setBucket (s : State) (t k : Nat) (x : Bucket) :
    (s.setBucket t x).bucket k = if t = k then (s.bucket k).map (fun _ => x) else s.bucket k :=
  Tbl.get_mod s.buckets t k (fun _ => x)

/-- A stream that stands belongs to a context that exists. -/
theorem State.stream_ctx (s : State) (c n : Nat) (x : Stream) (h : s.stream c n = some x) : (Tbl.get s.ctxs c).isSome := by
  cases hc : Tbl.get s.ctxs c with
  | some y => rfl
  | none => simp [State.stream, State.ctx, Tbl.getD, hc, Tbl.get] at h
/-- A changed window entry reads back. -/
theorem State.entry_setEntry (s : State) (c n k : Nat) (e e' : Entry) (h : s.entry c n k = some e) :
    (s.setEntry c n k e').entry c n k = some e' := by
  simp only [State.entry, Option.bind_eq_some_iff] at h
  obtain ⟨x, hx, hk⟩ := h
  have hs := State.stream_setStream s c n n { x with window := x.window.mod k (fun _ => e') } (s.stream_ctx c n x hx)
  rw [if_pos rfl, hx] at hs
  simp only [State.entry, State.setEntry, hx, hs, Option.map_some, Option.bind_some, Tbl.get_mod, if_pos, hk]

end Sys2Proof.Machine
end

