-- ==== Sys2Proof/Laws/Commit.lean ====
section
/-! SUPPORT. What reaches only the host, the ledger and the event ring, and what ends every step. -/

namespace Sys2Proof.Machine

/-- The state without what reports to the host alone: host memory and interrupts, mailboxes, the event ring, the ledger, ALERT_N. -/
def State.inner (s : State) : State := { s with host := {}, mbx := [], evt := {}, ledger := {}, power := { s.power with alert := false } }

theorem State.inner_hostWrite (s : State) (a : Nat) (bs : List Byte) : (s.hostWrite a bs).inner = s.inner := rfl
theorem State.inner_setMb (s : State) (n : Nat) (m : Mailbox) : (s.setMb n m).inner = s.inner := rfl
theorem State.inner_count (s : State) (j n : Nat) : (s.count j n).inner = s.inner := rfl
theorem State.inner_setHealth (s : State) (i : Nat) (v : Bool) : (s.setHealth i v).inner = s.inner := rfl
theorem State.inner_errRec (s : State) (a b d : Nat) (l : List Byte) : (s.errRec a b d l).inner = s.inner := rfl
theorem State.inner_lifeRec (s : State) (k u : Nat) : (s.lifeRec k u).inner = s.inner := rfl
theorem State.inner_msi (s : State) (fn v : Nat) : (s.msi fn v).inner = s.inner := by
  simp only [State.msi]; split <;> rfl
theorem State.inner_irq (s : State) (b v : Nat) : (s.irq b v).inner = s.inner := by
  simp only [State.irq]; split
  · rfl
  · exact State.inner_msi _ _ _
theorem State.inner_evtWrite (s : State) (e : Evt) : (s.evtWrite e).inner = s.inner := State.inner_irq _ _ _
theorem State.inner_evtOwner (s : State) (e : Evt) : (s.evtOwner e).inner = s.inner := by
  simp only [State.evtOwner]; split
  · exact State.inner_evtWrite _ _
  · split <;> rfl
theorem State.inner_cqWrite (s : State) (n : Nat) (p : Posted) (h : p.frees = none) : (s.cqWrite n p).inner = s.inner := by
  simp only [State.cqWrite, h, State.freed]
  split
  · exact State.inner_irq _ _ _
  · exact State.inner_msi _ _ _
theorem State.inner_post (s : State) (n : Nat) (p : Posted) (h : p.frees = none) : (s.post n p).inner = s.inner := by
  simp only [State.post]; split
  · exact State.inner_cqWrite _ _ _ h
  · rfl
/-- An event changes nothing of the machine itself. -/
theorem State.inner_event (s : State) (st : Status) (code ctx : Nat) (d : List Byte) : (s.event st code ctx d).inner = s.inner := by
  simp only [State.event]; split
  · exact (State.inner_post _ _ _ rfl).trans (State.inner_evtOwner _ _)
  · exact State.inner_evtOwner _ _
theorem State.inner_completeAs (s : State) (o : Owed) (st : Status) (res : List Byte) : (s.completeAs o st res).inner = s.inner := by
  simp only [State.completeAs]; split
  · rfl
  · exact State.inner_post _ _ _ rfl
/-- A mailbox completion changes nothing of the machine itself. -/
theorem State.inner_complete (s : State) (o : Owed) (st : Status) (res : List Byte) : (s.complete o st res).inner = s.inner :=
  State.inner_completeAs _ _ _ _
theorem State.inner_endOfService (s : State) : s.endOfService.inner = s.inner := by
  simp only [State.endOfService]; split
  · rfl
  · exact State.inner_event _ _ _ _ _
theorem State.inner_alert (t : State) (b : Bool) : ({ t with power := { t.power with alert := b } } : State).inner = t.inner := rfl
theorem State.inner_seqs (s t : State) : (s.seqs t).inner = t.inner := by
  have h : ∀ (a : State) (k : Nat), (if k = 0 then a
      else ({ a with host := { a.host with rdySeq := a.host.rdySeq + BitVec.ofNat 32 k } } : State).irq 2 2).inner = a.inner := by
    intro a k; split
    · rfl
    · exact State.inner_irq _ _ _
  have h1 : ∀ (a : State) (k : Nat), (if k = 0 then a
      else ({ a with host := { a.host with idnSeq := a.host.idnSeq + BitVec.ofNat 32 k } } : State)).inner = a.inner := by
    intro a k; split <;> rfl
  simp only [State.seqs]
  split
  · rw [State.inner_alert, h, h1]
  · rw [h, h1]

/-- What a step leaves of its effect `t`: everything of the machine itself as `t` has it, memory with the step's stores, no store
outstanding, and the queue as the step found it. -/
theorem State.inner_commit (s t : State) :
    (s.commit t).inner = { t.inner with mem := Memory.apply (if t.mem.isEmpty then [] else s.mem) t.stores, stores := [], pending := s.pending } := by
  have h : ∀ u : State, u.inner = t.inner → (s.land u).inner =
      { t.inner with mem := Memory.apply (if t.mem.isEmpty then [] else s.mem) t.stores, stores := [], pending := s.pending } := by
    intro u hu
    have hm : u.mem = t.mem := (congrArg State.mem hu :)
    have hs : u.stores = t.stores := (congrArg State.stores hu :)
    rw [← hm, ← hs, ← hu]
    rfl
  simp only [State.commit]
  split
  · exact h _ rfl
  · apply h
    rw [State.inner_seqs]
    split
    · exact State.inner_endOfService _
    · rfl

/-! What a step leaves, field by field -/

@[simp] theorem State.commit_grade (s t : State) : (s.commit t).grade = t.grade := (congrArg State.grade (State.inner_commit s t) :)
@[simp] theorem State.commit_cores (s t : State) : (s.commit t).cores = t.cores := (congrArg State.cores (State.inner_commit s t) :)
@[simp] theorem State.commit_ticks (s t : State) : (s.commit t).ticks = t.ticks := (congrArg State.ticks (State.inner_commit s t) :)
@[simp] theorem State.commit_time (s t : State) : (s.commit t).time = t.time := (congrArg State.time (State.inner_commit s t) :)
@[simp] theorem State.commit_hex (s t : State) : (s.commit t).hex = t.hex := (congrArg State.hex (State.inner_commit s t) :)
@[simp] theorem State.commit_stamps (s t : State) : (s.commit t).stamps = t.stamps := (congrArg State.stamps (State.inner_commit s t) :)
@[simp] theorem State.commit_wings (s t : State) : (s.commit t).wings = t.wings := (congrArg State.wings (State.inner_commit s t) :)
@[simp] theorem State.commit_bays (s t : State) : (s.commit t).bays = t.bays := (congrArg State.bays (State.inner_commit s t) :)
@[simp] theorem State.commit_stks (s t : State) : (s.commit t).stks = t.stks := (congrArg State.stks (State.inner_commit s t) :)
@[simp] theorem State.commit_ports (s t : State) : (s.commit t).ports = t.ports := (congrArg State.ports (State.inner_commit s t) :)
@[simp] theorem State.commit_ctxs (s t : State) : (s.commit t).ctxs = t.ctxs := (congrArg State.ctxs (State.inner_commit s t) :)
@[simp] theorem State.commit_map (s t : State) : (s.commit t).map = t.map := (congrArg State.map (State.inner_commit s t) :)
@[simp] theorem State.commit_tests (s t : State) : (s.commit t).tests = t.tests := (congrArg State.tests (State.inner_commit s t) :)
@[simp] theorem State.commit_xbSuspect (s t : State) : (s.commit t).xbSuspect = t.xbSuspect := (congrArg State.xbSuspect (State.inner_commit s t) :)
@[simp] theorem State.commit_planes (s t : State) : (s.commit t).planes = t.planes := (congrArg State.planes (State.inner_commit s t) :)
@[simp] theorem State.commit_slots (s t : State) : (s.commit t).slots = t.slots := (congrArg State.slots (State.inner_commit s t) :)
@[simp] theorem State.commit_buckets (s t : State) : (s.commit t).buckets = t.buckets := (congrArg State.buckets (State.inner_commit s t) :)
@[simp] theorem State.commit_tagHolds (s t : State) : (s.commit t).tagHolds = t.tagHolds := (congrArg State.tagHolds (State.inner_commit s t) :)
@[simp] theorem State.commit_tagWaits (s t : State) : (s.commit t).tagWaits = t.tagWaits := (congrArg State.tagWaits (State.inner_commit s t) :)
@[simp] theorem State.commit_fills (s t : State) : (s.commit t).fills = t.fills := (congrArg State.fills (State.inner_commit s t) :)
@[simp] theorem State.commit_poison (s t : State) : (s.commit t).poison = t.poison := (congrArg State.poison (State.inner_commit s t) :)
@[simp] theorem State.commit_draw (s t : State) : (s.commit t).draw = t.draw := (congrArg State.draw (State.inner_commit s t) :)
@[simp] theorem State.commit_mem (s t : State) : (s.commit t).mem = Memory.apply (if t.mem.isEmpty then [] else s.mem) t.stores :=
  (congrArg State.mem (State.inner_commit s t) :)
@[simp] theorem State.commit_stores (s t : State) : (s.commit t).stores = [] := (congrArg State.stores (State.inner_commit s t) :)
@[simp] theorem State.commit_pending (s t : State) : (s.commit t).pending = s.pending := (congrArg State.pending (State.inner_commit s t) :)

/-- After a step a byte of memory reads as the step's effect leaves it. -/
theorem State.commit_byte (s t : State) (h : t.mem = s.mem) (x : Nat) : (s.commit t).byte x = t.byte x := by
  have hm : (if t.mem.isEmpty then [] else s.mem) = t.mem := by
    cases ht : t.mem with
    | nil => simp
    | cons c r => simp [← h, ht]
  simp only [State.byte, State.commit_stores, State.commit_mem, hm, storeByte, Option.getD_none]
  exact Memory.get_apply _ _ _
/-- A step keeps memory in its canonical form. -/
theorem State.wf_commit (s t : State) (h : Memory.wf s.mem = true) : Memory.wf (s.commit t).mem = true := by
  rw [State.commit_mem]
  apply Memory.wf_apply
  split
  · exact Memory.wf_nil
  · exact h
/-- An effect's meaning answers the state it commits. -/
theorem act_next (s : State) (f : State → State) : act s f = .next (s.commit (f { s with stores := [] })) := rfl

end Sys2Proof.Machine
end

