-- ==== Sys2Proof/Laws/Step.lean ====
section
/-! SUPPORT. What a step, a mailbox command, a flit row and a work row can do, each said once. -/

namespace Sys2Proof

/-! Tables -/

theorem Tbl.put_put {α : Type} (t : Tbl α) (k : Nat) (a b : α) : (t.put k a).put k b = t.put k b := by
  induction t with
  | nil => simp [Tbl.put]
  | cons h r ih =>
    obtain ⟨x, y⟩ := h
    simp only [Tbl.put]
    split
    · simp [Tbl.put]
    · split
      · subst_vars; simp [Tbl.put]
      · simp [Tbl.put, *]
theorem Tbl.get_mod_self {α : Type} (t : Tbl α) (k : Nat) (f : α → α) (v : α) (h : t.get k = some v) : (t.mod k f).get k = some (f v) := by
  induction t with
  | nil => simp [Tbl.get] at h
  | cons a r ih =>
    obtain ⟨i, w⟩ := a
    unfold Tbl.get at h
    by_cases hi : i = k
    · simp [hi] at h; simp [Tbl.mod, Tbl.get, hi, h]
    · simp [hi] at h; have := ih h; simp [Tbl.mod] at this; simp [Tbl.mod, Tbl.get, hi, this]

end Sys2Proof

namespace Sys2Proof.Machine

/-! Contexts and streams -/

/-- A context that holds a stream is listed. -/
theorem State.ctx_get (b : State) (c n : Nat) (x : Stream) (h : b.stream c n = some x) : b.ctxs.get c = some (b.ctx c) := by
  simp only [State.stream, State.ctx, Tbl.getD] at *
  cases hc : b.ctxs.get c with
  | none => simp [hc, Tbl.get] at h
  | some y => rfl
theorem State.stream_setStream_self (b : State) (c n : Nat) (x y : Stream) (h : b.stream c n = some x) : (b.setStream c n y).stream c n = some y := by
  have h2 := State.ctx_get b c n x h
  simp only [State.stream, State.setStream, State.setCtx]
  have : State.ctx { b with ctxs := b.ctxs.mod c fun _ => { b.ctx c with streams := (b.ctx c).streams.mod n fun _ => y } } c
    = { b.ctx c with streams := (b.ctx c).streams.mod n fun _ => y } := by
    simp only [State.ctx, Tbl.getD]
    rw [Tbl.get_mod_self _ _ _ _ h2]; rfl
  rw [this]
  exact Tbl.get_mod_self (b.ctx c).streams n (fun _ => y) x h

/-! Commands -/

/-- Every command's meaning is its effect committed, but for a feed beyond its rating: what a proof over all commands splits on. -/
theorem exec_act (c : Instr) (s : State) : (∃ f, exec c s = act s f) ∨ (exec c s = .fault .stressBeyondRatings
      ∧ ∃ feed mv, 64000 < mv ∧ (c = .feedPresent feed mv ∨ c = .feedLost feed mv)) := by
  cases c
  case contextCreate => left; simp only [exec]; unfold execContextCreate; exact ⟨_, rfl⟩
  case contextDestroy => left; simp only [exec]; unfold execContextDestroy; exact ⟨_, rfl⟩
  case secretRegionZeroFillDone => left; simp only [exec]; unfold execSecretRegionZeroFillDone; exact ⟨_, rfl⟩
  case vfFlr => left; simp only [exec]; unfold execVfFlr; exact ⟨_, rfl⟩
  case contextOption => left; simp only [exec]; unfold execContextOption; exact ⟨_, rfl⟩
  case setPowerLimit => left; simp only [exec]; unfold execSetPowerLimit; exact ⟨_, rfl⟩
  case selfTest => left; simp only [exec]; unfold execSelfTest; exact ⟨_, rfl⟩
  case selfTestDrainDone => left; simp only [exec]; unfold execSelfTestDrainDone; exact ⟨_, rfl⟩
  case selfTestDone => left; simp only [exec]; unfold execSelfTestDone; exact ⟨_, rfl⟩
  case moduleReset => left; simp only [exec]; unfold execModuleReset; exact ⟨_, rfl⟩
  case traceConfig => left; simp only [exec]; unfold execTraceConfig; exact ⟨_, rfl⟩
  case fwStage => left; simp only [exec]; unfold execFwStage; exact ⟨_, rfl⟩
  case fwActivate => left; simp only [exec]; unfold execFwActivate; exact ⟨_, rfl⟩
  case hexsetRestartDone => left; simp only [exec]; unfold execHexsetRestartDone; exact ⟨_, rfl⟩
  case ledgerRead => left; simp only [exec]; unfold execLedgerRead; exact ⟨_, rfl⟩
  case quote => left; simp only [exec]; unfold execQuote; exact ⟨_, rfl⟩
  case sessionOpen => left; simp only [exec]; unfold execSessionOpen; exact ⟨_, rfl⟩
  case bignumJobEnd => left; simp only [exec]; unfold execBignumJobEnd; exact ⟨_, rfl⟩
  case cardBindSession => left; simp only [exec]; unfold execCardBindSession; exact ⟨_, rfl⟩
  case manifestLoad => left; simp only [exec]; unfold execManifestLoad; exact ⟨_, rfl⟩
  case paramsetLoad => left; simp only [exec]; unfold execParamsetLoad; exact ⟨_, rfl⟩
  case refreshPlanLoad => left; simp only [exec]; unfold execRefreshPlanLoad; exact ⟨_, rfl⟩
  case secretRegionOpen => left; simp only [exec]; unfold execSecretRegionOpen; exact ⟨_, rfl⟩
  case secretRegionClose => left; simp only [exec]; unfold execSecretRegionClose; exact ⟨_, rfl⟩
  case placementLoad => left; simp only [exec]; unfold execPlacementLoad; exact ⟨_, rfl⟩
  case bayPartitionApply => left; simp only [exec]; unfold execBayPartitionApply; exact ⟨_, rfl⟩
  case placementRead => left; simp only [exec]; unfold execPlacementRead; exact ⟨_, rfl⟩
  case cardWrite => left; simp only [exec]; unfold execCardWrite; exact ⟨_, rfl⟩
  case cardBind => left; simp only [exec]; unfold execCardBind; exact ⟨_, rfl⟩
  case cardExport => left; simp only [exec]; unfold execCardExport; exact ⟨_, rfl⟩
  case cardUnbind => left; simp only [exec]; unfold execCardUnbind; exact ⟨_, rfl⟩
  case cardRead => left; simp only [exec]; unfold execCardRead; exact ⟨_, rfl⟩
  case streamStart => left; simp only [exec]; unfold execStreamStart; exact ⟨_, rfl⟩
  case streamExtend => left; simp only [exec]; unfold execStreamExtend; exact ⟨_, rfl⟩
  case streamAbort => left; simp only [exec]; unfold execStreamAbort; exact ⟨_, rfl⟩
  case syncMap => left; simp only [exec]; unfold execSyncMap; exact ⟨_, rfl⟩
  case syncUnmap => left; simp only [exec]; unfold execSyncUnmap; exact ⟨_, rfl⟩
  case syncRead => left; simp only [exec]; unfold execSyncRead; exact ⟨_, rfl⟩
  case syncUpdate => left; simp only [exec]; unfold execSyncUpdate; exact ⟨_, rfl⟩
  case syncWatch => left; simp only [exec]; unfold execSyncWatch; exact ⟨_, rfl⟩
  case syncWatchDeadline => left; simp only [exec]; unfold execSyncWatchDeadline; exact ⟨_, rfl⟩
  case syncWatchCancel => left; simp only [exec]; unfold execSyncWatchCancel; exact ⟨_, rfl⟩
  case barrierReset => left; simp only [exec]; unfold execBarrierReset; exact ⟨_, rfl⟩
  case dmaChannelOpen => left; simp only [exec]; unfold execDmaChannelOpen; exact ⟨_, rfl⟩
  case dmaChannelClose => left; simp only [exec]; unfold execDmaChannelClose; exact ⟨_, rfl⟩
  case dmaChannelStop => left; simp only [exec]; unfold execDmaChannelStop; exact ⟨_, rfl⟩
  case dmaStopTakesEffect => left; simp only [exec]; unfold execDmaStopTakesEffect; exact ⟨_, rfl⟩
  case dmaStopForced => left; simp only [exec]; unfold execDmaStopForced; exact ⟨_, rfl⟩
  case pageWeed => left; simp only [exec]; unfold execPageWeed; exact ⟨_, rfl⟩
  case weedListRead => left; simp only [exec]; unfold execWeedListRead; exact ⟨_, rfl⟩
  case golatPortConfig => left; simp only [exec]; unfold execGolatPortConfig; exact ⟨_, rfl⟩
  case loanOpen => left; simp only [exec]; unfold execLoanOpen; exact ⟨_, rfl⟩
  case loanClose => left; simp only [exec]; unfold execLoanClose; exact ⟨_, rfl⟩
  case mbxSqTail => left; simp only [exec]; unfold execMbxSqTail; exact ⟨_, rfl⟩
  case submissionFetch => left; simp only [exec]; unfold execSubmissionFetch; exact ⟨_, rfl⟩
  case mbxPhaseTimeout => left; simp only [exec]; unfold execMbxPhaseTimeout; exact ⟨_, rfl⟩
  case mbxEnable => left; simp only [exec]; unfold execMbxEnable; exact ⟨_, rfl⟩
  case mbxCqHead => left; simp only [exec]; unfold execMbxCqHead; exact ⟨_, rfl⟩
  case evtHead => left; simp only [exec]; unfold execEvtHead; exact ⟨_, rfl⟩
  case evtRingCtrl => left; simp only [exec]; unfold execEvtRingCtrl; exact ⟨_, rfl⟩
  case rcRegisterRead => left; simp only [exec]; unfold execRcRegisterRead; exact ⟨_, rfl⟩
  case lowHalfRead => left; simp only [exec]; unfold execLowHalfRead; exact ⟨_, rfl⟩
  case badWidthAccess => left; simp only [exec]; unfold execBadWidthAccess; exact ⟨_, rfl⟩
  case irqCause => left; simp only [exec]; unfold execIrqCause; exact ⟨_, rfl⟩
  case ckoCtrl => left; simp only [exec]; unfold execCkoCtrl; exact ⟨_, rfl⟩
  case stpTrigger => left; simp only [exec]; unfold execStpTrigger; exact ⟨_, rfl⟩
  case stpBufferWrite => left; simp only [exec]; unfold execStpBufferWrite; exact ⟨_, rfl⟩
  case registerWrite => left; simp only [exec]; unfold execRegisterWrite; exact ⟨_, rfl⟩
  case stagingRead => left; simp only [exec]; unfold execStagingRead; exact ⟨_, rfl⟩
  case stagingWrite => left; simp only [exec]; unfold execStagingWrite; exact ⟨_, rfl⟩
  case d3hotEntry => left; simp only [exec]; unfold execD3hotEntry; exact ⟨_, rfl⟩
  case streamDecode => left; simp only [exec]; unfold execStreamDecode; exact ⟨_, rfl⟩
  case waitSatisfied => left; simp only [exec]; unfold execWaitSatisfied; exact ⟨_, rfl⟩
  case folioFetch => left; simp only [exec]; unfold execFolioFetch; exact ⟨_, rfl⟩
  case commandCompletion => left; simp only [exec]; unfold execCommandCompletion; exact ⟨_, rfl⟩
  case cntSet => left; simp only [exec]; unfold execCntSet; exact ⟨_, rfl⟩
  case cntAdd => left; simp only [exec]; unfold execCntAdd; exact ⟨_, rfl⟩
  case cmpSet => left; simp only [exec]; unfold execCmpSet; exact ⟨_, rfl⟩
  case loopBegin => left; simp only [exec]; unfold execLoopBegin; exact ⟨_, rfl⟩
  case loopEnd => left; simp only [exec]; unfold execLoopEnd; exact ⟨_, rfl⟩
  case syncWait => left; simp only [exec]; unfold execSyncWait; exact ⟨_, rfl⟩
  case syncSignalAdd => left; simp only [exec]; unfold execSyncSignalAdd; exact ⟨_, rfl⟩
  case syncSignalSet => left; simp only [exec]; unfold execSyncSignalSet; exact ⟨_, rfl⟩
  case barArrive => left; simp only [exec]; unfold execBarArrive; exact ⟨_, rfl⟩
  case barrierArrival => left; simp only [exec]; unfold execBarrierArrival; exact ⟨_, rfl⟩
  case counterUpdate => left; simp only [exec]; unfold execCounterUpdate; exact ⟨_, rfl⟩
  case heAdd => left; simp only [exec]; unfold execHeAdd; exact ⟨_, rfl⟩
  case heSub => left; simp only [exec]; unfold execHeSub; exact ⟨_, rfl⟩
  case heNeg => left; simp only [exec]; unfold execHeNeg; exact ⟨_, rfl⟩
  case heAddp => left; simp only [exec]; unfold execHeAddp; exact ⟨_, rfl⟩
  case heSubp => left; simp only [exec]; unfold execHeSubp; exact ⟨_, rfl⟩
  case heMulp => left; simp only [exec]; unfold execHeMulp; exact ⟨_, rfl⟩
  case heMul => left; simp only [exec]; unfold execHeMul; exact ⟨_, rfl⟩
  case heRelin => left; simp only [exec]; unfold execHeRelin; exact ⟨_, rfl⟩
  case heRot => left; simp only [exec]; unfold execHeRot; exact ⟨_, rfl⟩
  case heRoth => left; simp only [exec]; unfold execHeRoth; exact ⟨_, rfl⟩
  case heRescale => left; simp only [exec]; unfold execHeRescale; exact ⟨_, rfl⟩
  case heModdrop => left; simp only [exec]; unfold execHeModdrop; exact ⟨_, rfl⟩
  case heModraise => left; simp only [exec]; unfold execHeModraise; exact ⟨_, rfl⟩
  case heBconv => left; simp only [exec]; unfold execHeBconv; exact ⟨_, rfl⟩
  case heLin => left; simp only [exec]; unfold execHeLin; exact ⟨_, rfl⟩
  case heEncode => left; simp only [exec]; unfold execHeEncode; exact ⟨_, rfl⟩
  case heScaleConst => left; simp only [exec]; unfold execHeScaleConst; exact ⟨_, rfl⟩
  case heScaleDivide => left; simp only [exec]; unfold execHeScaleDivide; exact ⟨_, rfl⟩
  case heScaleAlign => left; simp only [exec]; unfold execHeScaleAlign; exact ⟨_, rfl⟩
  case heRefresh => left; simp only [exec]; unfold execHeRefresh; exact ⟨_, rfl⟩
  case refreshPrimitiveBoundary => left; simp only [exec]; unfold execRefreshPrimitiveBoundary; exact ⟨_, rfl⟩
  case luExtract => left; simp only [exec]; unfold execLuExtract; exact ⟨_, rfl⟩
  case luEval => left; simp only [exec]; unfold execLuEval; exact ⟨_, rfl⟩
  case luPack => left; simp only [exec]; unfold execLuPack; exact ⟨_, rfl⟩
  case shSplit => left; simp only [exec]; unfold execShSplit; exact ⟨_, rfl⟩
  case shMulPrepare => left; simp only [exec]; unfold execShMulPrepare; exact ⟨_, rfl⟩
  case shMulFinish => left; simp only [exec]; unfold execShMulFinish; exact ⟨_, rfl⟩
  case shTriple => left; simp only [exec]; unfold execShTriple; exact ⟨_, rfl⟩
  case shCmpOpen => left; simp only [exec]; unfold execShCmpOpen; exact ⟨_, rfl⟩
  case shCmpReveal => left; simp only [exec]; unfold execShCmpReveal; exact ⟨_, rfl⟩
  case shCmpFinish => left; simp only [exec]; unfold execShCmpFinish; exact ⟨_, rfl⟩
  case shJoinReshare => left; simp only [exec]; unfold execShJoinReshare; exact ⟨_, rfl⟩
  case shJoinAdd => left; simp only [exec]; unfold execShJoinAdd; exact ⟨_, rfl⟩
  case ntFwd => left; simp only [exec]; unfold execNtFwd; exact ⟨_, rfl⟩
  case ntInv => left; simp only [exec]; unfold execNtInv; exact ⟨_, rfl⟩
  case pxAuto => left; simp only [exec]; unfold execPxAuto; exact ⟨_, rfl⟩
  case vcRun => left; simp only [exec]; unfold execVcRun; exact ⟨_, rfl⟩
  case stLayoutCopy => left; simp only [exec]; unfold execStLayoutCopy; exact ⟨_, rfl⟩
  case stLayoutMul => left; simp only [exec]; unfold execStLayoutMul; exact ⟨_, rfl⟩
  case layCopyCopy => left; simp only [exec]; unfold execLayCopyCopy; exact ⟨_, rfl⟩
  case layCopyGather => left; simp only [exec]; unfold execLayCopyGather; exact ⟨_, rfl⟩
  case layCopyScatter => left; simp only [exec]; unfold execLayCopyScatter; exact ⟨_, rfl⟩
  case layCopyScatteradd => left; simp only [exec]; unfold execLayCopyScatteradd; exact ⟨_, rfl⟩
  case dmGo => left; simp only [exec]; unfold execDmGo; exact ⟨_, rfl⟩
  case descriptorFetch => left; simp only [exec]; unfold execDescriptorFetch; exact ⟨_, rfl⟩
  case dmaChainEnd => left; simp only [exec]; unfold execDmaChainEnd; exact ⟨_, rfl⟩
  case redAccumOpen => left; simp only [exec]; unfold execRedAccumOpen; exact ⟨_, rfl⟩
  case redAccumAdd => left; simp only [exec]; unfold execRedAccumAdd; exact ⟨_, rfl⟩
  case redAccumCollect => left; simp only [exec]; unfold execRedAccumCollect; exact ⟨_, rfl⟩
  case bucketZeroFillDone => left; simp only [exec]; unfold execBucketZeroFillDone; exact ⟨_, rfl⟩
  case bucketAdmissionClose => left; simp only [exec]; unfold execBucketAdmissionClose; exact ⟨_, rfl⟩
  case bucketDeadline => left; simp only [exec]; unfold execBucketDeadline; exact ⟨_, rfl⟩
  case bucketClosePass => left; simp only [exec]; unfold execBucketClosePass; exact ⟨_, rfl⟩
  case bucketTagHoldEnd => left; simp only [exec]; unfold execBucketTagHoldEnd; exact ⟨_, rfl⟩
  case slotAccessGrant => left; simp only [exec]; unfold execSlotAccessGrant; exact ⟨_, rfl⟩
  case slotAccessEnd => left; simp only [exec]; unfold execSlotAccessEnd; exact ⟨_, rfl⟩
  case pieceComplete => left; simp only [exec]; unfold execPieceComplete; exact ⟨_, rfl⟩
  case bayPull => left; simp only [exec]; unfold execBayPull; exact ⟨_, rfl⟩
  case weightUpdate => left; simp only [exec]; unfold execWeightUpdate; exact ⟨_, rfl⟩
  case gatherWindowExpire => left; simp only [exec]; unfold execGatherWindowExpire; exact ⟨_, rfl⟩
  case passHeaderCheck => left; simp only [exec]; unfold execPassHeaderCheck; exact ⟨_, rfl⟩
  case keyBlockRelease => left; simp only [exec]; unfold execKeyBlockRelease; exact ⟨_, rfl⟩
  case memoryRequest => left; simp only [exec]; unfold execMemoryRequest; exact ⟨_, rfl⟩
  case patrolScrub => left; simp only [exec]; unfold execPatrolScrub; exact ⟨_, rfl⟩
  case reshelveRow => left; simp only [exec]; unfold execReshelveRow; exact ⟨_, rfl⟩
  case reshelveLedgerRecord => left; simp only [exec]; unfold execReshelveLedgerRecord; exact ⟨_, rfl⟩
  case stackThermalReading => left; simp only [exec]; unfold execStackThermalReading; exact ⟨_, rfl⟩
  case stackDrainEnd => left; simp only [exec]; unfold execStackDrainEnd; exact ⟨_, rfl⟩
  case stackResume => left; simp only [exec]; unfold execStackResume; exact ⟨_, rfl⟩
  case retrainSlice => left; simp only [exec]; unfold execRetrainSlice; exact ⟨_, rfl⟩
  case stackTrainingDone => left; simp only [exec]; unfold execStackTrainingDone; exact ⟨_, rfl⟩
  case portTrainingAdvance => left; simp only [exec]; unfold execPortTrainingAdvance; exact ⟨_, rfl⟩
  case portTrainingTimeout => left; simp only [exec]; unfold execPortTrainingTimeout; exact ⟨_, rfl⟩
  case portFailedRetry => left; simp only [exec]; unfold execPortFailedRetry; exact ⟨_, rfl⟩
  case laneFail => left; simp only [exec]; unfold execLaneFail; exact ⟨_, rfl⟩
  case laneSwap => left; simp only [exec]; unfold execLaneSwap; exact ⟨_, rfl⟩
  case laneSwapAck => left; simp only [exec]; unfold execLaneSwapAck; exact ⟨_, rfl⟩
  case retry => left; simp only [exec]; unfold execRetry; exact ⟨_, rfl⟩
  case retryRepeat => left; simp only [exec]; unfold execRetryRepeat; exact ⟨_, rfl⟩
  case creditInit => left; simp only [exec]; unfold execCreditInit; exact ⟨_, rfl⟩
  case down => left; simp only [exec]; unfold execDown; exact ⟨_, rfl⟩
  case flitReceive => left; simp only [exec]; unfold execFlitReceive; exact ⟨_, rfl⟩
  case write => left; simp only [exec]; unfold execWrite; exact ⟨_, rfl⟩
  case mask => left; simp only [exec]; unfold execMask; exact ⟨_, rfl⟩
  case fetch => left; simp only [exec]; unfold execFetch; exact ⟨_, rfl⟩
  case rdata => left; simp only [exec]; unfold execRdata; exact ⟨_, rfl⟩
  case acch => left; simp only [exec]; unfold execAcch; exact ⟨_, rfl⟩
  case accum => left; simp only [exec]; unfold execAccum; exact ⟨_, rfl⟩
  case sig => left; simp only [exec]; unfold execSig; exact ⟨_, rfl⟩
  case tallyTimeout => left; simp only [exec]; unfold execTallyTimeout; exact ⟨_, rfl⟩
  case tnak => left; simp only [exec]; unfold execTnak; exact ⟨_, rfl⟩
  case refusedTransferDiscardEnd => left; simp only [exec]; unfold execRefusedTransferDiscardEnd; exact ⟨_, rfl⟩
  case stamp => left; simp only [exec]; unfold execStamp; exact ⟨_, rfl⟩
  case time => left; simp only [exec]; unfold execTime; exact ⟨_, rfl⟩
  case timeMeasurement => left; simp only [exec]; unfold execTimeMeasurement; exact ⟨_, rfl⟩
  case portLeavesActive => left; simp only [exec]; unfold execPortLeavesActive; exact ⟨_, rfl⟩
  case stampPeriod => left; simp only [exec]; unfold execStampPeriod; exact ⟨_, rfl⟩
  case stampApply => left; simp only [exec]; unfold execStampApply; exact ⟨_, rfl⟩
  case snapshotDone => left; simp only [exec]; unfold execSnapshotDone; exact ⟨_, rfl⟩
  case traceHeaderUpdate => left; simp only [exec]; unfold execTraceHeaderUpdate; exact ⟨_, rfl⟩
  case voltageLoopStep => left; simp only [exec]; unfold execVoltageLoopStep; exact ⟨_, rfl⟩
  case governorUpdate => left; simp only [exec]; unfold execGovernorUpdate; exact ⟨_, rfl⟩
  case currentLimitUpdate => left; simp only [exec]; unfold execCurrentLimitUpdate; exact ⟨_, rfl⟩
  case junctionReading => left; simp only [exec]; unfold execJunctionReading; exact ⟨_, rfl⟩
  case ageingMeasurement => left; simp only [exec]; unfold execAgeingMeasurement; exact ⟨_, rfl⟩
  case ageingDailyRecord => left; simp only [exec]; unfold execAgeingDailyRecord; exact ⟨_, rfl⟩
  case feedPresent feed mv =>
    simp only [exec]; unfold execFeedPresent
    split
    · rename_i h; exact .inr ⟨rfl, feed, mv, by simpa [feedStress] using h, .inl rfl⟩
    · exact .inl ⟨_, rfl⟩
  case feedLost feed mv =>
    simp only [exec]; unfold execFeedLost
    split
    · rename_i h; exact .inr ⟨rfl, feed, mv, by simpa [feedStress] using h, .inr rfl⟩
    · exact .inl ⟨_, rfl⟩
  case inrushTimeout => left; simp only [exec]; unfold execInrushTimeout; exact ⟨_, rfl⟩
  case perstNAssert => left; simp only [exec]; unfold execPerstNAssert; exact ⟨_, rfl⟩
  case perstNRelease => left; simp only [exec]; unfold execPerstNRelease; exact ⟨_, rfl⟩
  case oscillatorStable => left; simp only [exec]; unfold execOscillatorStable; exact ⟨_, rfl⟩
  case oscillatorDisciplined => left; simp only [exec]; unfold execOscillatorDisciplined; exact ⟨_, rfl⟩
  case hostLinkLockChange => left; simp only [exec]; unfold execHostLinkLockChange; exact ⟨_, rfl⟩
  case ledgerScanDone => left; simp only [exec]; unfold execLedgerScanDone; exact ⟨_, rfl⟩
  case baySelfTestDone => left; simp only [exec]; unfold execBaySelfTestDone; exact ⟨_, rfl⟩
  case bootRecordPoll => left; simp only [exec]; unfold execBootRecordPoll; exact ⟨_, rfl⟩
  case firmwareLoadDone => left; simp only [exec]; unfold execFirmwareLoadDone; exact ⟨_, rfl⟩
  case wingReady => left; simp only [exec]; unfold execWingReady; exact ⟨_, rfl⟩
  case controlCoreFailure => left; simp only [exec]; unfold execControlCoreFailure; exact ⟨_, rfl⟩
  case deskFailure => left; simp only [exec]; unfold execDeskFailure; exact ⟨_, rfl⟩
  case wingLost => left; simp only [exec]; unfold execWingLost; exact ⟨_, rfl⟩
  case syncPlaneFail => left; simp only [exec]; unfold execSyncPlaneFail; exact ⟨_, rfl⟩
  case entropyHealthFail => left; simp only [exec]; unfold execEntropyHealthFail; exact ⟨_, rfl⟩
  case entropyRestartTest => left; simp only [exec]; unfold execEntropyRestartTest; exact ⟨_, rfl⟩
  case drbgReseed => left; simp only [exec]; unfold execDrbgReseed; exact ⟨_, rfl⟩
  case telemetry => left; simp only [exec]; unfold execTelemetry; exact ⟨_, rfl⟩
  case health => left; simp only [exec]; unfold execHealth; exact ⟨_, rfl⟩
  case ledgerSummary => left; simp only [exec]; unfold execLedgerSummary; exact ⟨_, rfl⟩
  case wingPowerOff => left; simp only [exec]; unfold execWingPowerOff; exact ⟨_, rfl⟩
  case maintModuleReset => left; simp only [exec]; unfold execMaintModuleReset; exact ⟨_, rfl⟩
  case roleMigrationDone => left; simp only [exec]; unfold execRoleMigrationDone; exact ⟨_, rfl⟩
  case contextWipeDone => left; simp only [exec]; unfold execContextWipeDone; exact ⟨_, rfl⟩
  case powerGood => left; simp only [exec]; unfold execPowerGood; exact ⟨_, rfl⟩
  case inrushLimiterDone => left; simp only [exec]; unfold execInrushLimiterDone; exact ⟨_, rfl⟩
  case inrushRetry => left; simp only [exec]; unfold execInrushRetry; exact ⟨_, rfl⟩
  case entropyStartupTestDone => left; simp only [exec]; unfold execEntropyStartupTestDone; exact ⟨_, rfl⟩
  case wingFabricSelfTestDone => left; simp only [exec]; unfold execWingFabricSelfTestDone; exact ⟨_, rfl⟩
  case firmwareStarted => left; simp only [exec]; unfold execFirmwareStarted; exact ⟨_, rfl⟩
  case stagedImageChecked => left; simp only [exec]; unfold execStagedImageChecked; exact ⟨_, rfl⟩
  case quoteSigned => left; simp only [exec]; unfold execQuoteSigned; exact ⟨_, rfl⟩
  case laneMarker => left; simp only [exec]; unfold execLaneMarker; exact ⟨_, rfl⟩
  case timeReport => left; simp only [exec]; unfold execTimeReport; exact ⟨_, rfl⟩
  case d0Entry => left; simp only [exec]; unfold execD0Entry; exact ⟨_, rfl⟩
  case setdasa => left; simp only [exec]; unfold execSetdasa; exact ⟨_, rfl⟩
  case entdaa => left; simp only [exec]; unfold execEntdaa; exact ⟨_, rfl⟩
  case vioSbChange => left; simp only [exec]; unfold execVioSbChange; exact ⟨_, rfl⟩

/-- What a command returned answers its submitter with. -/
def Ends.post (o : Owed) : Ends → State
  | .done st res t => t.complete o st res
  | .later t => t
/-- A mailbox command that is begun and passes the shared checks runs its own effect with one more completion owed. -/
theorem State.runCmd_begun (s : State) (m : Mbx) (r : CmdRow) (c : Nat) (body : Owed → Nat → State → Ends)
    (h1 : s.mbxOn (portIx m.port) = true) (h2 : s.hex.moving.contains 0 = false) (h3 : s.cmdCtx m r = .ok c) (h4 : bufForm r m.buf = true) :
    s.runCmd m r body =
      (body { port := m.port, epoch := (s.mb (portIx m.port)).epoch, tag := m.tag, op := r.op, ctx := c } c
        (s.setMb (portIx m.port) { s.mb (portIx m.port) with owed := (s.mb (portIx m.port)).owed + 1 })).post
        { port := m.port, epoch := (s.mb (portIx m.port)).epoch, tag := m.tag, op := r.op, ctx := c } := by
  simp only [State.runCmd, h1, h2, h3, h4]
  rfl
/-- A flit row whose turn has come acts on its flit and frees it. -/
theorem State.transact_turn (b : State) (p t : Nat) (f : Flit) (body : State → Option State) (v : State) (h1 : (b.port p).st = .active)
    (h2 : f.ftype = t) (h3 : (b.port p).next f = true)
    (hr : ((b.interrupts p f).port p).refused.contains (f.window, f.transfer) = false) (hb : body (b.interrupts p f) = some v) :
    b.transact p t f body = v.freeRx p f := by
  simp only [State.transact]
  rw [if_neg (by simp [h1, h2, h3])]
  simp only [State.handle]
  rw [if_neg (by rw [hr]; simp), hb]; rfl
/-- A work command whose checks pass issues. -/
theorem State.issue_ok (b : State) (c n k op : Nat) (variant : Nat → Bool) (chk : Stream → Entry → Checked) (x : Stream) (e : Entry) (v : Verdict)
    (h : b.issueReady c n k op = some (x, e, none)) (hv : variant e.cmd.imm = true) (hc : chk x e = .ok v) :
    b.issue c n k op variant chk = b.issueAs c n k e (.ok v) := by
  simp only [State.issue, h, hv, hc]; rfl
/-- A command without handles is decoded as it stands. -/
theorem resolve_noHandles (cmd : SCmd) (v : W64) (h : noHandles cmd = true) : resolve cmd v = cmd := by
  have hm : ∀ (f : Option Nat × Nat → Option Nat), (∀ k, f (none, k) = none) → ∀ (l : List (Option Nat)) (k : Nat),
      l.all (·.isNone) = true → (l.zipIdx k).map f = l := by
    intro f hf l
    induction l with
    | nil => intro k _; rfl
    | cons a r ih =>
      intro k hl
      rw [List.all_cons, Bool.and_eq_true] at hl
      rw [List.zipIdx_cons, List.map_cons, ih (k + 1) hl.2, Option.isNone_iff_eq_none.1 hl.1, hf]
  have := hm (fun p => p.1.map (fun v' => if cmd.idxMask.testBit p.2 then (v' + v.toNat) % 65536 else v')) (fun _ => rfl) cmd.h 0 h
  simp only [resolve]
  rw [this]
/-- A front command whose encoding stands, whose predicate and conditions let it go, takes its effect, its record and its signal. -/
theorem State.frontRow_ok (b : State) (c n op : Nat) (cmd : SCmd) (x y : Stream) (h1 : b.stream c n = some x) (h2 : b.frontOpen c x = true)
    (h3 : cmd.op = op) (hop : frontOp op = true) (h4 : x.skip = 0) (h5 : noHandles cmd = true) (h6 : op = 5 → plainEnd cmd = true)
    (h7 : b.encodingFault c x.wing true cmd = none) (h8 : cmd.pred = true → x.flgs.testBit cmd.predIdx ≠ cmd.predSense) (h9 : b.lostSpec c x.wing cmd = false)
    (h10 : cmd.wait = true → x.wait.isSome = true ∨ condHolds cmd.waitCond (b.syncValue c cmd.waitId) cmd.waitValue = true)
    (h11 : cmd.fence = true → x.window.all (fun e => e.2.phase == .done) = true) (he : frontEffect cmd x.step = .ok y) :
    b.frontRow c n op cmd =
      ((((b.setStream c n x.step).setStream c n y).frontDone c n x.step.iter cmd .ok true false).flushReleases c n).decoded c n x := by
  subst h3
  have hf : ¬ (cmd.fence = true ∧ x.window.any (fun e => e.2.phase != .done) = true) := by
    rintro ⟨a, c'⟩
    have := h11 a
    simp only [List.all_eq_true, List.any_eq_true] at this c'
    obtain ⟨e, he', hn⟩ := c'
    have := this e he'
    simp_all
  have hw : (!((x.wait.map (fun w => w.reported)).getD false || !cmd.wait) &&
      !condHolds cmd.waitCond (b.syncValue c cmd.waitId) cmd.waitValue) = false := by
    cases hc : cmd.wait with
    | false => simp
    | true =>
      rcases h10 hc with hs | hs
      · obtain ⟨w, hx⟩ := Option.isSome_iff_exists.1 hs
        have : w.reported = true := by simpa [State.frontOpen, hx] using (Bool.and_eq_true_iff.1 h2).2
        simp [hx, this]
      · simp [hs]
  simp only [State.frontRow, h1]
  rw [if_neg (by simp [h2, h4])]
  simp only [State.decodeCmd]
  rw [if_neg (by rintro ⟨a, b'⟩; simp [h6 a] at b')]
  simp only [h7, h9, hw, resolve_noHandles cmd _ h5]
  rw [if_neg (fun h => h8 h.1 h.2)]
  simp only [hop, if_true, Bool.false_eq_true, if_false, Bool.not_true]
  rw [if_neg (by simpa using hf)]
  simp only [State.runFront, State.stream_setStream_self b c n x x.step h1, he]

end Sys2Proof.Machine
end

