-- ==== Sys2Proof/Tests/Slice0.lean ====
section
/-! SUPPORT. Tests: the spec's worked examples and small steps, ill-formed commands that the well-formedness checks refuse, and for each
statement with hypotheses a witness, `witness_<statement>_<clause>`, of a state and operands that meet them all. -/

set_option Elab.async false
set_option linter.unusedVariables false

namespace Sys2Proof.Tests

open Sys2Proof Sys2Proof.Machine

/-! States to start from -/

/-- No buffer. -/
def noBuf : Buf := { dev := false, addr := 0, len := 0, data := [], fault := .ok }
/-- A host buffer that delivers bytes. -/
def hostBuf (bs : List Byte) : Buf := { dev := false, addr := 4096, len := bs.length, data := bs, fault := .ok }
/-- The owner port with a context field and a buffer. -/
def own (c : Nat) (b : Buf := noBuf) : Mbx := { port := .owner, context := c, tag := 7, buf := b }
/-- The tenant port of VF 3. -/
def ten (b : Buf := noBuf) : Mbx := { port := .vf 3, context := 255, tag := 9, buf := b }
/-- A module in service: mailboxes of the owner and of VF 3 enabled, firmware active, entropy ready, every unit READY. -/
def up : State := { State.reset with
  power := { State.reset.power with st := .run, feedA := { mv := 52000, present := true }, feedB := { mv := 52000, present := true } }
  mbx := [(0, { enable := true }), (3, { enable := true })]
  hex := { rdyHexset := true, rdyKeeper := true, rdyFw := true, rdyMbx := true, trng := true, phase := .active }
  wings := (List.range 4).map fun w => (w, { ready := true, fabric := some true })
  bays := (List.range 88).map fun i => (i, { Bay.ofGrade .ax i with ready := true, tested := true, entry := 0xFFFF })
  stks := (List.range 16).map fun i => (i, { ready := true, seen := true })
  time := { running := true, now := 1000000, stable := true } }
/-- The same with a context 0. -/
def upC (x : Ctx := {}) : State := { up with ctxs := [(0, x)] }
/-- The same with a context 0 bound to VF 3. -/
def upV (x : Ctx := {}) : State := { up with ctxs := [(0, { x with vf := some 3 })] }

/-- What a command of tag 7 is owed. -/
def owedTo : Owed := { port := .owner, epoch := 0, tag := 7, op := 0x0005, ctx := 0 }
/-- An image whose colophon asks for no fuse. -/
def someImage : Image := { body := [1, 2], colophon := zeros 64 }
/-- The staging window at DPA 0, holding bytes there. -/
def staged (h : Hexset) (bs : List Byte) : State := { up with
  hex := h, mem := bs.zipIdx.filterMap fun x => if x.1 = 0 then none else some (x.2, x.1)
  mbx := [(0, { enable := true, stage := 1 })] }
/-- A boot record of sequence number 1 (Table 16.5). -/
def bootRecord (off len : Nat) : List Byte := leBytes 4 0x31424C4F ++ leBytes 4 1 ++ leBytes 8 off ++ leBytes 8 len ++ zeros 40
/-- A session request (Table 16.7) with empty keys. -/
def sessionRecord : List Byte := leBytes 4 0x31534C4F ++ leBytes 2 0x0100 ++ zeros 1802
def someSession : Session := { transcript := [], sealKey := [], manKey := [], lastSeq := 0, part := none }
/-- A manifest of one entry, with its signature (R393). -/
def manifestRecord : List Byte := leBytes 4 0x314D4C4F ++ leBytes 2 0x0100 ++ leBytes 2 1 ++ zeros (24 + 48 + 96)
/-- A first sealed segment (Table 16.9) of sequence number 1. -/
def sealedRecord : List Byte := leBytes 4 0x315A4C4F ++ zeros 4 ++ leBytes 8 1 ++ zeros 8 ++ leBytes 8 256 ++ zeros 16
/-- The record of set 1, scheme 5 (R14, Table 1.2). -/
def shareSetRecord : List Byte := leBytes 4 1 ++ [5] ++ zeros 59
/-- An empty placement map of epoch 1 (Table 11.1). -/
def mapRecord : List Byte :=
  let h := leBytes 4 0x31504C4F ++ leBytes 4 1 ++ zeros 52
  h ++ leBytes 4 (crc32c h) ++ zeros 704
/-- A CLEAR card of four 64-bit elements at DPA 0x20000 (R206). -/
def clearCard : Card := { kind := .clear, elem := .u64, layout := .slot, base := 0x20000, capacity := 32, count := 4, rank := 1
                          dims := [4, 1, 1, 1], pitch := [1, 0, 0, 0] }
/-- A running stream of W0 at folio 0x1000. -/
def stream0 : Stream := { wing := 0, port := .owner, epoch := 0, folio := 0x1000, seq := 0 }
/-- A counter of W0's own sync home, and a barrier of two arrivals there. -/
def counter : VSync := { home := 0x8000, kind := 0, value := 5 }
def arrivals : VSync := { home := 0x8000, kind := 1, value := 0, e := 2 }
def generation : VSync := { home := 0x8000, kind := 2, value := 0 }
/-- A stream command of an opcode and an immediate. -/
def scmd (op imm : Nat) (h : List (Option Nat) := [none, none, none, none]) : SCmd :=
  { op := op, predIdx := 0, predSense := false, pred := false, complete := true, wait := false, signal := false, fence := false
    halt := false, layer := false, nopad := false, waitId := 0, waitCond := 0, waitValue := 0, sigId := 0, delta := 0, h := h, imm := imm
    tag := 1, idxCnt := 0, idxMask := 0 }
/-- A window entry of a command, in bay 0. -/
def entryOf (cmd : SCmd) (phase : Phase := .issued) : Entry :=
  { cmd := cmd, iter := 0, layer := 0, prologue := false, reads := [], writes := [], phase := phase, bay := some 0 }
/-- A stream 0 of context 0 whose window holds one entry. -/
def upE (e : Entry) (x : Ctx := {}) : State := upC { x with streams := [(0, { stream0 with window := [(0, e)], next := 1 })] }
/-- An idle bulk channel of context 0, its status record at DPA 0x40. -/
def idleChan : Channel := { ctx := 0, fn := 0, bulk := true, byDesc := false, vector := 4, port := none, window := 0, status := 0x40 }
/-- A state with channel 0 of W0. -/
def withChan (h : Channel) (s : State) : State := s.setWing 0 { s.wing 0 with chans := [(0, h)] }
/-- A descriptor (Table 9.2) that copies one 64-byte block from 0x20000 to 0x30000. -/
def descBytes : List Byte := [1, 6, 0, 0] ++ zeros 4 ++ leBytes 8 0x20000 ++ leBytes 8 0x30000 ++ zeros 8
  ++ leBytes 2 1 ++ leBytes 2 1 ++ leBytes 2 1 ++ leBytes 2 1 ++ zeros 24
/-- Bytes in device memory at an address. -/
def holding (a : Nat) (bs : List Byte) (s : State) : State :=
  { s with mem := bs.zipIdx.filterMap fun x => if x.1 = 0 then none else some (a + x.2, x.1) }
/-- A change of stack 2. -/
def withStk (f : Stack → Stack) : State := up.setStk 2 (f (up.stk 2))
/-- A PEER port 1 that is ACTIVE, without a spare lane. -/
def port1 : Port := { role := 1, st := .active, localParty := 1, partner := 2, partnerRole := 1, txMap := List.range 10, rxMap := List.range 10 }
/-- The module with port 1 as given. -/
def withPort (x : Port) (s : State := up) : State := s.setPort 1 x
/-- An innermost loop of two commands, in its last iteration. -/
def loop0 : Loop := { folio := 0x1000, slot := 1, seq := 0, ord := 0, start := 0, beginOrd := 0, len := 2, left := 1, iter := 0, index := none }
/-- A chain about to fetch its descriptor at 0x1000. -/
def chain0 : Chain := { stream := 0, entry := 0, desc := some 0x1000 }
/-- A chain whose descriptor waits for a slot. -/
def waitingChain : Chain := { chain0 with desc := none, flight := some (0x1000, descBytes), toTake := [(512, 1)] }
/-- A read of one byte at DPA 0, and the request of a whole granule there. -/
def request0 : MemReq := { addr := 0, len := 256, write := none, poison := false, owner := none }
/-- A window of context 0 with every right, over the page at 0x10000. -/
def window0 : Window := { ctx := 0, rights := 15, put := 0, party := 2, base := 0x10000, len := 0x10000, sigFirst := 0, sigCount := 4096 }
/-- A `bar.arrive` with target 0 in flight at a barrier of two arrivals, and one with target 1 when its next generation is full. -/
def arriving : State := upE (entryOf (scmd 0x012 2)) { sync := [(2, arrivals), (3, generation)] }
def overrun : State := upE (entryOf (scmd 0x012 (2 + 2 ^ 16))) { sync := [(2, { arrivals with h := 2 }), (3, generation)] }
/-- A flit of a type in window 255, transfer 1, first in sequence. -/
def flit (t : Nat) (payload : List Byte) : Flit :=
  { ftype := t, poison := false, window := 255, transfer := 1, index := 0, ndesc := 1, payload := fit 256 payload, seq := 0 }
/-- Port 1 with window 255 and a flit in its receive buffer. -/
def portRx (f : Flit) : Port := { port1 with windows := [(255, window0)], rx := [f] }
/-- The module with context 0 and port 1 about to process a flit. -/
def turn (f : Flit) (x : Ctx := {}) : State := withPort (portRx f) (upC x)
/-- A card of 32 FP64 elements at DPA 0x10000 that may hold a bucket, and the bucket of tag 4095 that it holds. -/
def bucketCard : Card := { kind := .clear, elem := .fp64, layout := .slot, base := 0x10000, capacity := 0x10000, count := 32, rank := 1
                           dims := [32, 1, 1, 1], pitch := [1, 0, 0, 0] }
def bucket0 : Bucket := { ctx := 0, state := .accepting, op := 3, mean := false, quarantine := false, expected := 2, deadline := 5000000
                          margin := 10, vc := 0, result := 1, alt := none, base := 0x10000, blocks := 1, moduli := [] }
/-- A state with bucket 4095. -/
def withBucket (u : Bucket) (s : State) : State := { s with buckets := [(4095, u)] }
/-- A `red.accum` immediate: phase, operation FP64, tag 4095, channel, and the rest. -/
def redImm (phase chan rest : Nat) : Nat := phase + 3 * 4 + 4095 * 2 ^ 8 + chan * 2 ^ 20 + rest * 2 ^ 32
/-- A waiting `red.accum` with context 0 holding the bucket's card at handles 1 and 2. -/
def redEntry (imm : Nat) (h : List (Option Nat)) : Entry := { entryOf (scmd 0x600 imm h) .waiting with bay := none }
def redState (imm : Nat) (h : List (Option Nat)) : State :=
  upE (redEntry imm h) { cards := [(1, bucketCard), (2, { bucketCard with base := 0x30000 })] }
def redStream (imm : Nat) (h : List (Option Nat)) : Stream := { stream0 with window := [(0, redEntry imm h)], next := 1 }
/-- A lane marker (Table 13.2) of physical lane 3 from party 2. -/
def markerBytes : List Byte := [0x9A, 0x4F, 0xD2, 0x31, 0x6B, 0x0C, 0xE5, 0x78, 3, 3] ++ leBytes 2 5 ++ leBytes 4 2 ++ zeros 252 ++ leBytes 4 0x2FA53669
/-- A SIGNAL flit's 272 bytes, a sequence number and a CRC. -/
def flitBytes (seq crc : Nat) : List Byte := leBytes 8 7 ++ zeros 256 ++ leBytes 4 seq ++ leBytes 4 crc
/-- CRC-32C of 268 bytes, a quarter at a time. -/
theorem crc_quarters {l : List Byte} {a b c d : Nat} (h1 : (l.take 67).foldl crcByte 0xFFFFFFFF = a)
    (h2 : ((l.drop 67).take 67).foldl crcByte a = b) (h3 : (((l.drop 67).drop 67).take 67).foldl crcByte b = c)
    (h4 : (((l.drop 67).drop 67).drop 67).foldl crcByte c = d) : crc32c l = d ^^^ 0xFFFFFFFF := by
  have h : l = l.take 67 ++ ((l.drop 67).take 67 ++ (((l.drop 67).drop 67).take 67 ++ (((l.drop 67).drop 67).drop 67))) := by
    simp only [List.take_append_drop]
  unfold crc32c
  rw [h, List.foldl_append, List.foldl_append, List.foldl_append, h1, h2, h3, h4]
/-- The CRCs of the marker and of the flits of sequence numbers 0 and 4095. -/
theorem crc_marker : crc32c (markerBytes.take 268) = 0x2FA53669 :=
  crc_quarters (a := 0x925D5195) (b := 0xBF288827) (c := 0x8C201276) (d := 0xD05AC996) (by decide +kernel) (by decide +kernel)
    (by decide +kernel) (by decide +kernel)
theorem crc_flit : crc32c ((flitBytes 0 0xC1F2D624).take 268) = 0xC1F2D624 :=
  crc_quarters (a := 0x2EC95692) (b := 0xC809182E) (c := 0x946621C3) (d := 0x3E0D29DB) (by decide +kernel) (by decide +kernel)
    (by decide +kernel) (by decide +kernel)
theorem crc_flit_last : crc32c ((flitBytes 4095 0xA55064CA).take 268) = 0xA55064CA :=
  crc_quarters (a := 0x2EC95692) (b := 0xC809182E) (c := 0x946621C3) (d := 0x5AAF9B35) (by decide +kernel) (by decide +kernel)
    (by decide +kernel) (by decide +kernel)
theorem crc_flit_bad : crc32c ((flitBytes 0 0).take 268) = 0xC1F2D624 :=
  crc_quarters (a := 0x2EC95692) (b := 0xC809182E) (c := 0x946621C3) (d := 0x3E0D29DB) (by decide +kernel) (by decide +kernel)
    (by decide +kernel) (by decide +kernel)
/-- The ACCH descriptor of a block of bucket 4095. -/
def bucketDesc : List Byte := leBytes 2 4095 ++ [3, 0] ++ zeros 12
/-- Port 1 about to process an ACCUM whose descriptor it holds. -/
def accumTurn : State := withPort { portRx (flit 6 []) with acch := some ⟨255, 1, 0, [bucketDesc]⟩ }
  (withBucket bucket0 (upC { cards := [(1, bucketCard)] }))
/-- Port 1 in time mode FOLLOW, about to process a flit. -/
def following (f : Flit) : State :=
  { withPort { portRx f with timeMode := 1 } with time := { up.time with follow := some (1, {}) } }
/-- Ten good lanes each way and a PEER partner of party 2. -/
def train0 : Train := { txLanes := List.range 10, rxLanes := List.range 10, partnerRole := 1, partnerParty := 2, ffe := [] }
/-- A MODULE_RESET entry of the first pass of a submission ring. -/
def submission0 : List Byte := leBytes 2 0x0006 ++ [0, 0] ++ leBytes 2 7 ++ [255] ++ zeros 56 ++ [0x80]
/-- A filling or accepting bucket's OPEN command in flight. -/
def filling : State := withBucket { bucket0 with state := .filling, opener := some (0, 0) } (upE (entryOf (scmd 0x600 (redImm 0 0 0))))
/-- The same once the bucket accepts contributions. -/
def accepting : State := (Claims.fresh filling).setBucket 4095 { bucket0 with state := .accepting }
/-- A key card of four extents of W0, and the header of its extent's first page (Table 3.3). -/
def keyCard : Card := { kind := .key, set := 1, accession := 9, keyKind := 1, extents := [0x100000, 0x200000, 0x300000, 0x400000]
                        pages := [1, 1, 1, 1], place := .extents }
def keyHeader (i acc : Nat) : List Byte :=
  let b := leBytes 4 0x314B4C4F ++ [1, 0] ++ leBytes 2 0 ++ leBytes 4 1 ++ [0, b8 i, 0, 0] ++ leBytes 8 acc ++ zeros 36
  b ++ leBytes 4 (crc32c b)
/-- Four cells lists joined, lowest address first. -/
def keyPages (acc : Nat) (s : State) : State := { s with mem := (List.range 4).flatMap (fun i =>
  (keyHeader i acc).zipIdx.filterMap (fun x => if x.1 = 0 then none else some (0x100000 * (i + 1) + x.2, x.1))) }
/-- A key pass of W0, its header unchecked. -/
def pass0 : Pass := { key := (0, 5), level := 0, opened := 0, window := 0, closed := true, checked := false, retried := false, next := 0
                      blocks := [0], subs := [] }
def withPass (q : Pass) (x : Ctx) : State := (upC x).setWing 0 { up.wing 0 with passes := [(7, q)] }
/-- A ring set of dimension 16 with a chain of five primes and one special prime (R13). -/
def set16 : ParamSet := { scheme := 1, log2n := 4, split := false, packed := false, dnum := 5, t := 0, lweN := 0
                          qs := [97, 193, 257, 353, 449], ps := [577] }
/-- A power domain as given, the limit at 3,600 W and the measured input at a value. -/
def domain (i : Nat) (d : Domain) (watts : Nat := 0) : State :=
  { up with power := { up.power with domains := up.power.domains.put i d, limit := 3600, inputMw := 1000 * watts } }
/-- A queued command of context 0, for which bay 0 works. -/
def pulling : State :=
  let s := upE { entryOf (scmd 0x403 0) .queued with bay := none }
  (s.setBay 0 { s.bay 0 with ctx := some 0 }).setWing 0 { s.wing 0 with queues := [(0, [(0, 0)])] }
/-- A ring set of dimension 16: five primes of 50 bits and a special prime of 60 (R13). -/
def wide (scheme : Nat) (packed : Bool) (t : Nat) : ParamSet :=
  { scheme := scheme, log2n := 4, split := false, packed := packed, dnum := 5, t := t, lweN := 0
    qs := [1125899906856961, 1125899906949121, 1125899906977793, 1125899906990081, 1125899907004417], ps := [1152921504606830593] }
/-- A lookup set of ring dimension 1,024 and LWE dimension 512 over the first of those primes, a share set modulo 2^64, and one modulo 97. -/
def lookupSet : ParamSet := { scheme := 4, log2n := 10, split := false, packed := false, dnum := 1, t := 0, lweN := 512, qs := [1125899906856961], ps := [] }
def shareSet (scheme : Nat) (qs : List Nat) : ParamSet :=
  { scheme := scheme, log2n := 0, split := false, packed := false, dnum := 1, t := 0, lweN := 0, qs := qs, ps := [] }
/-- A ciphertext card of scale 2^40 with an estimate of 10 bits. -/
def ct (set base : Nat) : Card :=
  { kind := .ciphertext, layout := .bitrev, set := set, level := 4, comps := 2, limbs := 5, scale := if set = 1 then 0x4270000000000000 else 1
    noise := 0x0A00, accession := 9, base := base, capacity := 0x4000 }
/-- A plaintext card of the same set and scale. -/
def pt (base : Nat) : Card := { ct 1 base with kind := .plaintext, comps := 1, accession := 0 }
/-- A polynomial card of chain primes from a level on. -/
def poly (base level limbs : Nat) (l : Layout) : Card :=
  { kind := .poly, layout := l, set := 1, level := level, limbs := limbs, base := base, capacity := 0x4000 }
/-- A key card of W0 with a kind and its `aux`. -/
def key (kind aux : Nat) (set : Nat := 1) : Card :=
  { kind := .key, set := set, accession := 9, keyKind := kind, aux := aux, target := 9, noise := 0x0A00, place := .extents }
/-- A batch of samples of a dimension. -/
def batch (dim base : Nat) : Card :=
  { kind := .lwe, set := 4, lweDim := dim, count := 2, noise := 0x0A00, accession := 9, base := base, capacity := 0x8000 }
/-- A share card of 16 elements in a role, its secret region beginning at 0x800000. -/
def share (set role base : Nat) : Card :=
  { kind := .share, layout := .limb, set := set, role := role, comps := roleComps role, limbs := 1, count := 16, noise := 0x0A00, accession := 9
    secret := roleSecret role, base := 0x800000 + base, capacity := 0x1000 }
/-- A refresh plan of set 1 with one stage each way and an EvalMod program of one rescale. -/
def plan0 : Plan :=
  { set := 1, accession := 9, wing := 0, log2slots := 3, modLevels := 1, scratchSlots := 1, carrel := false, scaleIn := 0x4270000000000000
    scaleOut := 0x4270000000000000, margin := 0, err := 0, relin := 20, conj := 21, fold := 0, program := 22, scratch := 0x2000000
    cts := [{ diag := 4, keys := 0, n1 := 1, n2 := 1 }], stc := [{ diag := 4, keys := 0, n1 := 1, n2 := 1 }]
    steps := [{ op := 6, d := 0, a := 0, b := 0, k := 0 }], consts := [] }
/-- A context of many cards. -/
def library : Ctx :=
  { sets := [(1, wide 1 false 0), (2, wide 2 true 97), (4, lookupSet), (5, shareSet 5 []), (6, shareSet 6 [97])]
    plans := [(1, plan0)], sync := [(2, arrivals)], regions := [{ base := 0x800000, len := 0x200000 }]
    cards := [(1, ct 1 0x10000), (2, ct 1 0x20000), (3, ct 1 0x30000), (4, pt 0x40000), (5, { ct 1 0x50000 with comps := 3 }),
      (6, { ct 1 0x60000 with scale := 0x44F0000000000000 }), (7, { ct 1 0x70000 with level := 0 }), (8, ct 2 0x80000), (9, ct 2 0x90000),
      (10, poly 0xA0000 0 2 .limb), (11, poly 0xB0000 2 2 .limb), (12, poly 0xC0000 0 2 .bitrev), (13, poly 0xD0000 0 2 .limb), (14, { pt 0x400000 with polys := 2 }), (15, pt 0x410000)]
    ++ [(20, key kRelin 0), (21, key kGalois 31), (23, key kGalois 5), (24, key kSwitch 0), (25, key kGalois 3), (26, key kGalois 5), (27, key kGalois 9),
      (28, key kGalois 17), (29, key kLweks (8 + 4 * 2 ^ 8 + 4 * 2 ^ 16) 4), (30, key kBoot (10 + 3 * 2 ^ 8) 4)]
    ++ [(40, batch 512 0xE0000), (41, batch 1024 0xF0000), (42, { clearCard with elem := .res64, count := 2, dims := [2, 1, 1, 1] }),
      (43, { clearCard with elem := .fp64 }), (44, clearCard), (45, { clearCard with base := 0x21000 }), (46, { clearCard with elem := .int32 })]
    ++ [(50, share 5 1 0), (51, share 5 1 0x1000), (52, share 5 2 0x2000), (53, share 5 2 0x3000), (54, share 5 3 0x4000),
      (55, { share 5 3 0x5000 with triple := .opened, opening := 52 }), (56, { share 5 1 0x6000 with bound := 40, frac := 30, noise := 0 }), (57, { ct 1 0x810000 with secret := true })]
    ++ [(60, share 6 1 0x20000), (61, share 6 3 0x21000), (62, share 6 2 0x22000), (63, { share 6 5 0x23000 with opening := 64 }),
      (64, { share 6 3 0x24000 with triple := .opened, opening := 62 }), (65, share 6 2 0x25000), (66, share 6 4 0x26000),
      (67, { share 6 3 0x27000 with triple := .spent }), (68, { ct 2 0x830000 with secret := true })] }
/-- Stream 0 of that context with one command in its window, pulled by a bay of W0 or waiting to issue. -/
def pulled (op imm : Nat) (h : List (Option Nat)) (phase : Phase := .pulled) : State :=
  let u := (upC library).uses 0 (scmd op imm h)
  upE { entryOf (scmd op imm h) phase with reads := u.1, writes := u.2 } library
/-- Handles at positions 0 to 3, 0 for none. -/
def hs (a b d k : Nat) : List (Option Nat) := [a, b, d, k].map (fun h => if h = 0 then none else some h)
/-- Some state meets the premises of a row's statement (Claims.rowIssues). -/
def Premises (op : Nat) (variant : Nat → Bool) (chk : State → Nat → Stream → Entry → Checked) : Prop :=
  ∃ (s b : State) (c n k : Nat) (x : Stream) (e : Entry) (v : Verdict), b = Claims.fresh s ∧ b.issueReady c n k op = some (x, e, none) ∧
    variant e.cmd.imm = true ∧ chk b c x e = .ok v ∧ v.fate = none ∧
    v.job.any (fun j => !j.inCarrel && ((b.ctx c).plans.get j.plan).any (fun p => decide (p.scratchSlots ≤ j.scratch))) = false
/-- A state in which the command of context 0, stream 0, entry 0 meets them. -/
def meets (s : State) (op : Nat) (variant : Nat → Bool) (chk : State → Nat → Stream → Entry → Checked) : Bool :=
  match (Claims.fresh s).issueReady 0 0 0 op with
  | some (x, e, none) => variant e.cmd.imm && (match chk (Claims.fresh s) 0 x e with
    | .ok v => v.fate.isNone && !v.job.any (fun j => !j.inCarrel &&
        (((Claims.fresh s).ctx 0).plans.get j.plan).any (fun p => decide (p.scratchSlots ≤ j.scratch)))
    | .error _ => false)
  | _ => false
theorem Premises.of {s : State} {op : Nat} {variant : Nat → Bool} {chk : State → Nat → Stream → Entry → Checked}
    (h : meets s op variant chk = true) : Premises op variant chk := by
  unfold meets at h
  split at h
  · rename_i x e hr
    rw [Bool.and_eq_true] at h
    obtain ⟨hv, h⟩ := h
    split at h
    · rename_i v hc
      rw [Bool.and_eq_true] at h
      exact ⟨s, _, 0, 0, 0, x, e, v, rfl, hr, hv, hc, by simpa using h.1, by simpa using h.2⟩
    · cases h
  · cases h
/-- Nonzero bytes at an address, as cells. -/
def cells (a : Nat) (bs : List Byte) : List Host.Cell := bs.zipIdx.filterMap (fun x => if x.1 = 0 then none else some (a + x.2, x.1))
/-- Stream 0 at a folio of one command, `he.neg` of the cards at handles 1 and 3, that ends there (Table 7.5, Table 7.7). -/
def folioState (loaded : Bool) : State :=
  { upC { library with streams := [(0, { stream0 with loaded := loaded })] } with
    mem := cells 0x1000 (leBytes 2 0x102 ++ leBytes 2 0x502 ++ zeros 20 ++ leBytes 2 1 ++ leBytes 2 0 ++ leBytes 2 3)
      ++ cells 0x1FC0 (leBytes 4 0x31464C4F ++ [1, 1]) }
/-- A plan record (Table 5.1) over the keys, the diagonal and the program card of the library, whose scale runs from 2^80 to the one
that three rescales leave. -/
def planRecord : List Byte :=
  leBytes 4 1 ++ leBytes 4 1 ++ leBytes 8 9 ++ [0, 3, 1, 1, 1, 1, 0, 0] ++ leBytes 8 0x44F0000000000000 ++ leBytes 8 0x408FFFFFFFC9BFE8 ++ zeros 4
    ++ leBytes 2 20 ++ leBytes 2 21 ++ leBytes 2 0 ++ leBytes 2 22 ++ zeros 4 ++ leBytes 8 0x2000000
    ++ leBytes 2 4 ++ leBytes 2 0 ++ [1, 1] ++ zeros 10 ++ leBytes 2 4 ++ leBytes 2 0 ++ [1, 1] ++ zeros 10
def programCard : Card :=
  { clearCard with base := 0x600000, capacity := 5120, count := 640, dims := [640, 1, 1, 1] }
def planning : State :=
  { upC { library with plans := [], cards := library.cards.put 22 programCard } with mem := cells 0x600000 [6] }
/-- A template (R370) and an image (Table 6.1) of a revealed share card. -/
def reveal : Card := share 5 4 0x40000
def revealTemplate : List Byte :=
  { kind := .share, set := 5, elem := .u64, layout := .limb, base := reveal.base, capacity := reveal.capacity, comps := 0, polys := 0 : Card }.bytes
def revealImage : List Byte := imageOf { reveal with noise := 0 } (shareSet 5 []) (zeros 127 ++ [1])
/-- A copy of four elements, issued. -/
def copying : State :=
  { upE { entryOf (scmd 0x500 0 (hs 44 0 45 0)) with reads := [44], writes := [45], dests := [45] } library with mem := cells 0x20000 [7, 0, 5] }
/-- A refresh in flight whose next primitive adds two registers. -/
def someCt (v : Nat) : Ct := { level := 0, comps := [[List.replicate 16 v], [List.replicate 16 (v + 1)]] }
def refreshing : State :=
  upE { entryOf (scmd 0x111 1 (hs 1 0 3 0)) with
    reads := [1], writes := [3], dests := [3], bay := none
    job := some { plan := 1, prims := [⟨0x100, 0, 20, 21, 0⟩, ⟨0x10A, 20, 0, 0, 0⟩], regs := [(20, someCt 3), (21, someCt 4)], inCarrel := false, scratch := 0 } }
    library
def plan1 : Plan :=
  { plan0 with scaleIn := 0x44F0000000000000, scaleOut := 0x408FFFFFFFC9BFE8, consts := List.replicate 256 (0, 0) }
def revealCard : Card := { reveal with scheme := 5, elem := .u64, noise := 0 }

/-- The next state of an answer. -/
def after : Host.Outcome State Fault Refusal → Option State
  | .next t => some t
  | _ => none

/-! The spec's worked examples -/

/-- R34: the CRC-32C of the nine bytes "123456789". -/
theorem test_crc32c : crc32c ((List.range 9).map (fun i => b8 (0x31 + i))) = 0xE3069283 := by decide +kernel
/-- 12_memory.md, "locating one access": DPA 0x51_2345_6700. -/
theorem test_dpa_decode : (dpaStack 0x5123456700, dpaPc 0x5123456700, dpaBank 0x5123456700, dpaRow 0x5123456700) = (5, 34, 5, 4660)
    ∧ dpaPc 0x5123456800 = 45 ∧ rowDpa 5 34 5 4660 1 = 0x5123456700 := by decide +kernel
/-- Table 4.9: tensor, relinearisation and rescale of one FS-3 multiplication. -/
theorem test_multiplication_estimates : oplus 0x3D48 0x3D48 = 0x3E48 ∧ oplus 0x3E48 0x2A90 = 0x3E49 ∧ oplus 0x3E49 0x1173 = 0x3E4A
    ∧ log2Down (2 ^ 40 - 87) 1 = 10239 ∧ oplus (0x3E4A - 10239) 4432 = 0x1657 := by decide +kernel
/-- Table 6.5: v ⊕ k_f, ⊕ E, the wrap test's sum and the share noise. -/
theorem test_split_estimates : oplus 0x1657 (27 * 256) = 6927 ∧ oplus 6927 2459 = 0x1B10 ∧ oplus (oplus 21632 11264) 0x1B10 = 21634
    ∧ oplus (0x1B10 - 40 * 256 + 16 * 256) (-256) = 0x0326 := by decide +kernel
/-- 14_collectives.md, "the federated aggregator": v_c = 0x1548 with weight 3. -/
theorem test_weighted_bound : 0x1548 + log2Up 3 1 = 0x16DE := by decide +kernel
/-- Table 7.14: the bytes of slot 4. -/
def slot4 : List Byte := [0x0A, 0x01, 0x02, 0x05] ++ zeros 20 ++ [0, 2, 0, 0, 0, 2] ++ zeros 18 ++ [0x10, 0, 0x52] ++ zeros 13
theorem test_slot_decode : parseCmd slot4 =
    { scmd 0x10A 0 [some 0x200, none, some 0x200, none] with tag := 0x10, idxCnt := 2, idxMask := 5 } := by decide +kernel
/-- The same with `CNT2` = 7: handles 0 and 2 are offset (R187). -/
theorem test_index_offsets : (resolve (parseCmd slot4) 7).h = [some 0x207, none, some 0x207, none] := by decide +kernel
/-- Table 10.8 at 12.045 µs: with A = 3, H = 1, E = 4 the arrival for g = 7 advances G to 8 and A takes the held arrival. -/
def fourWings : State :=
  upE (entryOf (scmd 0x012 (2 + 7 * 2 ^ 16))) { sync := [(2, { arrivals with e := 4, a := 3, h := 1, value := 7 }), (3, { generation with value := 7 })] }
theorem test_barrier_advances : (after (exec (.barrierArrival 0 0 0) fourWings)).any (fun t => decide (t.syncValue 0 2 = 0x0000000400000001 ∧ t.syncValue 0 3 = 8)) = true := by decide +kernel
/-- Table 10.8 at 11.900 µs: with A = 3 an arrival for g = 8 is held. -/
theorem test_barrier_holds : (after (exec (.barrierArrival 0 0 0)
      (upE (entryOf (scmd 0x012 (2 + 8 * 2 ^ 16))) { sync := [(2, { arrivals with e := 4, a := 3, value := 7 }), (3, { generation with value := 7 })] }))).any (fun t => decide (t.syncValue 0 2 = 0x0000000400010003)) = true := by decide +kernel
/-- Table 15.16: submission entry 5 starts stream 0 of context 3 on W1, at its folio, and the completion is that of Table 15.17. -/
def entry5 : List Byte :=
  [1, 4, 0, 0, 0x42, 0, 3] ++ zeros 17 ++ [1] ++ zeros 7 ++ [0, 0, 0x40, 0, 0x40, 0, 0, 0] ++ zeros 23 ++ [0x80]
def doorbell : State :=
  { up with mbx := [(0, { enable := true, size := 0x202, sqTail := 6, sqHead := 5, cqBase := 0x5000 })], ctxs := [(3, {})], map := { up.map with entries := List.replicate 88 0xFFFF } }
theorem test_stream_start : (after (exec (.submissionFetch .owner entry5 [] .ok) doorbell)).any (fun t => decide ((t.stream 3 0).map (fun x => (x.wing, x.folio, x.state)) = some (1, 0x4000400000, .running) ∧ (t.mb 0).sqHead % 2 ^ 16 = 6)) = true := by decide +kernel

/-! Small steps -/

/-- Table 7.10: `cnt.set` of counter 15 to 5. -/
theorem test_cnt_set : (after (exec (.cntSet 0 0 (scmd 1 (15 + 5 * 2 ^ 64))) (upC { streams := [(0, stream0)] }))).any (fun t => decide ((t.stream 0 0).map (fun x => x.cnt 15) = some 5)) = true := by decide +kernel
/-- R254: `sync.signal` adds 3 to a counter of 5. -/
theorem test_signal_adds : (after (exec (.syncSignalAdd 0 0 { scmd 0x011 0 with signal := true, sigId := 1, delta := 3 })
      (upC { streams := [(0, stream0)], sync := [(1, counter)] }))).any (fun t => decide (t.syncValue 0 1 = 8)) = true := by decide +kernel
/-- R349: a staging write lands in device memory. -/
theorem test_staging_write : (after (exec (.stagingWrite 0x20001 [9]) (staged up.hex [5]))).any (fun t => decide (t.mem = [(0, 5), (0x20001, 9)])) = true := by decide +kernel
/-- Writing the value that an unlisted address reads as removes the cell (R280's memory in canonical form). -/
theorem test_canonical_write : (after (exec (.stagingWrite 0 [0]) (staged up.hex [5]))).any (fun t => decide (t.mem = [])) = true := by decide +kernel
/-- R366: a tenant's MODULE_RESET is denied, and the module is not reset. -/
theorem test_tenant_denied : (after (exec (.moduleReset ten) upV)).any (fun t => decide (t.power.st = .run ∧ t.ctxs.length = 1)) = true := by decide +kernel
/-- R484: a feed beyond 64 V is a stress beyond the ratings, for which the spec gives no effect. -/
theorem test_stress : exec (.feedPresent 0 64001) State.reset = .fault .stressBeyondRatings := rfl
/-- An empty queue lets one tick pass while the timebase runs (log 2). -/
theorem test_idle_tick : (after (step up)).any (fun t => decide (t.time.now = 1000001)) = true := by decide +kernel
/-- The front of the queue is taken, and the rest stays (log 1). -/
theorem test_queue_order : (after (step { up with pending := [.evtHead 1, .evtHead 2] })).any (fun t => decide (t.pending = [.evtHead 2])) = true := by
  decide +kernel

/-! Ill-formed commands: for each check of `Instr.wf` a command that it refuses, beside one that it takes -/

/-- Every command of the first list is well formed and none of the second is. -/
def Separates (good bad : List Instr) : Prop := good.all Instr.wf = true ∧ bad.all (fun c => !c.wf) = true
def illMbx (b : Buf) : Mbx := { own 0 with buf := b }
theorem test_wf_ports : Separates [.mbxEnable .owner 0, .d0Entry (.vf 16), .vfFlr 1] [.mbxEnable (.vf 0) 0, .d0Entry (.vf 17), .vfFlr 0, .vfFlr 17] := by
  unfold Separates; decide
theorem test_wf_mailbox : Separates [.moduleReset (own 255)] [.moduleReset (own 256), .moduleReset { own 0 with tag := 65536 },
    .moduleReset (illMbx { noBuf with addr := 2 ^ 64 }), .moduleReset (illMbx { noBuf with len := 2 ^ 32 }),
    .moduleReset (illMbx { noBuf with data := [1] }), .moduleReset { own 0 with port := .vf 17 }] := by unfold Separates; decide
theorem test_wf_fields : Separates [.setPowerLimit (own 0) 65535, .cardUnbind (own 0) 65535, .streamAbort (own 0) 255, .setdasa 127 127]
    [.setPowerLimit (own 0) 65536, .cardUnbind (own 0) 65536, .streamAbort (own 0) 256, .setdasa 128 0, .entdaa 128,
      .loanClose (own 0) 256 0, .pageWeed (own 0) (2 ^ 64) 1, .syncWatchCancel (own 0) 65536] := by unfold Separates; decide +kernel
theorem test_wf_stream_commands : Separates [.cntSet 15 63 (scmd 1 0)]
    [.cntSet 16 0 (scmd 1 0), .cntSet 0 64 (scmd 1 0), .cntSet 0 0 (scmd 4096 0), .cntSet 0 0 (scmd 1 (2 ^ 128)), .cntSet 0 0 (scmd 1 0 [none]),
      .cntSet 0 0 (scmd 1 0 [some 65536, none, none, none]), .cntSet 0 0 { scmd 1 0 with predIdx := 16 }, .cntSet 0 0 { scmd 1 0 with waitId := 4096 },
      .cntSet 0 0 { scmd 1 0 with waitCond := 8 }, .cntSet 0 0 { scmd 1 0 with sigId := 4096 }, .cntSet 0 0 { scmd 1 0 with delta := 2 ^ 32 },
      .cntSet 0 0 { scmd 1 0 with tag := 2 ^ 32 }, .cntSet 0 0 { scmd 1 0 with idxCnt := 16 }, .cntSet 0 0 { scmd 1 0 with idxMask := 16 }] := by
  unfold Separates; decide +kernel
theorem test_wf_entries : Separates [.heAdd 15 63 0, .counterUpdate 15 4095 true 0, .drbgReseed 15 3] [.heAdd 16 0 0, .heAdd 0 64 0, .counterUpdate 0 4096 true 0,
    .contextWipeDone 16, .drbgReseed 0 4, .syncWatchDeadline 0 65536, .bucketDeadline 4096] := by unfold Separates; decide
theorem test_wf_flits : Separates [.write 7 (flit 15 [])] [.write 8 (flit 1 []), .write 0 (flit 16 []), .write 0 { flit 1 [] with payload := [] },
    .write 0 { flit 1 [] with seq := 4096 }, .write 0 { flit 1 [] with ndesc := 0 }, .write 0 { flit 1 [] with ndesc := 17 },
    .write 0 { flit 1 [] with window := 256 }, .write 0 { flit 1 [] with transfer := 65536 }, .flitReceive 0 [], .laneMarker 0 11 (zeros 272) 0] := by
  unfold Separates; decide +kernel
theorem test_wf_memory : Separates [.memoryRequest (some request0) 15 63 72, .patrolScrub 15 63 15 65535 15 72, .reshelveRow 15 63 15 ⟨65535, [(15, 0)]⟩]
    [.memoryRequest (some { request0 with len := 0 }) 0 0 0, .memoryRequest (some { request0 with addr := 1 }) 0 0 0,
      .memoryRequest (some { request0 with addr := 2 ^ 40 }) 0 0 0, .memoryRequest (some { request0 with write := some [] }) 0 0 0,
      .memoryRequest none 16 0 0, .memoryRequest none 0 64 0, .memoryRequest none 0 0 73, .patrolScrub 0 0 16 0 0 0, .patrolScrub 0 0 0 65536 0 0,
      .patrolScrub 0 0 0 0 16 0, .reshelveRow 0 0 0 ⟨0, [(16, 0)]⟩, .stackResume 16 0, .retrainSlice 0 64 true] := by unfold Separates; decide
theorem test_wf_units : Separates [.pieceComplete 87 15 .mx 0 0 0 .pass (some 127), .slotAccessGrant 135167, .wingLost 3 0, .ageingDailyRecord 79]
    [.pieceComplete 88 0 .mx 0 0 0 .pass none, .pieceComplete 0 16 .mx 0 0 0 .pass none, .pieceComplete 0 0 .mx 0 0 0 .pass (some 128),
      .slotAccessGrant 135168, .bayPull 88, .weightUpdate 4, .wingLost 4 0, .keyBlockRelease 0 0 73, .ageingDailyRecord 80, .deskFailure 71, .feedLost 2 0,
      .controlCoreFailure 6, .roleMigrationDone 5, .syncPlaneFail 2 0, .governorUpdate 0 [], .descriptorFetch 4 0 ⟨.pass, .pass⟩,
      .dmaChainEnd 0 ⟨256, .pass⟩] := by unfold Separates; decide
theorem test_wf_ports_of_links : Separates [.portTrainingAdvance 7 train0, .laneFail 7 9, .laneSwapAck 7 255 10, .retry 7 4095, .down 7 3]
    [.portTrainingAdvance 8 train0, .portTrainingAdvance 0 { train0 with txLanes := [11] }, .portTrainingAdvance 0 { train0 with ffe := [(0, 64)] },
      .laneFail 0 10, .laneSwap 0 254, .laneSwapAck 0 0 11, .retry 0 4096, .creditInit 0 65536 0 0, .down 0 0, .down 0 4] := by unfold Separates; decide
theorem test_wf_registers : Separates [.registerWrite .owner 0xFFFFFC 0, .stagingRead (2 ^ 28 - 1) 1, .submissionFetch .owner [] [] .ok]
    [.registerWrite .owner 2 0, .rcRegisterRead 0x1000000, .lowHalfRead .owner 1, .stagingRead (2 ^ 28) 1, .stagingWrite (2 ^ 28 - 1) [1, 2],
      .submissionFetch .owner [1] [] .ok] := by unfold Separates; decide +kernel

/-! Witnesses -/

theorem witness_ContextCommandsComplete_1 : ∃ (s b : State) (m : Mbx) (vf i : Nat),
    b = Claims.begun s m ∧ Claims.begins s m { op := 0x0001, tenant := false, ctx := .none } 255 ∧ vf ≤ 16 ∧ b.hex.rdyKeeper = true ∧
    b.hex.trng = true ∧ b.hex.drbgError = false ∧ (vf = 0 ∨ b.ctxs.any (fun c => c.2.vf == some vf) = false) ∧
    ((List.range 16).find? (fun j => (b.ctxs.get j).isNone) = some i) :=
  ⟨up, _, own 255, 16, 0,
  rfl, ⟨by decide +kernel, by decide +kernel, rfl, by decide +kernel⟩, by decide +kernel, by decide +kernel, by decide +kernel,
    by decide +kernel, by decide +kernel, by decide +kernel⟩
theorem witness_ContextCommandsComplete_2 : ∃ (s b : State) (m : Mbx) (c option value old : Nat) (y : Ctx),
    b = Claims.begun s m ∧ Claims.begins s m { op := 0x0003 } c ∧ (b.ctx c).option option value = some (old, y) ∧
    (option ≠ 5 ∨ old = value ∨ (b.ctx c).cards.any (fun h => h.2.kind == .share && h.2.role == roleTriple && h.2.triple == .opened) = false) :=
  ⟨upC, _, own 0, 0, 1, 1, 0, { noiseWorst := true },
  rfl, ⟨by decide +kernel, by decide +kernel, rfl, by decide +kernel⟩, by decide +kernel, by decide +kernel⟩
theorem witness_ContextCommandsComplete_2b : ∃ (s b : State) (m : Mbx) (c option value old : Nat) (y : Ctx),
    b = Claims.begun s m ∧ Claims.begins s m { op := 0x0003 } c ∧ (b.ctx c).option option value = some (old, y) ∧
    (option ≠ 5 ∨ old = value ∨ (b.ctx c).cards.any (fun h => h.2.kind == .share && h.2.role == roleTriple && h.2.triple == .opened) = false) :=
  ⟨upC, _, own 0, 0, 2, 0x3D00, 0, { bm := 0x3D00 },
  rfl, ⟨by decide +kernel, by decide +kernel, rfl, by decide +kernel⟩, by decide +kernel, by decide +kernel⟩
theorem witness_ContextCommandsComplete_3 : ∃ (s b : State) (m : Mbx) (c : Nat),
    b = Claims.begun s m ∧ Claims.begins s m { op := 0x0002, tenant := false } c :=
  ⟨upC, _, own 0, 0,
  rfl, ⟨by decide +kernel, by decide +kernel, rfl, by decide +kernel⟩⟩
theorem witness_ContextWipesAndSecretRegions_1 : ∃ (s b : State) (vf c : Nat) (x : Ctx),
    (Claims.fresh s).hostUp = true ∧ 1 ≤ vf ∧ vf ≤ 16 ∧ b = (Claims.fresh s).setMb vf ((Claims.fresh s).mb vf).afterReset ∧
    (b.ctxs.find? (fun p => p.2.vf == some vf) = some (c, x)) ∧ x.wiping = false :=
  ⟨upV, _, 3, 0, _,
  by decide +kernel, by decide +kernel, by decide +kernel, rfl, rfl, by decide +kernel⟩
theorem witness_ContextWipesAndSecretRegions_2 : ∃ (s b : State) (c : Nat) (x : Ctx),
    (Claims.fresh s).ctxs.get c = some x ∧ x.wiping = true ∧
    (b = (x.regions ++ x.filling.map (fun f => f.1)).foldl (fun s r => s.scramble r.base r.len) ((Claims.fresh s).wipeBays c)) :=
  ⟨upC { wiping := true }, _, 0, _,
  rfl, by decide +kernel, rfl⟩
theorem witness_ContextWipesAndSecretRegions_3 : ∃ (s b : State) (m : Mbx) (c base len : Nat),
    b = Claims.begun s m ∧ Claims.begins s m { op := 0x0203 } c ∧ base % 65536 = 0 ∧ len % 65536 = 0 ∧ 0 < len ∧ base < 2 ^ 40 ∧
    base % 2 ^ 36 + len ≤ b.grade.stackBytes ∧ b.regionHit base len = false ∧ b.cardIn base len = false ∧
    (b.stk (dpaStack base)).ready = true ∧ (b.ctx c).regions.length < 64 :=
  ⟨upC, _, own 0, 0, 0xF000000000, 0x10000,
  rfl, ⟨by decide +kernel, by decide +kernel, rfl, by decide +kernel⟩, by decide +kernel, by decide +kernel, by decide +kernel,
    by decide +kernel, by decide +kernel, by decide +kernel, by decide +kernel, by decide +kernel, by decide +kernel⟩
theorem witness_ContextWipesAndSecretRegions_4 : ∃ (s b : State) (m : Mbx) (c base : Nat) (r : Region),
    b = Claims.begun s m ∧ Claims.begins s m { op := 0x0204 } c ∧ ((b.ctx c).regions.find? (fun r => r.base == base) = some r) ∧
    b.cardIn r.base r.len = false :=
  ⟨upC { regions := [{ base := 0x10000, len := 0x10000 }] }, _, own 0, 0, 0x10000, _,
  rfl, ⟨by decide +kernel, by decide +kernel, rfl, by decide +kernel⟩, rfl, by decide +kernel⟩
theorem witness_ContextWipesAndSecretRegions_5 : ∃ (s b : State) (base c : Nat) (r : Region) (o : Owed),
    b = Claims.fresh s ∧ (b.fills.find? (fun r => r.base == base) = none) ∧
    (b.ctxs.findSome? (fun c => (c.2.filling.find? (fun f => f.1.base == base)).map (fun f => (c.1, f))) = some (c, (r, some o))) :=
  ⟨upC { filling := [({ base := 0x10000, len := 0x10000 }, some owedTo)] }, _, 0x10000, 0, _, _,
  rfl, by decide +kernel, rfl⟩
theorem witness_ModuleCommandsAndSelfTests_1 : ∃ (s b t : State) (m : Mbx) (watts : Nat),
    b = Claims.begun s m ∧ Claims.begins s m { op := 0x0004, tenant := false, ctx := .none } 255 ∧ 1000 ≤ watts ∧ watts ≤ 3600 ∧
    t = ({ b with power := { b.power with setLimit := watts } } : State).relimit :=
  ⟨up, _, _, own 255, 1000,
  rfl, ⟨by decide +kernel, by decide +kernel, rfl, by decide +kernel⟩, by decide +kernel, by decide +kernel, rfl⟩
theorem witness_ModuleCommandsAndSelfTests_1b : ∃ (s b t : State) (m : Mbx) (watts : Nat),
    b = Claims.begun s m ∧ Claims.begins s m { op := 0x0004, tenant := false, ctx := .none } 255 ∧ 1000 ≤ watts ∧ watts ≤ 3600 ∧
    t = ({ b with power := { b.power with setLimit := watts } } : State).relimit :=
  ⟨up, _, _, own 255, 3600,
  rfl, ⟨by decide +kernel, by decide +kernel, rfl, by decide +kernel⟩, by decide +kernel, by decide +kernel, rfl⟩
theorem witness_ModuleCommandsAndSelfTests_2 : ∃ (s b : State) (m : Mbx) (mask ring len : Nat),
    b = Claims.begun s m ∧ Claims.begins s m { op := 0x0007, tenant := false, ctx := .none } 255 ∧ mask < 64 ∧ ring % 4096 = 0 ∧
    len % 4096 = 0 ∧ len ≤ 2 ^ 28 ∧
    (len = 0 ∨ (2 ^ 20 ≤ len ∧ ring + len < 2 ^ 40 ∧ ring / 2 ^ 36 = (ring + len - 1) / 2 ^ 36 ∧ b.reach ring len = none ∧ b.secretHit ring len = false)) :=
  ⟨up, _, own 255, 63, 0x1000, 0x100000,
  rfl, ⟨by decide +kernel, by decide +kernel, rfl, by decide +kernel⟩, by decide +kernel, by decide +kernel, by decide +kernel,
    by decide +kernel, by decide +kernel⟩
theorem witness_ModuleCommandsAndSelfTests_2b : ∃ (s b : State) (m : Mbx) (mask ring len : Nat),
    b = Claims.begun s m ∧ Claims.begins s m { op := 0x0007, tenant := false, ctx := .none } 255 ∧ mask < 64 ∧ ring % 4096 = 0 ∧
    len % 4096 = 0 ∧ len ≤ 2 ^ 28 ∧
    (len = 0 ∨ (2 ^ 20 ≤ len ∧ ring + len < 2 ^ 40 ∧ ring / 2 ^ 36 = (ring + len - 1) / 2 ^ 36 ∧ b.reach ring len = none ∧ b.secretHit ring len = false)) :=
  ⟨up, _, own 255, 0, 0, 0,
  rfl, ⟨by decide +kernel, by decide +kernel, rfl, by decide +kernel⟩, by decide +kernel, by decide +kernel, by decide +kernel,
    by decide +kernel, by decide +kernel⟩
theorem witness_ModuleCommandsAndSelfTests_3 : ∃ (s b : State) (m : Mbx),
    b = Claims.begun s m ∧ Claims.begins s m { op := 0x0006, tenant := false, ctx := .none } 255 :=
  ⟨up, _, own 255,
  rfl, ⟨by decide +kernel, by decide +kernel, rfl, by decide +kernel⟩⟩
theorem witness_ModuleCommandsAndSelfTests_4 : ∃ (s b : State) (m : Mbx) (cls idx : Nat) (q : Bool),
    b = Claims.begun s m ∧ Claims.begins s m { op := 0x0005, tenant := false, ctx := .none } 255 ∧ cls ≤ 3 ∧ idx < testUnits cls ∧
    b.testAbsent cls idx = false ∧ b.testReady cls idx = true ∧ (b.tests.any (fun t => testWing t.cls t.idx == testWing cls idx) = false) ∧
    (b.testBusy cls idx = true → q = true) :=
  ⟨up, _, own 255, 1, 15, false,
  rfl, ⟨by decide +kernel, by decide +kernel, rfl, by decide +kernel⟩, by decide +kernel, by decide +kernel, by decide +kernel,
    by decide +kernel, by decide +kernel, by decide +kernel⟩
theorem witness_ModuleCommandsAndSelfTests_5 : ∃ (s b : State) (cls idx : Nat) (drained : Bool) (t : Test),
    b = Claims.fresh s ∧ (b.tests.find? (fun t => t.cls == cls && t.idx == idx && !t.testing) = some t) :=
  ⟨{ up with tests := [⟨1, 2, owedTo, false, false⟩] }, _, 1, 2, true, _,
  rfl, rfl⟩
theorem witness_ModuleCommandsAndSelfTests_6 : ∃ (s b : State) (idx : Nat) (r : TestResult) (t : Test),
    b = Claims.fresh s ∧ r.pass = true ∧ (b.tests.find? (fun t => t.cls == 1 && t.idx == idx && t.testing) = some t) :=
  ⟨{ up with tests := [⟨1, 2, owedTo, true, false⟩] }, _, 2, { pass := true, cores := [], lanes := [] }, _,
  rfl, by decide +kernel, rfl⟩
theorem witness_FirmwareLoadsAndServes_1 : ∃ (s b : State) (m : Mbx) (slot : Nat) (bs : List Byte),
    b = Claims.begun s m ∧ Claims.begins s m { op := 0x0101, tenant := false, ctx := .none, buf := true, maxLen := 33554432 } 255 ∧
    slot ≤ 1 ∧ b.hex.staging.get slot = none ∧ b.inBuf m m.buf.len = .ok bs :=
  ⟨up, _, own 255 (hostBuf (zeros 64)), 1, zeros 64,
  rfl, ⟨by decide +kernel, by decide +kernel, rfl, by decide +kernel⟩, by decide +kernel, by decide +kernel, by decide +kernel⟩
theorem witness_FirmwareLoadsAndServes_2 : ∃ (s b t : State) (slot : Nat) (o : Owed) (img : Image),
    b = Claims.fresh s ∧ b.hex.staging.get slot = some (o, img) ∧ t = { b with hex := { b.hex with staging := b.hex.staging.del slot } } :=
  ⟨{ up with hex := { up.hex with staging := [(1, owedTo, someImage)] } }, _, _, 1, _, _,
  rfl, rfl, rfl⟩
theorem witness_FirmwareLoadsAndServes_3 : ∃ (s b t : State) (m : Mbx) (slot : Nat) (img : Image),
    b = Claims.begun s m ∧ Claims.begins s m { op := 0x0102, tenant := false, ctx := .none } 255 ∧ b.ctxs = [] ∧ slot < 2 ∧
    b.hex.slots.get slot = some img ∧ b.hex.otp.arb ≤ fld img.colophon 12 2 ∧ t = Claims.ended s m 0x0102 255 [] (b.activate img) :=
  ⟨{ up with hex := { up.hex with slots := [(1, someImage)] } }, _, _, own 255, 1, someImage,
  rfl, ⟨by decide +kernel, by decide +kernel, rfl, by decide +kernel⟩, by decide +kernel, by decide +kernel, by decide +kernel,
    by decide +kernel, rfl⟩
theorem witness_FirmwareLoadsAndServes_4 : ∃ (s b : State),
    b = Claims.fresh s ∧ b.hex.phase = .starting :=
  ⟨{ up with hex := { up.hex with phase := .starting } }, _,
  rfl, by decide +kernel⟩
theorem witness_FirmwareLoadsAndServes_5 : ∃ (s b : State),
    b = Claims.fresh s ∧ b.hex.phase = .restarting :=
  ⟨{ up with hex := { up.hex with phase := .restarting } }, _,
  rfl, by decide +kernel⟩
theorem witness_FirmwareLoadsAndServes_6 : ∃ (s b : State) (a : Nat) (r : List Byte),
    b = Claims.fresh s ∧ b.power.st = .run ∧ b.hex.phase = .none ∧ b.bootWindow = some a ∧ b.read a 64 = .ok r ∧ fld r 0 4 = 0x31424C4F ∧
    fld r 4 4 ≠ 0 ∧ fld r 4 4 ≠ b.hex.bootSeq ∧ fld r 8 8 % 4096 = 0 ∧ 0x1000 ≤ fld r 8 8 ∧ fld r 8 8 + fld r 16 8 ≤ 2 ^ 28 :=
  ⟨staged { phase := .none } (bootRecord 0x1000 0x1000), _, 0, bootRecord 0x1000 0x1000,
  rfl, by decide +kernel, by decide +kernel, by decide +kernel, by decide +kernel, by decide +kernel, by decide +kernel, by decide +kernel,
    by decide +kernel, by decide +kernel, by decide +kernel⟩
theorem witness_FirmwareLoadsAndServes_7 : ∃ (s b : State) (seq off len a : Nat) (img : List Byte),
    b = Claims.fresh s ∧ b.hex.phase = .loading seq off len ∧ b.stageDpa off len = some a ∧ b.read a len = .ok img :=
  ⟨staged { phase := .loading 1 0x1000 64 } [], _, 1, 0x1000, 64, 0x1000, zeros 64,
  rfl, by decide +kernel, by decide +kernel, by decide +kernel⟩
theorem witness_KeeperCommandsAndJobs_1 : ∃ (s b : State) (m : Mbx) (c : Nat),
    b = Claims.begun s m ∧ Claims.begins s m { op := 0x0104, ctx := .own, buf := true } c ∧ b.hex.rdyKeeper = true ∧
    b.outBuf m 80352 = none ∧ (m.buf.dev = true → b.poisoned m.buf.addr 64 = false) ∧ (m.buf.dev = false → m.buf.fault ≠ .poisonedTlp) :=
  ⟨up, _, own 255 { noBuf with addr := 64, len := 80352 }, 255,
  rfl, ⟨by decide +kernel, by decide +kernel, rfl, by decide +kernel⟩, by decide +kernel, by decide +kernel, by decide +kernel,
    by decide +kernel⟩
theorem witness_KeeperCommandsAndJobs_2 : ∃ (s b : State) (q : QuoteJob) (rest : List QuoteJob),
    b = Claims.fresh s ∧ b.hex.quotes = q :: rest :=
  ⟨{ up with hex := { up.hex with quotes := [⟨owedTo, zeros 64, none, noBuf⟩] } }, _, _, [],
  rfl, rfl⟩
theorem witness_KeeperCommandsAndJobs_3 : ∃ (s b t : State) (m : Mbx) (c : Nat) (r : List Byte),
    b = Claims.begun s m ∧ Claims.begins s m { op := 0x0105, owner := false, ctx := .own, buf := true } c ∧ b.hex.rdyKeeper = true ∧
    b.hex.drbgError = false ∧ b.hex.trng = true ∧ ((b.hex.job.toList ++ b.hex.jobs).any (fun j => j.ctx == c && j.kind == 2) = false) ∧
    b.outBuf m 52088 = none ∧ (r = (if m.buf.dev then b.bytes m.buf.addr 1808 else fit 1808 m.buf.data)) ∧
    (m.buf.dev = true → b.poisoned m.buf.addr 1808 = false) ∧ (m.buf.dev = false → m.buf.fault ≠ .poisonedTlp) ∧ fld r 0 4 = 0x31534C4F ∧
    fld r 4 2 = 0x0100 ∧ zeroAt r 6 2 = true ∧ zeroAt r 1705 3 = true ∧ zeroAt r 1805 3 = true ∧
    (t = b.modCtx c (fun x => { x with session := none })) :=
  ⟨upV, _, _, ten { noBuf with addr := 64, len := 52088, data := sessionRecord }, 0, _,
  rfl, ⟨by decide +kernel, by decide +kernel, rfl, by decide +kernel⟩, by decide +kernel, by decide +kernel, by decide +kernel,
    by decide +kernel, by decide +kernel, rfl, by decide +kernel, by decide +kernel, by decide +kernel, by decide +kernel,
    by decide +kernel, by decide +kernel, by decide +kernel, rfl⟩
theorem witness_KeeperCommandsAndJobs_4 : ∃ (s b : State) (m : Mbx) (c n : Nat) (x : Ctx) (z : Session) (bs : List Byte),
    b = Claims.begun s m ∧ Claims.begins s m { op := 0x0107, buf := true } c ∧ b.hex.rdyKeeper = true ∧ b.ctxs.get c = some x ∧
    x.session = some z ∧ b.inBuf m m.buf.len = .ok bs ∧ n = fld bs 6 2 ∧ 1 ≤ n ∧ n ≤ 1024 ∧ bs.length = 32 + 48 * n + 96 ∧
    fld bs 0 4 = 0x314D4C4F ∧ fld bs 4 2 = 0x0100 ∧ zeroAt bs 16 16 = true ∧
    ((List.range n).all (fun i => fld bs (32 + 48 * i + 9) 1 == 0) = true) ∧ x.manifest = none :=
  ⟨upC { session := some someSession }, _, own 0 (hostBuf manifestRecord), 0, _, _, _, manifestRecord,
  rfl, ⟨by decide +kernel, by decide +kernel, rfl, by decide +kernel⟩, by decide +kernel, rfl, rfl, by decide +kernel, rfl,
    by decide +kernel, by decide +kernel, by decide +kernel, by decide +kernel, by decide +kernel, by decide +kernel, by decide +kernel,
    by decide +kernel⟩
theorem witness_KeeperCommandsAndJobs_5_1 : ∃ (s a b : State) (j : BigJob), ∃ e,
    a = Claims.fresh s ∧ b = a.nextJob ∧ a.hex.job = some j ∧ j.start + jobTime j.kind ≤ a.time.now ∧ j.fail = some e :=
  ⟨{ up with hex := { up.hex with job := some ⟨2, owedTo, 0, 0, 0, [], noBuf, some .integrityFault⟩ }, time := { up.time with now := 3000000 } }, _, _, _, .integrityFault,
  rfl, rfl, rfl, by decide +kernel, by decide +kernel⟩
theorem witness_KeeperCommandsAndJobs_5_2 : ∃ (s a b : State) (j : BigJob),
    a = Claims.fresh s ∧ b = a.nextJob ∧ a.hex.job = some j ∧ j.start + jobTime j.kind ≤ a.time.now ∧ j.fail = none ∧ j.kind = 0 :=
  ⟨{ up with hex := { up.hex with job := some ⟨0, owedTo, 0, 0, 0, [], noBuf, none⟩ }, time := { up.time with now := 3000000 } }, _, _, _,
  rfl, rfl, rfl, by decide +kernel, by decide +kernel, by decide +kernel⟩
theorem witness_KeeperCommandsAndJobs_5_3 : ∃ (s a b : State) (j : BigJob),
    a = Claims.fresh s ∧ b = a.nextJob ∧ a.hex.job = some j ∧ j.start + jobTime j.kind ≤ a.time.now ∧ j.fail = none ∧ j.kind = 1 :=
  ⟨{ up with hex := { up.hex with job := some ⟨1, owedTo, 0, 0, 0, [], noBuf, none⟩ }, time := { up.time with now := 3000000 } }, _, _, _,
  rfl, rfl, rfl, by decide +kernel, by decide +kernel, by decide +kernel⟩
theorem witness_KeeperCommandsAndJobs_5_4 : ∃ (s a b : State) (j : BigJob),
    a = Claims.fresh s ∧ b = a.nextJob ∧ a.hex.job = some j ∧ j.start + jobTime j.kind ≤ a.time.now ∧ j.fail = none ∧ j.kind = 2 ∧
    (∀ x f, a.ctxs.get j.ctx = some x → x.manifest = some f → f.serial < fld j.msg 8 8) :=
  ⟨{ up with hex := { up.hex with job := some ⟨2, owedTo, 0, 0, 0, [], noBuf, none⟩ }, time := { up.time with now := 3000000 } }, _, _, _,
  rfl, rfl, rfl, by decide +kernel, by decide +kernel, by decide +kernel, (by intro x f h; cases h)⟩
theorem witness_KeeperCommandsAndJobs_6 : ∃ (s b : State) (m : Mbx) (c handle : Nat) (bs : List Byte) (z : Session),
    b = Claims.begun s m ∧ Claims.begins s m { op := 0x0106, owner := false, ctx := .own, buf := true } c ∧ b.hex.rdyKeeper = true ∧
    b.hex.trng = true ∧ b.anyBuf m = .ok bs ∧ (b.ctx c).session = some z ∧ z.part = none ∧ 48 ≤ bs.length ∧ fld bs 0 4 = 0x315A4C4F ∧
    fld bs 4 4 = 0 ∧ z.lastSeq < fld bs 8 8 ∧ fld bs 16 8 = 0 ∧ handle < 65536 :=
  ⟨upV { session := some someSession }, _, ten (hostBuf sealedRecord), 0, 65535, sealedRecord, _,
  rfl, ⟨by decide +kernel, by decide +kernel, rfl, by decide +kernel⟩, by decide +kernel, by decide +kernel, by decide +kernel, rfl,
    by decide +kernel, by decide +kernel, by decide +kernel, by decide +kernel, by decide +kernel, by decide +kernel, by decide +kernel⟩
theorem witness_EntropySourceMoves_1 : ∃ (s b : State) (pass : Bool),
    b = Claims.fresh s ∧ b.power.st = .run ∧ b.hex.trng = false ∧ b.hex.drbgError = false :=
  ⟨{ up with hex := { up.hex with trng := false } }, _, true,
  rfl, by decide +kernel, by decide +kernel, by decide +kernel⟩
theorem witness_EntropySourceMoves_2 : ∃ (s b : State),
    b = Claims.fresh s ∧ b.power.st = .run ∧ b.hex.trng = true :=
  ⟨up, _,
  rfl, by decide +kernel, by decide +kernel⟩
theorem witness_EntropySourceMoves_3 : ∃ (s b : State),
    b = Claims.fresh s ∧ b.power.st = .run ∧ b.hex.drbgError = true :=
  ⟨{ up with hex := { up.hex with drbgError := true } }, _,
  rfl, by decide +kernel, by decide +kernel⟩
theorem witness_EntropySourceMoves_4 : ∃ (s b : State) (c w : Nat) (x : Ctx) (d : Drbg),
    b = Claims.fresh s ∧ b.ctxs.get c = some x ∧ x.drbg.get w = some d ∧ b.hex.drbgError = false ∧
    (2 ^ 20 ≤ d.requests ∨ d.since + 1000000000 ≤ b.time.now) :=
  ⟨upC { drbg := [(3, { seed := 0, requests := 2 ^ 20, since := 1000000 })] }, _, 0, 3, _, _,
  rfl, rfl, rfl, by decide +kernel, by decide +kernel⟩
theorem witness_SetsPlansAndPlacementLoad_1 : ∃ (s b : State) (m : Mbx) (c : Nat) (bs : List Byte),
    b = Claims.begun s m ∧ Claims.begins s m { op := 0x0201, buf := true } c ∧ b.anyBuf m = .ok bs ∧ 64 ≤ bs.length ∧
    bs.length = 64 + 8 * (fld bs 6 1 + fld bs 7 1) ∧ fld bs 0 4 ≠ 0 ∧ fld bs 9 1 < 4 ∧ zeroAt bs 10 6 = true ∧ zeroAt bs 26 38 = true ∧
    (parseSet bs).ok = true ∧ (b.ctx c).sets.get (fld bs 0 4) = none ∧ (b.ctx c).sets.length < 32 :=
  ⟨upC, _, own 0 (hostBuf shareSetRecord), 0, shareSetRecord,
  rfl, ⟨by decide +kernel, by decide +kernel, rfl, by decide +kernel⟩, by decide +kernel, by decide +kernel, by decide +kernel,
    by decide +kernel, by decide +kernel, by decide +kernel, by decide +kernel, by decide +kernel, by decide +kernel, by decide +kernel⟩
theorem witness_SetsPlansAndPlacementLoad_3 : ∃ (s b : State) (m : Mbx) (bs : List Byte),
    b = Claims.begun s m ∧ Claims.begins s m { op := 0x0205, tenant := false, ctx := .none, buf := true } 255 ∧ b.inBuf m 768 = .ok bs ∧
    b.map.owed = none ∧ placementGood b bs = true ∧
    ((List.range 88).any (fun i => b.strands i (BitVec.ofNat 64 (fld bs (64 + 8 * i) 8))) = false) :=
  ⟨up, _, own 255 (hostBuf mapRecord), mapRecord,
  rfl, ⟨by decide +kernel, by decide +kernel, rfl, by decide +kernel⟩, by decide +kernel, by decide +kernel, by decide +kernel,
    by decide +kernel⟩
theorem witness_SetsPlansAndPlacementLoad_4 : ∃ (s b t : State) (bay : Nat),
    b = Claims.fresh s ∧ (b.bay bay).applying = true ∧ b.bayBusy bay = false ∧
    (t = b.zeroSlots bay (fun k => slotOwner (b.bay bay).entry k != slotOwner (b.map.entries.getD bay 0) k)) :=
  ⟨{ up with bays := up.bays.put 5 { up.bay 5 with applying := true } }, _, _, 5,
  rfl, by decide +kernel, by decide +kernel, rfl⟩
theorem witness_SetsPlansAndPlacementLoad_5 : ∃ (s b : State) (m : Mbx) (c : Nat),
    b = Claims.begun s m ∧ Claims.begins s m { op := 0x0206, ctx := .own, buf := true } c ∧ b.outBuf m 768 = none :=
  ⟨upV, _, ten { noBuf with addr := 64, len := 768 }, 0,
  rfl, ⟨by decide +kernel, by decide +kernel, rfl, by decide +kernel⟩, by decide +kernel⟩
theorem witness_CardCommandsComplete_1 : ∃ (s b : State) (m : Mbx) (c handle : Nat) (bs : List Byte) (cd : Card),
    b = Claims.begun s m ∧ Claims.begins s m { op := 0x0301, buf := true } c ∧ b.inBuf m 128 = .ok bs ∧ Card.parse bs = some cd ∧
    cd.supplied.bytes = bs ∧ handle < 65536 ∧ cd.writable = true ∧
    ((cd.kind = .clear ∧ cd.span noSet ≤ cd.capacity) ∨ (cd.kind ≠ .clear ∧ ∃ p, b.pset c cd.set = some p ∧ schemeOk cd.kind p = true ∧ cd.fits p = true)) ∧
    b.placeOk c handle cd (cd.secret || (cd.kind == .share && roleSecret cd.role)) = true ∧ b.cardReady cd = true ∧
    b.handleBusy c handle = false :=
  ⟨upC, _, own 0 (hostBuf clearCard.bytes), 0, 65535, clearCard.bytes, clearCard,
  rfl, ⟨by decide +kernel, by decide +kernel, rfl, by decide +kernel⟩, by decide +kernel, by decide +kernel, by decide +kernel,
    by decide +kernel, by decide +kernel, by decide +kernel, by decide +kernel, by decide +kernel, by decide +kernel⟩
theorem witness_CardCommandsComplete_3 : ∃ (s b t : State) (m : Mbx) (c handle : Nat) (cd : Card),
    b = Claims.begun s m ∧ Claims.begins s m { op := 0x0304 } c ∧ handle < 65536 ∧ b.handleBusy c handle = false ∧
    b.card c handle = some cd ∧ t = b.zeroCardSlots cd :=
  ⟨upC { cards := [(65535, clearCard)] }, _, _, own 0, 0, 65535, clearCard,
  rfl, ⟨by decide +kernel, by decide +kernel, rfl, by decide +kernel⟩, by decide +kernel, by decide +kernel, by decide +kernel, rfl⟩
theorem witness_CardCommandsComplete_4 : ∃ (s b : State) (m : Mbx) (c handle : Nat),
    b = Claims.begun s m ∧ Claims.begins s m { op := 0x0305, buf := true } c ∧ b.outBuf m 128 = none :=
  ⟨upC { cards := [(1, clearCard)] }, _, own 0 { noBuf with addr := 64, len := 128 }, 0, 1,
  rfl, ⟨by decide +kernel, by decide +kernel, rfl, by decide +kernel⟩, by decide +kernel⟩
theorem witness_StreamCommandsComplete_1 : ∃ (s b : State) (m : Mbx) (c wing folio seq n : Nat),
    b = Claims.begun s m ∧ Claims.begins s m { op := 0x0401 } c ∧ wing < 4 ∧ (b.wing wing).ready = true ∧ b.folioReady folio = true ∧
    b.broken c = false ∧ b.group wing c ≠ [] ∧ ((List.range 64).find? (fun n => ((b.ctx c).streams.get n).isNone) = some n) ∧
    b.streamsOn wing < 64 ∧ ((b.ctx c).streams.countP (fun t => t.2.wing == wing) < 16) :=
  ⟨upC, _, own 0, 0, 3, 0x1000, 0, 0,
  rfl, ⟨by decide +kernel, by decide +kernel, rfl, by decide +kernel⟩, by decide +kernel, by decide +kernel, by decide +kernel,
    by decide +kernel, by decide +kernel, by decide +kernel, by decide +kernel, by decide +kernel⟩
theorem witness_StreamCommandsComplete_2 : ∃ (s b : State) (m : Mbx) (c n folio : Nat) (x : Stream),
    b = Claims.begun s m ∧ Claims.begins s m { op := 0x0402 } c ∧ b.stream c n = some x ∧ x.state = .parked ∧ (b.wing x.wing).ready = true ∧
    b.folioReady folio = true :=
  ⟨upC { streams := [(5, { stream0 with state := .parked })] }, _, own 0, 0, 5, 0x1000, { stream0 with state := .parked },
  rfl, ⟨by decide +kernel, by decide +kernel, rfl, by decide +kernel⟩, by decide +kernel, by decide +kernel, by decide +kernel,
    by decide +kernel⟩
theorem witness_StreamCommandsComplete_3 : ∃ (s b : State) (m : Mbx) (c n : Nat) (x : Stream),
    b = Claims.begun s m ∧ Claims.begins s m { op := 0x0403 } c ∧ b.stream c n = some x ∧ x.ended = false :=
  ⟨upC { streams := [(63, stream0)] }, _, own 0, 0, 63, stream0,
  rfl, ⟨by decide +kernel, by decide +kernel, rfl, by decide +kernel⟩, by decide +kernel, by decide +kernel⟩
theorem witness_SyncCommandsComplete_1 : ∃ (s b : State) (m : Mbx) (c first count kind home : Nat) (init : W64) (expected : Nat),
    b = Claims.begun s m ∧ Claims.begins s m { op := 0x0501 } c ∧ 0 < count ∧ first + count ≤ 4096 ∧ homeForm home = true ∧
    (home.testBit 15 = false → count ≤ 32) ∧ ((List.range count).any (fun i => ((b.ctx c).sync.get (first + i)).isSome) = false) ∧
    ((kind = 0 ∧ expected = 0) ∨ (kind = 1 ∧ first % 2 = 0 ∧ count % 2 = 0 ∧ 1 ≤ expected ∧ expected ≤ 65535)) ∧ b.homeLost home = false ∧
    b.homeReady home = true ∧ b.homeUsed home + count ≤ homeCapacity home :=
  ⟨upC, _, own 0, 0, 4094, 2, 1, 0x8000, 0, 65535,
  rfl, ⟨by decide +kernel, by decide +kernel, rfl, by decide +kernel⟩, by decide +kernel, by decide +kernel, by decide +kernel,
    by decide +kernel, by decide +kernel, by decide +kernel, by decide +kernel, by decide +kernel, by decide +kernel⟩
theorem witness_SyncCommandsComplete_1b : ∃ (s b : State) (m : Mbx) (c first count kind home : Nat) (init : W64) (expected : Nat),
    b = Claims.begun s m ∧ Claims.begins s m { op := 0x0501 } c ∧ 0 < count ∧ first + count ≤ 4096 ∧ homeForm home = true ∧
    (home.testBit 15 = false → count ≤ 32) ∧ ((List.range count).any (fun i => ((b.ctx c).sync.get (first + i)).isSome) = false) ∧
    ((kind = 0 ∧ expected = 0) ∨ (kind = 1 ∧ first % 2 = 0 ∧ count % 2 = 0 ∧ 1 ≤ expected ∧ expected ≤ 65535)) ∧ b.homeLost home = false ∧
    b.homeReady home = true ∧ b.homeUsed home + count ≤ homeCapacity home :=
  ⟨upC, _, own 0, 0, 0, 32, 0, 0x0000, 5, 0,
  rfl, ⟨by decide +kernel, by decide +kernel, rfl, by decide +kernel⟩, by decide +kernel, by decide +kernel, by decide +kernel,
    by decide +kernel, by decide +kernel, by decide +kernel, by decide +kernel, by decide +kernel, by decide +kernel⟩
theorem witness_SyncCommandsComplete_2 : ∃ (s b : State) (m : Mbx) (c first count : Nat) (ids : List Nat),
    b = Claims.begun s m ∧ Claims.begins s m { op := 0x0502 } c ∧ ids = (List.range count).map (· + first) ∧ 0 < count ∧
    first + count ≤ 4096 ∧ (∀ i ∈ ids, ∃ v, (b.ctx c).sync.get i = some v ∧ (v.kind = 1 → i + 1 ∈ ids) ∧ (v.kind = 2 → i - 1 ∈ ids)) ∧
    (∀ i ∈ ids, b.busyIds c i = true → (b.vsync c i).any (fun v => b.counterLost v) = true) :=
  ⟨upC { sync := [(4095, counter)] }, _, own 0, 0, 4095, 1, [4095],
  rfl, ⟨by decide +kernel, by decide +kernel, rfl, by decide +kernel⟩, by decide +kernel, by decide +kernel, by decide +kernel,
    (by intro i hi; simp only [List.mem_singleton] at hi; subst hi; exact ⟨counter, by decide +kernel⟩), by decide +kernel⟩
theorem witness_SyncCommandsComplete_3 : ∃ (s b : State) (m : Mbx) (c id : Nat) (v : VSync),
    b = Claims.begun s m ∧ Claims.begins s m { op := 0x0503 } c ∧ b.vsync c id = some v ∧ b.counterLost v = false :=
  ⟨upC { sync := [(4095, counter)] }, _, own 0, 0, 4095, _,
  rfl, ⟨by decide +kernel, by decide +kernel, rfl, by decide +kernel⟩, rfl, by decide +kernel⟩
theorem witness_SyncCommandsComplete_4 : ∃ (s b : State) (m : Mbx) (c id op : Nat) (value : W64) (v : VSync),
    b = Claims.begun s m ∧ Claims.begins s m { op := 0x0504 } c ∧ b.vsync c id = some v ∧ op ≤ 1 ∧ v.kind = 0 ∧ b.counterLost v = false :=
  ⟨upC { sync := [(4095, counter)] }, _, own 0, 0, 4095, 1, 9, _,
  rfl, ⟨by decide +kernel, by decide +kernel, rfl, by decide +kernel⟩, rfl, by decide +kernel, by decide +kernel, by decide +kernel⟩
theorem witness_WatchesComplete_1 : ∃ (s b : State) (m : Mbx) (c id cond : Nat) (value : W64) (deadline : Nat) (v : VSync),
    b = Claims.begun s m ∧ Claims.begins s m { op := 0x0505 } c ∧ b.vsync c id = some v ∧ cond < 7 ∧ deadline < 2 ^ 40 ∧
    b.counterLost v = false ∧ (b.ctx c).watches.length < 64 ∧ b.watchCount < 1024 :=
  ⟨upC { sync := [(1, counter)] }, _, own 0, 0, 1, 6, 9, 2 ^ 40 - 1, _,
  rfl, ⟨by decide +kernel, by decide +kernel, rfl, by decide +kernel⟩, rfl, by decide +kernel, by decide +kernel, by decide +kernel,
    by decide +kernel, by decide +kernel⟩
theorem witness_WatchesComplete_2 : ∃ (s b : State) (c tag : Nat) (w : Watch),
    b = Claims.fresh s ∧
    ((b.ctx c).watches.find? (fun w => w.owed.tag == tag && w.deadline != 0 && decide (w.start + w.deadline ≤ b.time.now)) = some w) :=
  ⟨upC { watches := [⟨owedTo, 1, 0, 9, 0, 100⟩] }, _, 0, 7, _,
  rfl, rfl⟩
theorem witness_WatchesComplete_3 : ∃ (s b : State) (m : Mbx) (c tag : Nat) (w : Watch),
    b = Claims.begun s m ∧ Claims.begins s m { op := 0x0506 } c ∧ ((b.ctx c).watches.find? (fun w => w.owed.tag == tag) = some w) :=
  ⟨upC { watches := [⟨owedTo, 1, 0, 9, 0, 0⟩] }, _, own 0, 0, 7, _,
  rfl, ⟨by decide +kernel, by decide +kernel, rfl, by decide +kernel⟩, rfl⟩
theorem witness_BarrierResetReopens_1 : ∃ (s b : State) (m : Mbx) (c id : Nat) (gen : W64) (v : VSync),
    b = Claims.begun s m ∧ Claims.begins s m { op := 0x0507 } c ∧ b.vsync c id = some v ∧ v.kind = 1 ∧ b.counterLost v = false :=
  ⟨upC { sync := [(2, arrivals), (3, generation)] }, _, own 0, 0, 2, 9, _,
  rfl, ⟨by decide +kernel, by decide +kernel, rfl, by decide +kernel⟩, rfl, by decide +kernel, by decide +kernel⟩
theorem witness_BarriersAndCountersComplete_2 : ∃ (s b : State) (c id : Nat) (set : Bool) (value : W64) (v : VSync),
    b = Claims.fresh s ∧ b.vsync c id = some v ∧ v.kind = 0 ∧ b.counterLost v = false :=
  ⟨upC { sync := [(1, counter)] }, _, 0, 1, false, 3, _,
  rfl, rfl, by decide +kernel, by decide +kernel⟩
theorem witness_FrontCommandsComplete_1 : ∃ (s b : State) (c n : Nat) (cmd : SCmd) (x : Stream) (i : Nat),
    b = Claims.fresh s ∧ i = cmd.imm ∧ Claims.fronts b c n 1 cmd x ∧ bits i 4 60 = 0 :=
  ⟨upC { streams := [(0, stream0)] }, _, 0, 0, scmd 1 (15 + 5 * 2 ^ 64), stream0, _,
  rfl, rfl, by unfold Claims.fronts; decide +kernel, by decide +kernel⟩
theorem witness_FrontCommandsComplete_2 : ∃ (s b : State) (c n : Nat) (cmd : SCmd) (x : Stream) (i : Nat),
    b = Claims.fresh s ∧ i = cmd.imm ∧ Claims.fronts b c n 2 cmd x ∧ bits i 5 3 = 0 ∧ bits i 12 52 = 0 ∧
    (i.testBit 4 = true → i / 2 ^ 64 = 0) :=
  ⟨upC { streams := [(0, stream0)] }, _, 0, 0, scmd 2 (0x310 + 15), stream0, _,
  rfl, rfl, by unfold Claims.fronts; decide +kernel, by decide +kernel, by decide +kernel, by decide +kernel⟩
theorem witness_FrontCommandsComplete_2b : ∃ (s b : State) (c n : Nat) (cmd : SCmd) (x : Stream) (i : Nat),
    b = Claims.fresh s ∧ i = cmd.imm ∧ Claims.fronts b c n 2 cmd x ∧ bits i 5 3 = 0 ∧ bits i 12 52 = 0 ∧
    (i.testBit 4 = true → i / 2 ^ 64 = 0) :=
  ⟨upC { streams := [(0, stream0)] }, _, 0, 0, scmd 2 (15 + (2 ^ 64 - 1) * 2 ^ 64), stream0, _,
  rfl, rfl, by unfold Claims.fronts; decide +kernel, by decide +kernel, by decide +kernel, by decide +kernel⟩
theorem witness_FrontCommandsComplete_3 : ∃ (s b : State) (c n : Nat) (cmd : SCmd) (x : Stream) (i : Nat),
    b = Claims.fresh s ∧ i = cmd.imm ∧ Claims.fronts b c n 3 cmd x ∧ bits i 4 3 < 6 ∧ bits i 9 2 ≠ 3 ∧ i.testBit 11 = false ∧
    bits i 19 45 = 0 ∧ (i.testBit 8 = true → i / 2 ^ 64 = 0) :=
  ⟨upC { streams := [(0, stream0)] }, _, 0, 0, scmd 3 (0x50 + 0x400 + 7 * 2 ^ 16), stream0, _,
  rfl, rfl, by unfold Claims.fronts; decide +kernel, by decide +kernel, by decide +kernel, by decide +kernel, by decide +kernel,
    by decide +kernel⟩
theorem witness_FrontCommandsComplete_4 : ∃ (s b : State) (c n : Nat) (cmd : SCmd) (x : Stream) (i count : Nat),
    b = Claims.fresh s ∧ i = cmd.imm ∧ Claims.fronts b c n 4 cmd x ∧ bits i 6 2 = 0 ∧ bits i 12 4 = 0 ∧ i / 2 ^ 64 = 0 ∧
    (i.testBit 4 = true → bits i 16 32 = 0) ∧ bits i 48 16 ≠ 0 ∧ (count = (if i.testBit 4 then (x.cnt (i % 16)).toNat else bits i 16 32)) ∧
    count < 2 ^ 32 ∧ (0 < count → x.loops.length < 4) :=
  ⟨upC { streams := [(0, stream0)] }, _, 0, 0, scmd 4 (2 ^ 16 + 65535 * 2 ^ 48), stream0, _, 1,
  rfl, rfl, by unfold Claims.fronts; decide +kernel, by decide +kernel, by decide +kernel, by decide +kernel, by decide +kernel,
    by decide +kernel, rfl, by decide +kernel, by decide +kernel⟩
theorem witness_FrontCommandsComplete_5 : ∃ (s b : State) (c n : Nat) (cmd : SCmd) (x : Stream) (l : Loop) (rest : List Loop),
    b = Claims.fresh s ∧ Claims.fronts b c n 5 cmd x ∧ plainEnd cmd = true ∧ x.loops = l :: rest ∧ x.ix = l.start + l.len + 1 :=
  ⟨upC { streams := [(0, { stream0 with ix := 3, loops := [loop0] })] }, _, 0, 0, { scmd 5 0 with complete := false, tag := 0 }, { stream0 with ix := 3, loops := [loop0] }, loop0, [],
  rfl, by unfold Claims.fronts; decide +kernel, by decide +kernel, by decide +kernel, by decide +kernel⟩
theorem witness_FrontCommandsComplete_6 : ∃ (s b : State) (c n : Nat) (cmd : SCmd) (x : Stream),
    b = Claims.fresh s ∧ Claims.fronts b c n 0x010 cmd x ∧ cmd.wait = true ∧ cmd.imm = 0 :=
  ⟨upC { streams := [(0, stream0)], sync := [(1, counter)] }, _, 0, 0, { scmd 0x010 0 with wait := true, waitId := 1, waitCond := 0, waitValue := 5 }, stream0,
  rfl, by unfold Claims.fronts; decide +kernel, by decide +kernel, by decide +kernel⟩
theorem witness_FrontCommandsComplete_7 : ∃ (s b : State) (c n : Nat) (cmd : SCmd) (x : Stream),
    b = Claims.fresh s ∧ b.stream c n = some x ∧ b.frontOpen c x = true ∧ x.skip = 0 ∧ cmd.op = 0x010 ∧
    b.encodingFault c x.wing true cmd = none ∧ (cmd.pred = true → x.flgs.testBit cmd.predIdx ≠ cmd.predSense) ∧
    b.lostSpec c x.wing cmd = false ∧ x.wait = none ∧ cmd.wait = true ∧
    condHolds cmd.waitCond (b.syncValue c cmd.waitId) cmd.waitValue = false :=
  ⟨upC { streams := [(0, stream0)], sync := [(1, counter)] }, _, 0, 0, { scmd 0x010 0 with wait := true, waitId := 1, waitCond := 0, waitValue := 6 }, stream0,
  rfl, by decide +kernel, by decide +kernel, by decide +kernel, by decide +kernel, by decide +kernel, by decide +kernel, by decide +kernel,
    by decide +kernel, by decide +kernel, by decide +kernel⟩
theorem witness_FrontCommandsComplete_8 : ∃ (s b : State) (c n : Nat) (cmd : SCmd) (x : Stream),
    b = Claims.fresh s ∧ Claims.fronts b c n 0x011 cmd x ∧ cmd.signal = true ∧ bits cmd.imm 2 62 = 0 ∧ cmd.imm % 4 = 0 ∧
    cmd.imm / 2 ^ 64 = 0 :=
  ⟨upC { streams := [(0, stream0)], sync := [(1, counter)] }, _, 0, 0, { scmd 0x011 0 with signal := true, sigId := 1, delta := 3 }, stream0,
  rfl, by unfold Claims.fronts; decide +kernel, by decide +kernel, by decide +kernel, by decide +kernel, by decide +kernel⟩
theorem witness_FrontCommandsComplete_9 : ∃ (s b : State) (c n : Nat) (cmd : SCmd) (x : Stream),
    b = Claims.fresh s ∧ Claims.fronts b c n 0x011 cmd x ∧ cmd.signal = true ∧ bits cmd.imm 2 62 = 0 ∧ cmd.imm % 4 = 1 ∧ cmd.delta = 0 :=
  ⟨upC { streams := [(0, stream0)], sync := [(1, counter)] }, _, 0, 0, { scmd 0x011 (1 + 9 * 2 ^ 64) with signal := true, sigId := 1 }, stream0,
  rfl, by unfold Claims.fronts; decide +kernel, by decide +kernel, by decide +kernel, by decide +kernel, by decide +kernel⟩
theorem witness_BarriersAndCountersComplete_1 : ∃ (s b t : State) (c n k id : Nat) (e e1 : Entry) (v : VSync) (st : Status),
    b = Claims.fresh s ∧ b.entry c n k = some e ∧ e.phase = .issued ∧ e.cmd.op = 0x012 ∧ e.fate = none ∧ id = bits e.cmd.imm 0 12 ∧
    b.vsync c id = some v ∧ b.counterLost v = false ∧
    (
      (t, st) = (
      let d := (bits e.cmd.imm 16 32 + 2 ^ 32 - v.value.toNat % 2 ^ 32) % 2 ^ 32
      if v.broken then (b, .barrierOverrun)
      else if d = 0 then ((((b.setVsync c id { v with a := v.a + 1 }).advance c id 2).wake c id), .ok)
      else if d = 1 ∧ v.h + 1 ≤ v.e then (((b.setVsync c id { v with h := v.h + 1 }).wake c id), .ok)
      else (b.breakBarrier c id v, .barrierOverrun))) ∧
    t.entry c n k = some e1 :=
  ⟨arriving, _, ((((Claims.fresh arriving).setVsync 0 2 { arrivals with a := 1 }).wake 0 2).advance 0 2 2), 0, 0, 0, 2, entryOf (scmd 0x012 2), entryOf (scmd 0x012 2), arrivals, .ok,
  rfl, by decide +kernel, by decide +kernel, by decide +kernel, by decide +kernel, by decide +kernel, by decide +kernel, by decide +kernel,
    (by decide +kernel), by decide +kernel⟩
theorem witness_BarriersAndCountersComplete_1b : ∃ (s b t : State) (c n k id : Nat) (e e1 : Entry) (v : VSync) (st : Status),
    b = Claims.fresh s ∧ b.entry c n k = some e ∧ e.phase = .issued ∧ e.cmd.op = 0x012 ∧ e.fate = none ∧ id = bits e.cmd.imm 0 12 ∧
    b.vsync c id = some v ∧ b.counterLost v = false ∧
    (
      (t, st) = (
      let d := (bits e.cmd.imm 16 32 + 2 ^ 32 - v.value.toNat % 2 ^ 32) % 2 ^ 32
      if v.broken then (b, .barrierOverrun)
      else if d = 0 then ((((b.setVsync c id { v with a := v.a + 1 }).advance c id 2).wake c id), .ok)
      else if d = 1 ∧ v.h + 1 ≤ v.e then (((b.setVsync c id { v with h := v.h + 1 }).wake c id), .ok)
      else (b.breakBarrier c id v, .barrierOverrun))) ∧
    t.entry c n k = some e1 :=
  ⟨overrun, _, ((Claims.fresh overrun).breakBarrier 0 2 { arrivals with h := 2 }), 0, 0, 0, 2, entryOf (scmd 0x012 (2 + 2 ^ 16)), entryOf (scmd 0x012 (2 + 2 ^ 16)), { arrivals with h := 2 }, .barrierOverrun,
  rfl, by decide +kernel, by decide +kernel, by decide +kernel, by decide +kernel, by decide +kernel, by decide +kernel, by decide +kernel,
    (by decide +kernel), by decide +kernel⟩
theorem witness_StreamFrontCompletes_3 : ∃ (s b : State) (c n : Nat) (x : Stream) (w : FrontWait),
    b = Claims.fresh s ∧ b.stream c n = some x ∧ x.wait = some w ∧ w.satisfied = true :=
  ⟨upC { streams := [(0, { stream0 with wait := some ⟨1, 0, 5, true, false⟩ })] }, _, 0, 0, { stream0 with wait := some ⟨1, 0, 5, true, false⟩ }, _,
  rfl, by decide +kernel, rfl, by decide +kernel⟩
theorem witness_ChannelCommandsAndStops_1 : ∃ (s b : State) (m : Mbx) (c wing kind stop vector port window status i : Nat),
    b = Claims.begun s m ∧ Claims.begins s m { op := 0x0601 } c ∧ wing < 4 ∧ kind ≤ 1 ∧ stop ≤ 1 ∧ vector ≤ 63 ∧
    ((if portIx m.port = 0 then 4 else 1) ≤ vector) ∧ status % 64 = 0 ∧ b.populated status = true ∧ b.secretHit status 64 = false ∧
    window ≤ 255 ∧ (port = 0xFF ∨ (kind = 1 ∧ port / 2 = wing ∧ (b.port port).present = true ∧ (b.port port).lost = false)) ∧
    (b.wing wing).ready = true ∧ (b.stk (dpaStack status)).ready = true ∧
    ((if kind = 1 then List.range 16 else (List.range 64).map (· + 16)).find? (fun i => (b.chan wing i).isNone) = some i) ∧
    (((b.wing wing).chans.filter (fun h => h.2.ctx == c)).length < 16) ∧
    (kind = 1 → ((b.wing wing).chans.filter (fun h => h.2.ctx == c)).countP (fun h => h.2.bulk) < 8) :=
  ⟨upC, _, own 0, 0, 3, 1, 1, 4, 7, 255, 0x40, 0,
  rfl, ⟨by decide +kernel, by decide +kernel, rfl, by decide +kernel⟩, by decide +kernel, by decide +kernel, by decide +kernel,
    by decide +kernel, by decide +kernel, by decide +kernel, by decide +kernel, by decide +kernel, by decide +kernel, by decide +kernel,
    by decide +kernel, by decide +kernel, by decide +kernel, by decide +kernel, by decide +kernel⟩
theorem witness_ChannelCommandsAndStops_1b : ∃ (s b : State) (m : Mbx) (c wing kind stop vector port window status i : Nat),
    b = Claims.begun s m ∧ Claims.begins s m { op := 0x0601 } c ∧ wing < 4 ∧ kind ≤ 1 ∧ stop ≤ 1 ∧ vector ≤ 63 ∧
    ((if portIx m.port = 0 then 4 else 1) ≤ vector) ∧ status % 64 = 0 ∧ b.populated status = true ∧ b.secretHit status 64 = false ∧
    window ≤ 255 ∧ (port = 0xFF ∨ (kind = 1 ∧ port / 2 = wing ∧ (b.port port).present = true ∧ (b.port port).lost = false)) ∧
    (b.wing wing).ready = true ∧ (b.stk (dpaStack status)).ready = true ∧
    ((if kind = 1 then List.range 16 else (List.range 64).map (· + 16)).find? (fun i => (b.chan wing i).isNone) = some i) ∧
    (((b.wing wing).chans.filter (fun h => h.2.ctx == c)).length < 16) ∧
    (kind = 1 → ((b.wing wing).chans.filter (fun h => h.2.ctx == c)).countP (fun h => h.2.bulk) < 8) :=
  ⟨upC, _, own 0, 0, 0, 0, 0, 63, 255, 0, 0, 16,
  rfl, ⟨by decide +kernel, by decide +kernel, rfl, by decide +kernel⟩, by decide +kernel, by decide +kernel, by decide +kernel,
    by decide +kernel, by decide +kernel, by decide +kernel, by decide +kernel, by decide +kernel, by decide +kernel, by decide +kernel,
    by decide +kernel, by decide +kernel, by decide +kernel, by decide +kernel, by decide +kernel⟩
theorem witness_ChannelCommandsAndStops_2 : ∃ (s b : State) (m : Mbx) (c wing ch : Nat) (h : Channel),
    b = Claims.begun s m ∧ Claims.begins s m { op := 0x0602 } c ∧ b.ownChan c wing ch = some h ∧ h.state = .idle :=
  ⟨withChan idleChan upC, _, own 0, 0, 0, 0, _,
  rfl, ⟨by decide +kernel, by decide +kernel, rfl, by decide +kernel⟩, rfl, by decide +kernel⟩
theorem witness_ChannelCommandsAndStops_3 : ∃ (s b : State) (m : Mbx) (c wing ch : Nat) (h : Channel),
    b = Claims.begun s m ∧ Claims.begins s m { op := 0x0603 } c ∧ b.ownChan c wing ch = some h :=
  ⟨withChan { idleChan with state := .active, chain := some chain0 } upC, _, own 0, 0, 0, 0, _,
  rfl, ⟨by decide +kernel, by decide +kernel, rfl, by decide +kernel⟩, rfl⟩
theorem witness_ChannelCommandsAndStops_4_1 : ∃ (s b : State) (w ch : Nat) (h : Channel) (x : Chain),
    b = Claims.fresh s ∧ b.chan w ch = some h ∧ h.chain = some x ∧ h.state = .stopping ∧ h.byDesc = false :=
  ⟨withChan { idleChan with state := .stopping, chain := some chain0 } upC, _, 0, 0, _, _,
  rfl, rfl, rfl, by decide +kernel, by decide +kernel⟩
theorem witness_ChannelCommandsAndStops_4_2 : ∃ (s b : State) (w ch : Nat) (h : Channel) (x : Chain), ∃ u,
    b = Claims.fresh s ∧ b.chan w ch = some h ∧ h.chain = some x ∧ h.state = .stopping ∧ h.byDesc = true ∧
    (x.flight = none ∨ b.canFinish w ch = true) ∧ u = b.finishFlight w ch .pass :=
  ⟨withChan { idleChan with state := .stopping, byDesc := true, chain := some chain0 } upC, _, 0, 0, { idleChan with state := .stopping, byDesc := true, chain := some chain0 }, chain0, _,
  rfl, by decide +kernel, by decide +kernel, by decide +kernel, by decide +kernel, by decide +kernel, rfl⟩
theorem witness_ChannelCommandsAndStops_4_3 : ∃ (s b : State) (w ch : Nat) (h : Channel) (x : Chain), ∃ f,
    b = Claims.fresh s ∧ b.chan w ch = some h ∧ h.chain = some x ∧ h.state = .stopping ∧ h.byDesc = true ∧ x.flight = some f ∧
    b.canFinish w ch = false ∧ x.done = 0 ∧ (b.slots.all (fun p => p.2.granted.all (fun r => r.who != chanWho h.ctx w ch)) = true) :=
  ⟨withChan { idleChan with state := .stopping, byDesc := true, chain := some waitingChain } { upC with slots := [(512, { full := true, secret := true })] }, _, 0, 0, _, waitingChain, (0x1000, descBytes),
  rfl, rfl, by decide +kernel, by decide +kernel, by decide +kernel, by decide +kernel, by decide +kernel, by decide +kernel,
    by decide +kernel⟩
theorem witness_ChannelCommandsAndStops_4_4 : ∃ (s b : State) (w ch : Nat) (h : Channel) (x : Chain),
    b = Claims.fresh s ∧ b.chan w ch = some h ∧ h.chain = some x ∧ h.state = .stopping ∧ h.byDesc = true :=
  ⟨withChan { idleChan with state := .stopping, byDesc := true, chain := some chain0 } upC, _, 0, 0, _, _,
  rfl, rfl, rfl, by decide +kernel, by decide +kernel⟩
theorem witness_ChainsRun_1 : ∃ (s b : State) (c n k ch : Nat) (x : Stream) (e : Entry) (o : Option Status) (h : Channel),
    b = Claims.fresh s ∧ b.issueReady c n k 0x502 = some (x, e, o) ∧ b.chkGo c x e = .ok (ch, h) ∧
    (h.port.map b.portHeld).getD false = false ∧ h.state = .idle ∧ (h.bulk = true ∨ b.dmBays x.wing c ≠ []) ∧
    b.nextWaiting c h.waiting = none ∧ b.chan x.wing ch = some h :=
  ⟨withChan idleChan (upE (entryOf (scmd 0x502 0x1000) .waiting)), _, 0, 0, 0, 0, { stream0 with window := [(0, entryOf (scmd 0x502 0x1000) .waiting)], next := 1 }, entryOf (scmd 0x502 0x1000) .waiting, none, idleChan,
  rfl, by decide +kernel, by decide +kernel, by decide +kernel, by decide +kernel, by decide +kernel, by decide +kernel, by decide +kernel⟩
theorem witness_ChainsRun_2 : ∃ (s a b t : State) (w ch at_ : Nat) (data chk : Check) (g h : Channel) (x : Chain) (d : Desc) (bs : List Byte),
    a = Claims.fresh s ∧ a.chan w ch = some g ∧ g.state = .active ∧ b = a.finishFlight w ch data ∧ b.chan w ch = some h ∧ h.chain = some x ∧
    x.desc = some at_ ∧ x.flight = none ∧ x.fault = none ∧ ((h.port.map (fun p => (b.port p).st != .active)).getD false = false) ∧
    t = b.checked w at_ chk ∧ t.descFault at_ chk h.port.isSome = none ∧ bs = t.bytes at_ 64 ∧ d = parseDesc bs ∧
    (t.secretSource h.ctx d && !t.secretDest h.ctx d h.port.isSome) = false :=
  ⟨holding 0x1000 descBytes (withChan { idleChan with state := .active, chain := some chain0 } upC), _, _, _, 0, 0, _, .pass, .pass, { idleChan with state := .active, chain := some chain0 }, { idleChan with state := .active, chain := some chain0 }, chain0, _, _,
  rfl, by decide +kernel, by decide +kernel, rfl, by decide +kernel, by decide +kernel, rfl, by decide +kernel, by decide +kernel,
    by decide +kernel, rfl, by decide +kernel, rfl, rfl, by decide +kernel⟩
theorem witness_ChainsRun_3 : ∃ (s b t : State) (w ch : Nat) (data : Check) (h : Channel) (x : Chain),
    b = (Claims.fresh s).finishFlight w ch data ∧ b.chan w ch = some h ∧ h.chain = some x ∧ x.desc = none ∧ x.flight = none ∧
    x.fault = none ∧ t = b.chainSignal w ch ∧ t.chainDone w ch = true :=
  ⟨withChan { idleChan with state := .active, chain := some { chain0 with desc := none } } (upE (entryOf (scmd 0x502 0x1000))), _, _, 0, 0, .pass, { idleChan with state := .active, chain := some { chain0 with desc := none } }, { chain0 with desc := none },
  rfl, by decide +kernel, by decide +kernel, by decide +kernel, by decide +kernel, by decide +kernel, rfl, by decide +kernel⟩
theorem witness_ChainsRun_4 : ∃ (s b : State) (w ch : Nat) (data : Check) (h : Channel) (x : Chain) (st : Status),
    b = (Claims.fresh s).finishFlight w ch data ∧ b.chan w ch = some h ∧ h.chain = some x ∧ x.fault = some st :=
  ⟨withChan { idleChan with state := .active, chain := some { chain0 with fault := some .addressFault } } (upE (entryOf (scmd 0x502 0x1000))), _, 0, 0, .pass, { idleChan with state := .active, chain := some { chain0 with fault := some .addressFault } }, { chain0 with fault := some .addressFault }, .addressFault,
  rfl, by decide +kernel, by decide +kernel, by decide +kernel⟩
theorem witness_SlotAccesses_1 : ∃ (s b : State) (k : Nat) (r : SlotReq),
    b = Claims.fresh s ∧ (b.slot k).waiting.find? (b.slot k).grants = some r :=
  ⟨{ up with slots := [(95, { waiting := [⟨1, 15, false, (0, 0, 0)⟩] })] }, _, 95, _,
  rfl, rfl⟩
theorem witness_SlotAccesses_2 : ∃ (s b t : State) (slot req c n k : Nat) (r : SlotReq) (x : Stream) (e : Entry),
    b = Claims.fresh s ∧ (b.slot slot).granted[req]? = some r ∧ r.who.2.1 = 0 ∧ c = r.who.1 ∧ n = r.who.2.2 / 2 ^ 40 ∧
    k = r.who.2.2 % 2 ^ 40 ∧ b.stream c n = some x ∧ b.entry c n k = some e ∧ (bayOp e.cmd.op = true ∨ e.cmd.op = 0x111) ∧
    b.mayRun c n k e = true ∧ b.runEntry c n k x.wing e = .ok t :=
  ⟨{ upE { entryOf (scmd 0x403 0) with ran := true } with slots := [(95, { full := true, n := 1, granted := [⟨3, 0, false, (0, 0, 0)⟩] })] }, _, _, 95, 0, 0, 0, 0, _, _, _,
  rfl, rfl, by decide +kernel, by decide +kernel, by decide +kernel, by decide +kernel, rfl, rfl, by decide +kernel, by decide +kernel,
    rfl⟩
theorem witness_StackRequestsAndReshelving_1 : ∃ (s b : State) (r : Option MemReq) (stack pc failed : Nat) (q q1 : List (MemReq × Nat)) (e : MemReq × Nat),
    b = Claims.fresh s ∧ q = (b.stk stack).queues.getD pc [] ∧ (b.stk stack).lost = false ∧ (b.stk stack).step < 5 ∧
    (b.stk stack).selfRefresh = false ∧
    (∀ z ∈ r, q.length < 32 ∧ dpaStack z.addr = stack ∧ dpaPc z.addr = pc ∧ 0 < z.len ∧ z.len ≤ 256 ∧ z.addr % 256 + z.len ≤ 256 ∧ z.addr < 2 ^ 40 ∧ b.reachAt z.addr = none ∧ (b.stk stack).drained = false) ∧
    (q1 = q ++ r.toList.map (fun z => (z, b.time.now))) ∧ nextEntry (b.stk stack) b.time.now q1 = some e :=
  ⟨up, _, some request0, 0, 0, 72, _, _, (request0, 1000000),
  rfl, rfl, by decide +kernel, by decide +kernel, by decide +kernel, (by intro z hz; cases hz; decide +kernel), rfl, by decide +kernel⟩
theorem witness_StackRequestsAndReshelving_1b : ∃ (s b : State) (r : Option MemReq) (stack pc failed : Nat) (q q1 : List (MemReq × Nat)) (e : MemReq × Nat),
    b = Claims.fresh s ∧ q = (b.stk stack).queues.getD pc [] ∧ (b.stk stack).lost = false ∧ (b.stk stack).step < 5 ∧
    (b.stk stack).selfRefresh = false ∧
    (∀ z ∈ r, q.length < 32 ∧ dpaStack z.addr = stack ∧ dpaPc z.addr = pc ∧ 0 < z.len ∧ z.len ≤ 256 ∧ z.addr % 256 + z.len ≤ 256 ∧ z.addr < 2 ^ 40 ∧ b.reachAt z.addr = none ∧ (b.stk stack).drained = false) ∧
    (q1 = q ++ r.toList.map (fun z => (z, b.time.now))) ∧ nextEntry (b.stk stack) b.time.now q1 = some e :=
  ⟨up.setStk 0 { up.stk 0 with queues := [(0, [(request0, 0)])] }, _, none, 0, 0, 0, _, _, (request0, 0),
  rfl, rfl, by decide +kernel, by decide +kernel, by decide +kernel, (by intro z hz; cases hz), rfl, by decide +kernel⟩
theorem witness_StackRequestsAndReshelving_2 : ∃ (s b : State) (stack pc bank row block failed a : Nat),
    b = Claims.fresh s ∧ a = rowDpa stack pc bank row (block / 4 % 4) + block % 4 * 64 ∧ (b.stk stack).ready = true ∧ pc < 64 ∧ bank < 16 ∧
    stack < 16 ∧ a % 2 ^ 36 < b.grade.stackBytes :=
  ⟨up, _, 15, 63, 15, 49151, 15, 1, rowDpa 15 63 15 49151 3 + 3 * 64,
  rfl, by decide +kernel, by decide +kernel, by decide +kernel, by decide +kernel, by decide +kernel, by decide +kernel⟩
theorem witness_StackRequestsAndReshelving_3 : ∃ (s a b t : State) (stack pc bank row sp key count : Nat) (reads : List (Nat × Nat)),
    a = Claims.fresh s ∧ key = rowKey pc bank row ∧ (a.stk stack).failing.contains key = true ∧
    (b = reads.foldl (fun s q => (s.checkBlock (rowDpa stack pc bank row (q.1 / 4 % 4) + q.1 % 4 * 64) q.2).1) a) ∧
    (b.stk stack).shelves.get key = none ∧
    (t = b.setStk stack { b.stk stack with failing := (b.stk stack).failing.filter (· != key), tallies := (b.stk stack).tallies.put pc (((b.stk stack).tallies.getD pc []).filter (fun t => t.row != key)) }) ∧
    t.pickSpare stack pc = some sp ∧ ((b.stk stack).entriesOf pc).length < 256 ∧ count = (b.stk stack).rowFails.getD key 0 + 1 :=
  ⟨withStk (fun k => { k with failing := [rowKey 63 15 7] }), _, _, _, 2, 63, 15, 7, 0, _, 1, [(3, 0)],
  rfl, rfl, by decide +kernel, rfl, by decide +kernel, rfl, by decide +kernel, by decide +kernel, rfl⟩
theorem witness_StackRequestsAndReshelving_4 : ∃ (s b : State) (stack pc bank row : Nat) (e : Shelf),
    b = Claims.fresh s ∧ (b.stk stack).shelves.get (rowKey pc bank row) = some e :=
  ⟨withStk (fun k => { k with shelves := [(rowKey 63 15 7, { spare := 3, count := 1, hard := false, recorded := false })] }), _, 2, 63, 15, 7, _,
  rfl, rfl⟩
theorem witness_StackThermalSteps_1_1 : ∃ (s b u : State) (stack new : Nat) (t : Int),
    b = Claims.fresh s ∧ stack < 16 ∧ b.power.st = .run ∧ (b.stk stack).lost = false ∧ new = nextStep (b.stk stack).step t ∧
    u = b.setStk stack { b.stk stack with temp := t, step := new } ∧ new = (b.stk stack).step :=
  ⟨up, _, _, 15, 0, 84,
  rfl, by decide +kernel, by decide +kernel, by decide +kernel, by decide +kernel, rfl, rfl⟩
theorem witness_StackThermalSteps_1_2 : ∃ (s b u : State) (stack new : Nat) (t : Int),
    b = Claims.fresh s ∧ stack < 16 ∧ b.power.st = .run ∧ (b.stk stack).lost = false ∧ new = nextStep (b.stk stack).step t ∧
    u = b.setStk stack { b.stk stack with temp := t, step := new } ∧ new ≠ (b.stk stack).step ∧ new < 4 :=
  ⟨up, _, _, 15, 1, 86,
  rfl, by decide +kernel, by decide +kernel, by decide +kernel, by decide +kernel, rfl, by decide +kernel, by decide +kernel⟩
theorem witness_StackThermalSteps_1_3 : ∃ (s b u : State) (stack new : Nat) (t : Int), ∃ v,
    b = Claims.fresh s ∧ stack < 16 ∧ b.power.st = .run ∧ (b.stk stack).lost = false ∧ new = nextStep (b.stk stack).step t ∧
    u = b.setStk stack { b.stk stack with temp := t, step := new } ∧ new ≠ (b.stk stack).step ∧ new = 4 ∧
    v = ((u.stepEvent stack (b.stk stack).step 4).abandonStackTest stack).abandonSnapshot stack :=
  ⟨up, _, _, 15, 4, 106, _,
  rfl, by decide +kernel, by decide +kernel, by decide +kernel, by decide +kernel, rfl, by decide +kernel, by decide +kernel, rfl⟩
theorem witness_StackThermalSteps_1_4 : ∃ (s b u : State) (stack new : Nat) (t : Int), ∃ v d,
    b = Claims.fresh s ∧ stack < 16 ∧ b.power.st = .run ∧ (b.stk stack).lost = false ∧ new = nextStep (b.stk stack).step t ∧
    u = b.setStk stack { b.stk stack with temp := t, step := new } ∧ new ≠ (b.stk stack).step ∧ new = 5 ∧
    v = (((u.stepEvent stack (b.stk stack).step 5).abandonStackTest stack).abandonSnapshot stack).loseStack stack 2 ∧
    d = stack / 4 * 18 + 12 + stack % 4 :=
  ⟨up, _, _, 15, 5, 111, _, _,
  rfl, by decide +kernel, by decide +kernel, by decide +kernel, by decide +kernel, rfl, by decide +kernel, by decide +kernel, rfl, rfl⟩
theorem witness_StackThermalSteps_2 : ∃ (s b u : State) (stack : Nat),
    b = Claims.fresh s ∧ (b.stk stack).step = 4 ∧ (b.stk stack).draining = true ∧
    (u = ((b.stk stack).queues.flatMap (fun q => q.2)).foldl (fun s r => s.serve stack 0 r.1) (b.setStk stack { b.stk stack with queues := [] })) :=
  ⟨withStk (fun k => { k with step := 4, draining := true, ready := false }), _, _, 2,
  rfl, by decide +kernel, by decide +kernel, rfl⟩
theorem witness_StackThermalSteps_3 : ∃ (s b : State) (stack : Nat) (t : Int),
    b = Claims.fresh s ∧ (b.stk stack).step = 4 ∧ (b.stk stack).selfRefresh = true ∧ t ≤ 95 :=
  ⟨withStk (fun k => { k with step := 4, selfRefresh := true, ready := false }), _, 2, 95,
  rfl, by decide +kernel, by decide +kernel, by decide +kernel⟩
theorem witness_StackThermalSteps_4 : ∃ (s b u : State) (stack pc n : Nat) (ok : Bool),
    b = Claims.fresh s ∧ (b.stk stack).ready = true ∧ stack < 16 ∧ pc < 64 ∧ (n = (if ok then 0 else (b.stk stack).retrain.getD pc 0 + 1)) ∧
    (u = (b.setStk stack { b.stk stack with retrain := (b.stk stack).retrain.put pc n, trainTemp := if ok then (b.stk stack).temp else (b.stk stack).trainTemp }).stkCount stack 15 1) :=
  ⟨up, _, _, 15, 63, 1, false,
  rfl, by decide +kernel, by decide +kernel, by decide +kernel, rfl, rfl⟩
theorem witness_PortCommandsComplete_1 : ∃ (s b : State) (m : Mbx) (port role timeMode fwd localParty expected : Nat),
    b = Claims.begun s m ∧ Claims.begins s m { op := 0x0801, tenant := false, ctx := .none } 255 ∧ port < 8 ∧ role ≤ 2 ∧ timeMode ≤ 2 ∧
    fwd ≤ 1 ∧ 1 ≤ localParty ∧ localParty < 2 ^ 32 ∧ expected < 2 ^ 32 ∧
    (timeMode = 1 → role ≠ 2 ∧ ∀ q w, b.time.follow = some (q, w) → q = port) ∧ (b.port port).present = true ∧ (b.port port).lost = false ∧
    (b.port port).windows = [] ∧ (b.wings.any (fun w => w.2.chans.any (fun h => h.2.port == some port)) = false) :=
  ⟨up, _, own 255, 7, 1, 2, 1, 2 ^ 32 - 1, 0,
  rfl, ⟨by decide +kernel, by decide +kernel, rfl, by decide +kernel⟩, by decide +kernel, by decide +kernel, by decide +kernel,
    by decide +kernel, by decide +kernel, by decide +kernel, by decide +kernel, (by intro h; cases h), by decide +kernel,
    by decide +kernel, by decide +kernel, by decide +kernel⟩
theorem witness_PortCommandsComplete_2 : ∃ (s b : State) (m : Mbx) (c port rights mode party base len sigFirst sigCount i : Nat),
    b = Claims.begun s m ∧ Claims.begins s m { op := 0x0802 } c ∧ port < 8 ∧ 1 ≤ rights ∧ rights < 16 ∧ 1 ≤ party ∧ party < 2 ^ 32 ∧
    b.windowRange c base len mode = true ∧ (rights.testBit 3 = true → 1 ≤ sigCount ∧ sigFirst + sigCount ≤ 4096 ∧ (b.port port).role = 1) ∧
    (rights.testBit 3 = false → sigFirst = 0 ∧ sigCount = 0) ∧ (b.port port).present = true ∧ (b.port port).lost = false ∧
    ((b.port port).role = 1 ∨ (b.port port).role = 2) ∧ b.rangeReady base len = true ∧ b.windowsOf c < 64 ∧
    ((List.range 256).find? (fun i => ((b.port port).windows.get i).isNone) = some i) :=
  ⟨withPort port1 upC, _, own 0, 0, 1, 15, 0, 1, 0x10000, 0x10000, 0, 4096, 0,
  rfl, ⟨by decide +kernel, by decide +kernel, rfl, by decide +kernel⟩, by decide +kernel, by decide +kernel, by decide +kernel,
    by decide +kernel, by decide +kernel, by decide +kernel, by decide +kernel, by decide +kernel, by decide +kernel, by decide +kernel,
    by decide +kernel, by decide +kernel, by decide +kernel, by decide +kernel⟩
theorem witness_PortCommandsComplete_3 : ∃ (s b : State) (m : Mbx) (c port window : Nat) (w : Window),
    b = Claims.begun s m ∧ Claims.begins s m { op := 0x0803 } c ∧ port < 8 ∧ (b.port port).windows.get window = some w ∧ w.ctx = c :=
  ⟨withPort { port1 with windows := [(255, window0)] } upC, _, own 0, 0, 1, 255, window0,
  rfl, ⟨by decide +kernel, by decide +kernel, rfl, by decide +kernel⟩, by decide +kernel, by decide +kernel, by decide +kernel⟩
theorem witness_WindowFlitsTakeEffect_1 : ∃ (s b u z v : State) (p : Nat) (f : Flit) (w : Window) (a k : Nat),
    b = (Claims.fresh s).askSlot p f ∧ Claims.flitTurn b p 1 f u ∧ (u.port p).refused.contains (f.window, f.transfer) = false ∧
    u.granted p f 0 = .ok w ∧ u.granuleFault w f.index = none ∧
    (w.rights.testBit 3 = true → (u.port p).tallyRoom f.window f.transfer = true) ∧ a = w.base + 256 * f.index ∧ k = slotKey a ∧
    u.secretGranule a = false ∧ (z, true) = (u.setPort p { u.port p with mask := none }).putReady p f w a ∧
    (v = z.putGranule a (match (u.port p).mask with | some m => m.mask | none => 2 ^ 256 - 1) f.poison f.payload) :=
  ⟨turn (flit 1 [7]), _, _, _, _, 1, flit 1 [7], window0, 0x10000, _,
  rfl, ⟨by decide +kernel, by decide +kernel, by decide +kernel, rfl⟩, by decide +kernel, by decide +kernel, by decide +kernel,
    by decide +kernel, by decide +kernel, rfl, by decide +kernel, rfl, rfl⟩
theorem witness_WindowFlitsTakeEffect_2 : ∃ (s b u : State) (p : Nat) (f : Flit) (w : Window),
    b = Claims.fresh s ∧ Claims.flitTurn b p 2 f u ∧ (u.port p).refused.contains (f.window, f.transfer) = false ∧ u.granted p f 0 = .ok w ∧
    256 * f.index + 256 ≤ w.len :=
  ⟨turn (flit 2 []), _, _, 1, flit 2 [], window0,
  rfl, ⟨by decide +kernel, by decide +kernel, by decide +kernel, rfl⟩, by decide +kernel, by decide +kernel, by decide +kernel⟩
theorem witness_WindowFlitsTakeEffect_3 : ∃ (s b u : State) (p : Nat) (f : Flit) (w : Window) (n : Nat),
    b = Claims.fresh s ∧ Claims.flitTurn b p 3 f u ∧ (u.port p).refused.contains (f.window, f.transfer) = false ∧ u.granted p f 1 = .ok w ∧
    n = fld f.payload 0 2 ∧ 1 ≤ n ∧ n ≤ 256 ∧ 256 * (f.index + n) ≤ w.len ∧
    (((List.range n).map (· + f.index)).any (fun i => (u.reachAt (w.base + 256 * i)).any (fun e => e != .thermalHalt)) = false) :=
  ⟨turn (flit 3 [1, 0]), _, _, 1, flit 3 [1, 0], window0, 1,
  rfl, ⟨by decide +kernel, by decide +kernel, by decide +kernel, rfl⟩, by decide +kernel, by decide +kernel, by decide +kernel,
    by decide +kernel, by decide +kernel, by decide +kernel, by decide +kernel⟩
theorem witness_WindowFlitsTakeEffect_3b : ∃ (s b u : State) (p : Nat) (f : Flit) (w : Window) (n : Nat),
    b = Claims.fresh s ∧ Claims.flitTurn b p 3 f u ∧ (u.port p).refused.contains (f.window, f.transfer) = false ∧ u.granted p f 1 = .ok w ∧
    n = fld f.payload 0 2 ∧ 1 ≤ n ∧ n ≤ 256 ∧ 256 * (f.index + n) ≤ w.len ∧
    (((List.range n).map (· + f.index)).any (fun i => (u.reachAt (w.base + 256 * i)).any (fun e => e != .thermalHalt)) = false) :=
  ⟨turn (flit 3 [0, 1]), _, _, 1, flit 3 [0, 1], window0, 256,
  rfl, ⟨by decide +kernel, by decide +kernel, by decide +kernel, rfl⟩, by decide +kernel, by decide +kernel, by decide +kernel,
    by decide +kernel, by decide +kernel, by decide +kernel, by decide +kernel⟩
theorem witness_WindowFlitsTakeEffect_4 : ∃ (s b u : State) (p : Nat) (f : Flit) (w : Window) (ds : List (List Byte)),
    b = Claims.fresh s ∧ Claims.flitTurn b p 5 f u ∧ (u.port p).refused.contains (f.window, f.transfer) = false ∧ u.granted p f 2 = .ok w ∧
    (ds = (List.range f.ndesc).map (fun i => (f.payload.drop (16 * i)).take 16)) ∧ (ds.any (fun d => decide (3 < fld d 2 1)) = false) :=
  ⟨turn (flit 5 [0xFF, 0xF, 3]), _, _, 1, flit 5 [0xFF, 0xF, 3], window0, _,
  rfl, ⟨by decide +kernel, by decide +kernel, by decide +kernel, rfl⟩, by decide +kernel, by decide +kernel, rfl, by decide +kernel⟩
theorem witness_WindowFlitsTakeEffect_5 : ∃ (s b u : State) (p : Nat) (f : Flit) (w : Window) (a tag : Nat) (g : HeldAcch) (d : List Byte) (rest : List (List Byte)) (k : Block),
    b = Claims.fresh s ∧ Claims.flitTurn b p 6 f u ∧ (u.port p).refused.contains (f.window, f.transfer) = false ∧ u.granted p f 2 = .ok w ∧
    a = w.base + 256 * f.index ∧ 256 * f.index + 256 ≤ w.len ∧ ((u.reachAt a).any (fun e => e != .thermalHalt) = false) ∧
    (u.port p).acch = some g ∧ g.descs = d :: rest ∧ tag = fld d 0 2 ∧
    k = { op := fld d 2 1, modulus := fld d 8 8, residue := fld d 4 2, count := fld d 6 2, poison := f.poison, data := f.payload } ∧
    (w.rights.testBit 3 = true → (u.port p).tallyRoom f.window f.transfer = true) ∧
    u.arrives w.ctx tag { port := p, window := f.window, transfer := f.transfer } (u.blockAt tag a) (fld d 3 1) k = .take :=
  ⟨accumTurn, _, _, 1, flit 6 [], window0, 0x10000, 4095, ⟨255, 1, 0, [bucketDesc]⟩, bucketDesc, [], _,
  rfl, ⟨by decide +kernel, by decide +kernel, by decide +kernel, rfl⟩, by decide +kernel, by decide +kernel, by decide +kernel,
    by decide +kernel, by decide +kernel, by decide +kernel, by decide +kernel, by decide +kernel, rfl, by decide +kernel,
    by decide +kernel⟩
theorem witness_WindowFlitsTakeEffect_6 : ∃ (s b u v : State) (p : Nat) (f : Flit) (w : Window),
    b = Claims.fresh s ∧ Claims.flitTurn b p 7 f u ∧ (u.port p).refused.contains (f.window, f.transfer) = false ∧ (u.port p).role ≠ 2 ∧
    u.granted p f 3 = .ok w ∧ (u.port p).tallyRoom f.window f.transfer = true ∧
    (v = ((u.port p).puts.filter (fun x => (x.1, x.2.1) == (f.window, f.transfer))).foldl (fun s x => s.endPut p x.1 x.2.1 x.2.2) u) :=
  ⟨turn (flit 7 (leBytes 4 1)), _, _, _, 1, flit 7 (leBytes 4 1), window0,
  rfl, ⟨by decide +kernel, by decide +kernel, by decide +kernel, rfl⟩, by decide +kernel, by decide +kernel, by decide +kernel,
    by decide +kernel, rfl⟩
theorem witness_OtherFlitsAndTimeExchange_1 : ∃ (s b u : State) (p : Nat) (f : Flit),
    b = Claims.fresh s ∧ Claims.flitTurn b p 4 f u :=
  ⟨turn (flit 4 []), _, _, 1, flit 4 [],
  rfl, ⟨by decide +kernel, by decide +kernel, by decide +kernel, rfl⟩⟩
theorem witness_OtherFlitsAndTimeExchange_2 : ∃ (s b u : State) (p : Nat) (f : Flit),
    b = Claims.fresh s ∧ Claims.flitTurn b p 8 f u :=
  ⟨turn (flit 8 [0x13]), _, _, 1, flit 8 [0x13],
  rfl, ⟨by decide +kernel, by decide +kernel, by decide +kernel, rfl⟩⟩
theorem witness_OtherFlitsAndTimeExchange_3 : ∃ (s b u : State) (p : Nat) (f : Flit),
    b = Claims.fresh s ∧ Claims.flitTurn b p 9 f u ∧ (b.port p).role = 1 ∧ (b.port p).forward = true :=
  ⟨withPort { portRx (flit 9 []) with forward := true }, _, _, 1, flit 9 [],
  rfl, ⟨by decide +kernel, by decide +kernel, by decide +kernel, rfl⟩, by decide +kernel, by decide +kernel⟩
theorem witness_OtherFlitsAndTimeExchange_4 : ∃ (s b u t : State) (p : Nat) (f : Flit) (w : Follow),
    b = Claims.fresh s ∧ Claims.flitTurn b p 0xA f u ∧ (b.port p).role = 1 ∧ (b.port p).timeMode = 1 ∧ (b.port p).timeStopped = false ∧
    t = u.setPort p { u.port p with report := some (fld f.payload 0 2, fld f.payload 8 8) } ∧ t.time.follow = some (p, w) :=
  ⟨following (flit 0xA []), _, _, _, 1, flit 0xA [], {},
  rfl, ⟨by decide +kernel, by decide +kernel, by decide +kernel, rfl⟩, by decide +kernel, by decide +kernel, by decide +kernel, rfl,
    by decide +kernel⟩
theorem witness_OtherFlitsAndTimeExchange_5 : ∃ (s b : State) (p window transfer : Nat) (a : Arrival),
    b = Claims.fresh s ∧ (b.port p).tallyOf window transfer = some a ∧ a.since + 10000000 ≤ b.time.now :=
  ⟨withPort { port1 with tallies := [⟨255, 1, 0, 1, none⟩] } { up with time := { up.time with now := 10000000 } }, _, 1, 255, 1, _,
  rfl, rfl, by decide +kernel⟩
theorem witness_OtherFlitsAndTimeExchange_7 : ∃ (s b : State) (p l : Nat) (m : Marker),
    b = Claims.fresh s ∧ (b.port p).st = .active ∧ (b.port p).timeMode = 2 ∧ (b.port p).timeStopped = false ∧
    ((b.port p).markers.find? (fun m => m.2.logical == 0) = some (l, m)) :=
  ⟨withPort { port1 with timeMode := 2, markers := [(4, ⟨0, 9, 2, 5, false, 7⟩)] }, _, 1, 4, _,
  rfl, by decide +kernel, by decide +kernel, by decide +kernel, rfl⟩
theorem witness_OtherFlitsAndTimeExchange_8 : ∃ (s b : State) (p : Nat) (m : TimeMeas) (w : Follow) (th : Int),
    b = Claims.fresh s ∧ b.time.follow = some (p, w) ∧ (b.port p).st = .active ∧ (b.port p).timeStopped = false ∧ m.valid = true ∧
    th = (m.dIn - m.dOut) / 2 :=
  ⟨following (flit 0xA []), _, 1, { dIn := 5, dOut := 9, valid := true }, {}, -2,
  rfl, by decide +kernel, by decide +kernel, by decide +kernel, by decide +kernel, by decide +kernel⟩
theorem witness_PortTrains_1_1 : ∃ (s b : State) (p : Nat) (t : Train) (x : Port),
    b = Claims.fresh s ∧ x = b.port p ∧ x.present = true ∧ x.lost = false ∧ x.role ≠ 0 ∧ x.st = .detect ∧ 9 ≤ t.rxLanes.length :=
  ⟨withPort { port1 with st := .detect }, _, 1, train0, _,
  rfl, rfl, by decide +kernel, by decide +kernel, by decide +kernel, by decide +kernel, by decide +kernel⟩
theorem witness_PortTrains_1_2 : ∃ (s b : State) (p : Nat) (t : Train) (x : Port),
    b = Claims.fresh s ∧ x = b.port p ∧ x.present = true ∧ x.lost = false ∧ x.role ≠ 0 ∧ x.st = .recover :=
  ⟨withPort { port1 with st := .recover }, _, 1, train0, _,
  rfl, rfl, by decide +kernel, by decide +kernel, by decide +kernel, by decide +kernel⟩
theorem witness_PortTrains_1_3 : ∃ (s b : State) (p : Nat) (t : Train) (x : Port),
    b = Claims.fresh s ∧ x = b.port p ∧ x.present = true ∧ x.lost = false ∧ x.role ≠ 0 ∧ x.st = .equalise :=
  ⟨withPort { port1 with st := .equalise }, _, 1, train0, _,
  rfl, rfl, by decide +kernel, by decide +kernel, by decide +kernel, by decide +kernel⟩
theorem witness_PortTrains_1_4 : ∃ (s b : State) (p : Nat) (t : Train) (x : Port), ∃ tx rx : List Nat,
    b = Claims.fresh s ∧ x = b.port p ∧ x.present = true ∧ x.lost = false ∧ x.role ≠ 0 ∧ x.st = .identify ∧
    (tx = addBlocks [] (t.txLanes.filter (fun l => decide (l < 11)))) ∧ (rx = addBlocks [] (t.rxLanes.filter (fun l => decide (l < 11)))) ∧
    9 ≤ tx.length ∧ 9 ≤ rx.length ∧ (t.partnerRole = 1 ∨ t.partnerRole = 2) ∧ (x.role = 2 → t.partnerRole ≠ 2) ∧
    (x.expected = 0 ∨ t.partnerParty = x.expected) :=
  ⟨withPort { port1 with st := .identify }, _, 1, train0, _, _, _,
  rfl, rfl, by decide +kernel, by decide +kernel, by decide +kernel, by decide +kernel, rfl, rfl, by decide +kernel, by decide +kernel,
    by decide +kernel, by decide +kernel, by decide +kernel⟩
theorem witness_PortTrains_1_5 : ∃ (s b : State) (p : Nat) (t : Train) (x : Port),
    b = Claims.fresh s ∧ x = b.port p ∧ x.present = true ∧ x.lost = false ∧ x.role ≠ 0 ∧ x.st = .frame :=
  ⟨withPort { port1 with st := .frame }, _, 1, train0, _,
  rfl, rfl, by decide +kernel, by decide +kernel, by decide +kernel, by decide +kernel⟩
theorem witness_PortTrains_2 : ∃ (s b : State) (p : Nat),
    b = Claims.fresh s ∧ ((b.port p).st = .equalise ∨ (b.port p).st = .identify ∨ (b.port p).st = .frame ∨ (b.port p).st = .init) :=
  ⟨withPort { port1 with st := .init }, _, 1,
  rfl, by decide +kernel⟩
theorem witness_PortTrains_3 : ∃ (s b : State) (p : Nat),
    b = Claims.fresh s ∧ (b.port p).st = .failed ∧ (b.port p).lost = false ∧ (b.port p).role ≠ 0 ∧ (b.port p).failedAt + 1000000000 ≤ b.time.now :=
  ⟨{ withPort { port1 with st := .failed } with time := { running := true, now := 1000000000 } }, _, 1,
  rfl, by decide +kernel, by decide +kernel, by decide +kernel, by decide +kernel⟩
theorem witness_PortTrains_4 : ∃ (s b c : State) (p : Nat) (r : Bool) (st : PState) (x : Port),
    b = Claims.fresh s ∧ x = b.port p ∧ x.st = .active ∧ (st = (if r then .recover else .failed)) ∧
    (c = x.puts.foldl (fun s u => s.dropAccess (p, 2, u.1 * 2 ^ 16 + u.2.1)) ((({ b with time := b.time.portDown p } : State).setPort p { x with st := st, rx := [], queue := [], sent := [], credits := [], due := [], txSeq := 0, rxSeq := 0, retrying := false, swapping := none, tallies := [], mask := none, acch := none, refused := [], refusedAt := [], puts := [], failedAt := if st = .failed then b.time.now else x.failedAt }).count 4 x.tallies.length)) :=
  ⟨withPort port1, _, _, 1, true, _, _,
  rfl, rfl, by decide +kernel, rfl, rfl⟩
theorem witness_LanesSwap_1_1 : ∃ (s b c : State) (p lane : Nat) (x : Port),
    b = Claims.fresh s ∧ x = b.port p ∧ x.st = .active ∧ x.swapping = none ∧ lane ≠ 255 ∧ lane < x.rxMap.length ∧
    c = b.laneRec p 1 (x.rxMap.getD lane 0) ∧ (x.rxSpare = true ∨ 10 ≤ x.rxMap.length) :=
  ⟨withPort port1, _, _, 1, 9, _,
  rfl, rfl, by decide +kernel, by decide +kernel, by decide +kernel, by decide +kernel, rfl, by decide +kernel⟩
theorem witness_LanesSwap_1_2 : ∃ (s b c : State) (p lane : Nat) (x : Port),
    b = Claims.fresh s ∧ x = b.port p ∧ x.st = .active ∧ x.swapping = none ∧ lane ≠ 255 ∧ lane < x.rxMap.length ∧
    c = b.laneRec p 1 (x.rxMap.getD lane 0) ∧ x.rxSpare = false ∧ x.rxMap.length < 10 :=
  ⟨withPort { port1 with rxMap := List.range 9 }, _, _, 1, 8, _,
  rfl, rfl, by decide +kernel, by decide +kernel, by decide +kernel, by decide +kernel, rfl, by decide +kernel, by decide +kernel⟩
theorem witness_LanesSwap_2_1 : ∃ (s b c : State) (p lane : Nat) (x : Port),
    b = Claims.fresh s ∧ x = b.port p ∧ x.st = .active ∧ lane ≠ 255 ∧ lane < x.txMap.length ∧ c = b.laneRec p 0 (x.txMap.getD lane 0) ∧
    x.txSpare = true :=
  ⟨withPort { port1 with txSpare := true, txSpareLane := 10 }, _, _, 1, 9, _,
  rfl, rfl, by decide +kernel, by decide +kernel, by decide +kernel, rfl, by decide +kernel⟩
theorem witness_LanesSwap_2_2 : ∃ (s b c : State) (p lane : Nat) (x : Port),
    b = Claims.fresh s ∧ x = b.port p ∧ x.st = .active ∧ lane ≠ 255 ∧ lane < x.txMap.length ∧ c = b.laneRec p 0 (x.txMap.getD lane 0) ∧
    x.txSpare = false ∧ x.txMap.length = 10 :=
  ⟨withPort port1, _, _, 1, 9, _,
  rfl, rfl, by decide +kernel, by decide +kernel, by decide +kernel, rfl, by decide +kernel, by decide +kernel⟩
theorem witness_LanesSwap_2_3 : ∃ (s b c : State) (p lane : Nat) (x : Port),
    b = Claims.fresh s ∧ x = b.port p ∧ x.st = .active ∧ lane ≠ 255 ∧ lane < x.txMap.length ∧ c = b.laneRec p 0 (x.txMap.getD lane 0) ∧
    x.txSpare = false ∧ x.txMap.length < 10 :=
  ⟨withPort { port1 with txMap := List.range 9 }, _, _, 1, 8, _,
  rfl, rfl, by decide +kernel, by decide +kernel, by decide +kernel, rfl, by decide +kernel, by decide +kernel⟩
theorem witness_LanesSwap_3_1 : ∃ (s b : State) (p lane phys : Nat) (x : Port),
    b = Claims.fresh s ∧ x = b.port p ∧ x.st = .active ∧ x.swapping = some lane ∧ lane ≠ 255 ∧ phys ≠ 255 :=
  ⟨withPort { port1 with swapping := some 9 }, _, 1, 9, 10, _,
  rfl, rfl, by decide +kernel, by decide +kernel, by decide +kernel, by decide +kernel⟩
theorem witness_LanesSwap_3_2 : ∃ (s b : State) (p lane phys : Nat) (x : Port),
    b = Claims.fresh s ∧ x = b.port p ∧ x.st = .active ∧ x.swapping = some lane ∧ lane ≠ 255 ∧ phys = 255 :=
  ⟨withPort { port1 with swapping := some 9 }, _, 1, 9, 255, _,
  rfl, rfl, by decide +kernel, by decide +kernel, by decide +kernel, by decide +kernel⟩
theorem witness_LanesSwap_4 : ∃ (s b : State) (p lane arrive : Nat) (bytes : List Byte) (x : Port), ∃ m : Marker,
    b = Claims.fresh s ∧ x = b.port p ∧ (x.st = .frame ∨ x.st = .init ∨ x.st = .active) ∧ bytes.length = 272 ∧
    bytes.take 8 = [0x9A, 0x4F, 0xD2, 0x31, 0x6B, 0x0C, 0xE5, 0x78] ∧ fld bytes 268 4 = crc32c (bytes.take 268) ∧ fld bytes 8 1 = lane ∧
    fld bytes 12 4 = x.partner ∧
    m = { logical := fld bytes 9 1, superframe := fld bytes 10 2, party := fld bytes 12 4, depart := fld bytes 16 8, holdover := fld bytes 24 1 % 2 == 1, arrive := arrive } :=
  ⟨withPort port1, _, 1, 3, 77, markerBytes, port1, _,
  rfl, by decide +kernel, by decide +kernel, by decide +kernel, by decide +kernel, (by rw [crc_marker]; decide +kernel), by decide +kernel,
    by decide +kernel, rfl⟩
theorem witness_FlitsAreReceivedInOrder_1_1 : ∃ (s b : State) (p seq : Nat) (x : Port) (again kept : List (Flit × Nat)),
    b = Claims.fresh s ∧ x = b.port p ∧ x.st = .active ∧ (again = x.sent.dropWhile (fun e => e.1.seq != seq)) ∧
    (kept = x.sent.takeWhile (fun e => e.1.seq != seq)) ∧ again ≠ [] ∧ (again.any (fun e => decide (15 ≤ e.2)) = false) :=
  ⟨withPort { port1 with sent := [(flit 7 [], 14)] }, _, 1, 0, _, _, _,
  rfl, rfl, by decide +kernel, rfl, rfl, by decide +kernel, by decide +kernel⟩
theorem witness_FlitsAreReceivedInOrder_1_2 : ∃ (s b : State) (p seq : Nat) (x : Port) (again kept : List (Flit × Nat)),
    b = Claims.fresh s ∧ x = b.port p ∧ x.st = .active ∧ (again = x.sent.dropWhile (fun e => e.1.seq != seq)) ∧
    (kept = x.sent.takeWhile (fun e => e.1.seq != seq)) ∧ again ≠ [] ∧ (again.any (fun e => decide (15 ≤ e.2)) = true) :=
  ⟨withPort { port1 with sent := [(flit 7 [], 15)] }, _, 1, 0, _, _, _,
  rfl, rfl, by decide +kernel, rfl, rfl, by decide +kernel, by decide +kernel⟩
theorem witness_FlitsAreReceivedInOrder_2_1 : ∃ (s b : State) (p : Nat) (x : Port),
    b = Claims.fresh s ∧ x = b.port p ∧ x.st = .init :=
  ⟨withPort { port1 with st := .init }, _, 1, _,
  rfl, rfl, by decide +kernel⟩
theorem witness_FlitsAreReceivedInOrder_2_2 : ∃ (s b : State) (p : Nat) (x : Port),
    b = Claims.fresh s ∧ x = b.port p ∧ x.st = .active ∧ x.retrying = true ∧ x.swapping = none :=
  ⟨withPort { port1 with retrying := true }, _, 1, _,
  rfl, rfl, by decide +kernel, by decide +kernel, by decide +kernel⟩
theorem witness_FlitsAreReceivedInOrder_2_3 : ∃ (s b : State) (p : Nat) (x : Port), ∃ l,
    b = Claims.fresh s ∧ x = b.port p ∧ x.st = .active ∧ x.retrying = false ∧ x.swapping = some l :=
  ⟨withPort { port1 with swapping := some 9 }, _, 1, _, 9,
  rfl, rfl, by decide +kernel, by decide +kernel, by decide +kernel⟩
theorem witness_FlitsAreReceivedInOrder_3 : ∃ (s b : State) (p posted request response : Nat) (x : Port),
    b = Claims.fresh s ∧ x = b.port p ∧ x.st = .init :=
  ⟨withPort { port1 with st := .init }, _, 1, 1, 1, 1, _,
  rfl, rfl, by decide +kernel⟩
theorem witness_FlitsAreReceivedInOrder_4 : ∃ (s b : State) (p reason : Nat),
    b = Claims.fresh s ∧ 1 ≤ reason ∧ reason ≤ 3 :=
  ⟨withPort port1, _, 1, 3,
  rfl, by decide +kernel, by decide +kernel⟩
theorem witness_FlitsAreReceivedInOrder_5_1 : ∃ (s b : State) (p : Nat) (bytes : List Byte) (x : Port) (f : Flit),
    b = Claims.fresh s ∧ x = b.port p ∧ x.st = .active ∧ bytes.length = 272 ∧ f = parseFlit bytes ∧ unsequenced f.ftype = false ∧
    crc32c (bytes.take 268) = fld bytes 268 4 ∧ flitForm bytes = true ∧ f.seq = x.rxSeq :=
  ⟨withPort port1, _, 1, flitBytes 0 0xC1F2D624, port1, _,
  rfl, by decide +kernel, by decide +kernel, by decide +kernel, rfl, by decide +kernel, (by rw [crc_flit]; decide +kernel),
    by decide +kernel, by decide +kernel⟩
theorem witness_FlitsAreReceivedInOrder_5_2 : ∃ (s b : State) (p : Nat) (bytes : List Byte) (x : Port) (f : Flit),
    b = Claims.fresh s ∧ x = b.port p ∧ x.st = .active ∧ bytes.length = 272 ∧ f = parseFlit bytes ∧ unsequenced f.ftype = false ∧
    crc32c (bytes.take 268) = fld bytes 268 4 ∧ flitForm bytes = true ∧ f.seq ≠ x.rxSeq :=
  ⟨withPort port1, _, 1, flitBytes 4095 0xA55064CA, port1, _,
  rfl, by decide +kernel, by decide +kernel, by decide +kernel, rfl, by decide +kernel, (by rw [crc_flit_last]; decide +kernel),
    by decide +kernel, by decide +kernel⟩
theorem witness_FlitsAreReceivedInOrder_5_3 : ∃ (s b : State) (p : Nat) (bytes : List Byte) (x : Port) (f : Flit),
    b = Claims.fresh s ∧ x = b.port p ∧ x.st = .active ∧ bytes.length = 272 ∧ f = parseFlit bytes ∧ unsequenced f.ftype = false ∧
    crc32c (bytes.take 268) ≠ fld bytes 268 4 :=
  ⟨withPort port1, _, 1, flitBytes 0 0, port1, _,
  rfl, by decide +kernel, by decide +kernel, by decide +kernel, rfl, by decide +kernel, (by rw [crc_flit_bad]; decide +kernel)⟩
theorem witness_WeedAndLedgerCommandsComplete_1_1 : ∃ (s b u : State) (m : Mbx) (page reason : Nat) (list : List Weed),
    b = Claims.begun s m ∧ Claims.begins s m { op := 0x0701, tenant := false, ctx := .none } 255 ∧ b.ledger.ready = true ∧
    page % 65536 = 0 ∧ page < 2 ^ 40 ∧ page % 2 ^ 36 < b.grade.stackBytes ∧ 1 ≤ reason ∧ reason ≤ 3 ∧
    list = b.ledger.weeds.getD (dpaStack page) [] ∧ (list.any (fun w => w.page == page / 65536) = true) :=
  ⟨{ up with ledger := { ready := true, weeds := [(15, [⟨0xF00000, 1, 0, 0⟩])] } }, _, up, own 255, 0xF000000000, 3, _,
  rfl, ⟨by decide +kernel, by decide +kernel, rfl, by decide +kernel⟩, by decide +kernel, by decide +kernel, by decide +kernel,
    by decide +kernel, by decide +kernel, by decide +kernel, rfl, by decide +kernel⟩
theorem witness_WeedAndLedgerCommandsComplete_1_2 : ∃ (s b u : State) (m : Mbx) (page reason : Nat) (list : List Weed),
    b = Claims.begun s m ∧ Claims.begins s m { op := 0x0701, tenant := false, ctx := .none } 255 ∧ b.ledger.ready = true ∧
    page % 65536 = 0 ∧ page < 2 ^ 40 ∧ page % 2 ^ 36 < b.grade.stackBytes ∧ 1 ≤ reason ∧ reason ≤ 3 ∧
    list = b.ledger.weeds.getD (dpaStack page) [] ∧ (list.any (fun w => w.page == page / 65536) = false) ∧ b.pageBusy page = false ∧
    list.length < 4096 ∧
    u = ((b.servePage page).setStk (dpaStack page) { (b.servePage page).stk (dpaStack page) with weeded := ((b.servePage page).stk (dpaStack page)).weeded ++ [page / 65536] }).releasePage page :=
  ⟨{ up with ledger := { ready := true } }, _, _, own 255, 0xF000000000, 1, _,
  rfl, ⟨by decide +kernel, by decide +kernel, rfl, by decide +kernel⟩, by decide +kernel, by decide +kernel, by decide +kernel,
    by decide +kernel, by decide +kernel, by decide +kernel, rfl, by decide +kernel, by decide +kernel, by decide +kernel, rfl⟩
theorem witness_WeedAndLedgerCommandsComplete_2 : ∃ (s b : State) (m : Mbx) (stack first : Nat) (all out : List Weed),
    b = Claims.begun s m ∧ Claims.begins s m { op := 0x0702, tenant := false, ctx := .none, buf := true } 255 ∧ b.ledger.ready = true ∧
    (stack < 16 ∨ stack = 255) ∧
    (all = (if stack = 255 then (List.range 16).flatMap (fun k => b.ledger.weeds.getD k []) else b.ledger.weeds.getD stack [])) ∧
    out = (all.drop first).take (m.buf.len / 16) ∧ b.outBuf m (16 * out.length) = none :=
  ⟨{ up with ledger := { ready := true } }, _, own 255 { noBuf with addr := 64, len := 64 }, 255, 0, _, _,
  rfl, ⟨by decide +kernel, by decide +kernel, rfl, by decide +kernel⟩, by decide +kernel, by decide +kernel, rfl, rfl, by decide +kernel⟩
theorem witness_WeedAndLedgerCommandsComplete_3 : ∃ (s b : State) (m : Mbx) (cls first : Nat) (all out : List LRec),
    b = Claims.begun s m ∧ Claims.begins s m { op := 0x0103, tenant := false, ctx := .none, buf := true } 255 ∧ b.ledger.ready = true ∧
    (cls = 1 ∧ all = b.ledger.errors.filter (fun r => !r.torn) ∨ cls = 2 ∧ all = b.ledger.reshelves.filter (fun r => !r.torn) ∨ cls = 3 ∧ all = b.ledger.ageing.filter (fun r => !r.torn) ∨ cls = 4 ∧ all = b.ledger.life.filter (fun r => !r.torn)) ∧
    out = (all.drop first).take (m.buf.len / 32) ∧ b.outBuf m (32 * out.length) = none :=
  ⟨{ up with ledger := { ready := true } }, _, own 255 { noBuf with addr := 64, len := 64 }, 4, 0, [], _,
  rfl, ⟨by decide +kernel, by decide +kernel, rfl, by decide +kernel⟩, by decide +kernel, by decide +kernel, rfl, by decide +kernel⟩
theorem witness_MailboxRegistersWork_1_2 : ∃ (s b : State) (p : MPort) (v : W32) (x : Mailbox),
    b = Claims.fresh s ∧ x = b.mb (portIx p) ∧ b.power.st = .run ∧ v.getLsbD 0 = true ∧ x.enable = false :=
  ⟨{ up with mbx := [] }, _, .vf 16, 1, _,
  rfl, rfl, by decide +kernel, by decide +kernel, by decide +kernel⟩
theorem witness_MailboxRegistersWork_1_3 : ∃ (s b : State) (p : MPort) (v : W32) (x : Mailbox),
    b = Claims.fresh s ∧ x = b.mb (portIx p) ∧ b.power.st = .run ∧ v.getLsbD 0 = false :=
  ⟨up, _, .owner, 0, _,
  rfl, rfl, by decide +kernel, by decide +kernel⟩
theorem witness_MailboxRegistersWork_1_7 : ∃ (s b : State) (p : MPort) (v : W32) (x : Mailbox),
    b = Claims.fresh s ∧ x = b.mb (portIx p) ∧ b.power.st = .run ∧ b.mbxFetches (portIx p) = true ∧
    x.sqHead % x.sqDepth ≠ x.sqTail % x.sqDepth :=
  ⟨{ upV with mbx := [(3, { enable := true, size := 0x202, sqTail := 1 })] }, _, .vf 3, 0, _,
  rfl, rfl, by decide +kernel, by decide +kernel, by decide +kernel⟩
theorem witness_MailboxRegistersWork_2_1 : ∃ (s b : State) (p : MPort) (entry data : List Byte) (fault : BufFault) (x : Mailbox),
    b = Claims.fresh s ∧ x = b.mb (portIx p) ∧ b.mbxFetches (portIx p) = true ∧ b.hex.moving.contains 0 = false ∧
    x.sqHead % x.sqDepth ≠ x.sqTail % x.sqDepth ∧ entry = [] :=
  ⟨{ upV with mbx := [(3, { enable := true, size := 0x202, sqTail := 1 })] }, _, .vf 3, [], [], .unreachable, _,
  rfl, rfl, by decide +kernel, by decide +kernel, by decide +kernel, by decide +kernel⟩
theorem witness_MailboxRegistersWork_2_2 : ∃ (s b : State) (p : MPort) (entry data : List Byte) (fault : BufFault) (x : Mailbox), ∃ (r : SubmitRow) (m : Mbx),
    b = Claims.fresh s ∧ x = b.mb (portIx p) ∧ b.mbxFetches (portIx p) = true ∧ b.hex.moving.contains 0 = false ∧
    x.sqHead % x.sqDepth ≠ x.sqTail % x.sqDepth ∧ entry.length = 64 ∧ (fld entry 63 1 / 128 == 1) = x.sqPhase ∧
    submitRow (fld entry 0 2) = some r ∧ entryClean entry (fld entry 0 2) r.fields = true ∧
    m = { port := p, context := fld entry 6 1, tag := fld entry 4 2, buf := { dev := fld entry 2 1 % 2 == 1, addr := fld entry 8 8, len := fld entry 16 4, data := data, fault := fault } } :=
  ⟨{ up with mbx := [(0, { enable := true, size := 0x202, sqTail := 1 })] }, _, .owner, submission0, [], .ok, _, _, _,
  rfl, rfl, by decide +kernel, by decide +kernel, by decide +kernel, by decide +kernel, by decide +kernel, rfl, by decide +kernel, rfl⟩
theorem witness_ModuleRegistersWork_1_4 : ∃ (s b : State), ∃ j,
    b = Claims.fresh s ∧ b.power.st = .run ∧ j < 16 :=
  ⟨up, _, 15,
  rfl, by decide +kernel, by decide +kernel⟩
theorem witness_ModuleRegistersWork_1_5 : ∃ (s b : State), ∃ (p : MPort) (off : Nat) (v : W64) (u : State),
    b = Claims.fresh s ∧ b.power.st = .run ∧ b.reg64 p off = some v ∧
    u = b.setMb (portIx p) { b.mb (portIx p) with latch := some (off + 4, BitVec.ofNat 32 (v.toNat / 2 ^ 32)) } :=
  ⟨up, _, .owner, 0x30018, _, _,
  rfl, by decide +kernel, rfl, rfl⟩
theorem witness_ModuleRegistersWork_1_11 : ∃ (s b : State), ∃ (len : Bool) (v : W64),
    b = Claims.fresh s ∧ b.power.st = .run ∧ b.stamps.busy = false :=
  ⟨up, _, true, 0,
  rfl, by decide +kernel, by decide +kernel⟩
theorem witness_ModuleRegistersWork_1_12 : ∃ (s b : State), ∃ (len : Bool) (v : W64),
    b = Claims.fresh s ∧ b.power.st = .run ∧ b.stamps.busy = true :=
  ⟨{ up with stamps := { busy := true } }, _, true, 0,
  rfl, by decide +kernel, by decide +kernel⟩
theorem witness_RegisterAndStagingAccesses_1_6 : ∃ (s b : State) (v : W64), ∃ (p : MPort) (k : Nat),
    b = Claims.fresh s ∧ b.power.st = .run ∧ (k = (if p = .owner then 0x10000 else 0)) ∧ (b.mb (portIx p)).enable = false :=
  ⟨{ up with mbx := [] }, _, 0, .vf 3, _,
  rfl, by decide +kernel, rfl, by decide +kernel⟩
theorem witness_RegisterAndStagingAccesses_1_9 : ∃ (s b : State) (v : W64), ∃ (p : MPort) (k : Nat), ∃ r,
    b = Claims.fresh s ∧ b.power.st = .run ∧ (k = (if p = .owner then 0x10000 else 0)) ∧ (b.mb (portIx p)).enable = true ∧ r < 0x14 :=
  ⟨up, _, 0, .owner, _, 0x13,
  rfl, by decide +kernel, rfl, by decide +kernel, by decide +kernel⟩
theorem witness_RegisterAndStagingAccesses_1_12 : ∃ (s b : State) (v : W64), ∃ off,
    b = Claims.fresh s ∧ b.power.st = .run ∧ off < 0x2000 :=
  ⟨up, _, 0, 0x1FFF,
  rfl, by decide +kernel, by decide +kernel⟩
theorem witness_RegisterAndStagingAccesses_2_1 : ∃ (s b : State) (off len : Nat),
    b = Claims.fresh s ∧ b.power.st = .run ∧ b.stageDpa off len = none :=
  ⟨up, _, 0, 8,
  rfl, by decide +kernel, by decide +kernel⟩
theorem witness_RegisterAndStagingAccesses_2_2 : ∃ (s b : State) (off len : Nat), ∃ (a : Nat),
    b = Claims.fresh s ∧ b.power.st = .run ∧ b.stageDpa off len = some a ∧ b.stageServes a len = false :=
  ⟨(staged up.hex []).setStk 0 {}, _, 2 ^ 28 - 8, 8, _,
  rfl, by decide +kernel, rfl, by decide +kernel⟩
theorem witness_RegisterAndStagingAccesses_2_3 : ∃ (s b : State) (off len : Nat), ∃ (a : Nat),
    b = Claims.fresh s ∧ b.power.st = .run ∧ b.stageDpa off len = some a ∧ b.stageServes a len = true ∧ b.secretSlotHit a len = true :=
  ⟨{ up with mbx := [(0, { enable := true, stage := 2 ^ 40 + 1 })], slots := [(0, { full := true, secret := true })] }, _, 4095, 1, 2 ^ 40 + 4095,
  rfl, by decide +kernel, by decide +kernel, by decide +kernel, by decide +kernel⟩
theorem witness_RegisterAndStagingAccesses_2_4 : ∃ (s b : State) (off len : Nat), ∃ (a : Nat),
    b = Claims.fresh s ∧ b.power.st = .run ∧ b.stageDpa off len = some a ∧ b.stageServes a len = true ∧ b.secretSlotHit a len = false ∧
    b.secretHit a len = true :=
  ⟨{ staged up.hex [] with ctxs := [(0, { regions := [⟨0, 0x10000⟩] })] }, _, 0xFFF8, 8, 0xFFF8,
  rfl, by decide +kernel, by decide +kernel, by decide +kernel, by decide +kernel, by decide +kernel⟩
theorem witness_RegisterAndStagingAccesses_2_5 : ∃ (s b : State) (off len : Nat), ∃ (a : Nat),
    b = Claims.fresh s ∧ b.power.st = .run ∧ b.stageDpa off len = some a ∧ b.stageServes a len = true ∧ b.secretSlotHit a len = false ∧
    b.secretHit a len = false ∧ b.poisoned a len = true :=
  ⟨{ staged up.hex [] with poison := [0] }, _, 63, 1, 63,
  rfl, by decide +kernel, by decide +kernel, by decide +kernel, by decide +kernel, by decide +kernel, by decide +kernel⟩
theorem witness_RegisterAndStagingAccesses_2_6 : ∃ (s b : State) (off len : Nat), ∃ (a : Nat),
    b = Claims.fresh s ∧ b.power.st = .run ∧ b.stageDpa off len = some a ∧ b.stageServes a len = true ∧ b.secretSlotHit a len = false ∧
    b.secretHit a len = false ∧ b.poisoned a len = false :=
  ⟨staged up.hex [5], _, 0, 8, 0,
  rfl, by decide +kernel, by decide +kernel, by decide +kernel, by decide +kernel, by decide +kernel, by decide +kernel⟩
theorem witness_RegisterAndStagingAccesses_3_1 : ∃ (s b : State) (off : Nat) (d : List Byte),
    b = Claims.fresh s ∧ b.power.st = .run ∧ b.stageDpa off d.length = none :=
  ⟨up, _, 0, [1],
  rfl, by decide +kernel, by decide +kernel⟩
theorem witness_RegisterAndStagingAccesses_3_2 : ∃ (s b : State) (off : Nat) (d : List Byte), ∃ (a : Nat),
    b = Claims.fresh s ∧ b.power.st = .run ∧ b.stageDpa off d.length = some a ∧ b.stageServes a d.length = false :=
  ⟨(staged up.hex []).setStk 0 {}, _, 0, [1], 0,
  rfl, by decide +kernel, by decide +kernel, by decide +kernel⟩
theorem witness_RegisterAndStagingAccesses_3_3 : ∃ (s b : State) (off : Nat) (d : List Byte), ∃ (a : Nat),
    b = Claims.fresh s ∧ b.power.st = .run ∧ b.stageDpa off d.length = some a ∧ b.stageServes a d.length = true ∧
    b.secretHit a d.length = true :=
  ⟨{ staged up.hex [] with ctxs := [(0, { regions := [⟨0, 0x10000⟩] })] }, _, 0xFFFF, [1, 2], 0xFFFF,
  rfl, by decide +kernel, by decide +kernel, by decide +kernel, by decide +kernel⟩
theorem witness_RegisterAndStagingAccesses_3_4 : ∃ (s b : State) (off : Nat) (d : List Byte), ∃ (a : Nat),
    b = Claims.fresh s ∧ b.power.st = .run ∧ b.stageDpa off d.length = some a ∧ b.stageServes a d.length = true ∧
    b.secretHit a d.length = false :=
  ⟨staged up.hex [], _, 2 ^ 28 - 1, [1], 2 ^ 28 - 1,
  rfl, by decide +kernel, by decide +kernel, by decide +kernel, by decide +kernel⟩
theorem witness_BucketsOpen_1_1 : ∃ (s b : State) (c n k tag : Nat) (x : Stream) (e : Entry) (u : Bucket),
    b = Claims.fresh s ∧ b.reduceReady c n k 0 = some (x, e) ∧ tag = raTag e.cmd.imm ∧ b.chkOpen c n k e = .ok u ∧
    ((b.opnd c e 0).any (fun t => t.poison) = false) ∧ b.bucket tag = none ∧ (b.buckets.countP (fun x => x.2.ctx == c) < 1024) ∧
    b.tagHeld tag = false :=
  ⟨redState (redImm 0 0 (1 + 5000000 * 2 ^ 16)) [none, none, some 1, none], _, 0, 0, 0, 4095, _, redEntry (redImm 0 0 (1 + 5000000 * 2 ^ 16)) [none, none, some 1, none], { bucket0 with state := .filling, expected := 1, deadline := 6000000, margin := 0, opener := some (0, 0) },
  rfl, rfl, by decide +kernel, by decide +kernel, by decide +kernel, by decide +kernel, by decide +kernel, by decide +kernel⟩
theorem witness_BucketsOpen_1_2 : ∃ (s b : State) (c n k tag : Nat) (x : Stream) (e : Entry) (u : Bucket),
    b = Claims.fresh s ∧ b.reduceReady c n k 0 = some (x, e) ∧ tag = raTag e.cmd.imm ∧ b.chkOpen c n k e = .ok u ∧
    ((b.opnd c e 0).any (fun t => t.poison) = false) ∧ b.bucket tag = none ∧ (b.buckets.countP (fun x => x.2.ctx == c) < 1024) ∧
    b.tagHeld tag = true ∧ b.tagWaits.contains (tag, c, n, k) = false :=
  ⟨{ redState (redImm 0 0 (1 + 5000000 * 2 ^ 16)) [none, none, some 1, none] with tagHolds := [(4095, 11000000)] }, _, 0, 0, 0, 4095, _, redEntry (redImm 0 0 (1 + 5000000 * 2 ^ 16)) [none, none, some 1, none], { bucket0 with state := .filling, expected := 1, deadline := 6000000, margin := 0, opener := some (0, 0) },
  rfl, rfl, by decide +kernel, by decide +kernel, by decide +kernel, by decide +kernel, by decide +kernel, by decide +kernel,
    by decide +kernel⟩
theorem witness_BucketsOpen_2 : ∃ (s b t : State) (tag n k : Nat) (u : Bucket) (e : Entry),
    b = Claims.fresh s ∧ b.bucket tag = some u ∧ u.state = .filling ∧ u.aborted = false ∧ u.opener = some (n, k) ∧
    t = b.setBucket tag { u with state := .accepting, opener := none } ∧ t.entry u.ctx n k = some e ∧ e.phase = .issued ∧ e.fate = none :=
  ⟨filling, _, accepting, 4095, 0, 0, { bucket0 with state := .filling, opener := some (0, 0) }, entryOf (scmd 0x600 (redImm 0 0 0)),
  rfl, by decide +kernel, by decide +kernel, by decide +kernel, by decide +kernel, (by decide +kernel), by decide +kernel,
    by decide +kernel, by decide +kernel⟩
theorem witness_BucketsOpen_3_1 : ∃ (s b : State) (tag : Nat), b = Claims.fresh s ∧ b.tagHeld tag = true :=
  ⟨{ up with tagHolds := [(4095, 1000001)] }, _, 4095, rfl, by decide +kernel⟩
theorem witness_BucketsOpen_3_2 : ∃ (s b : State) (tag : Nat),
    b = Claims.fresh s ∧ b.tagHeld tag = false ∧ (b.tagWaits.find? (fun w => w.1 == tag) = none) :=
  ⟨{ up with tagHolds := [(4095, 1000000)] }, _, 4095,
  rfl, by decide +kernel, by decide +kernel⟩
theorem witness_ContributionsAndCollection_1 : ∃ (s b : State) (c n k nb : Nat) (x : Stream) (e : Entry) (a : Card) (p : ParamSet) (u : Bucket) (me : Contribution),
    b = Claims.fresh s ∧ b.reduceReady c n k 1 = some (x, e) ∧ b.chkAddForm c e = .ok (a, p, nb) ∧ raChan e.cmd.imm = 0xFF ∧
    me = { port := 8, window := c, transfer := entryKey n k } ∧ b.chkAddLocal c e a nb me = .ok u ∧ b.openCount < 1024 :=
  ⟨withBucket bucket0 (redState (redImm 1 255 1) [some 2, none, some 1, none]), _, 0, 0, 0, 1, _, redEntry (redImm 1 255 1) [some 2, none, some 1, none], { bucketCard with base := 0x30000 }, noSet, bucket0, ⟨8, 0, 0⟩,
  rfl, rfl, by decide +kernel, by decide +kernel, by decide +kernel, by decide +kernel, by decide +kernel⟩
theorem witness_ContributionsAndCollection_2 : ∃ (s b t : State) (c n k nb ch : Nat) (x : Stream) (e : Entry) (a : Card) (p : ParamSet) (h : Channel),
    b = Claims.fresh s ∧ b.reduceReady c n k 1 = some (x, e) ∧ b.chkAddForm c e = .ok (a, p, nb) ∧ ch = raChan e.cmd.imm ∧ ch ≠ 0xFF ∧
    b.ownChan c x.wing ch = some h ∧ h.bulk = true ∧ h.port.isSome = true ∧ a.poison = false ∧
    t = b.onChannel x.wing ch c n k h { stream := n, entry := k, desc := none } :=
  ⟨withPort port1 (withChan { idleChan with port := some 1 } (redState (redImm 1 0 1) [some 2, none, none, none])), _, _, 0, 0, 0, 1, 0, _, redEntry (redImm 1 0 1) [some 2, none, none, none], { bucketCard with base := 0x30000 }, noSet, { idleChan with port := some 1 },
  rfl, rfl, by decide +kernel, by decide +kernel, by decide +kernel, by decide +kernel, by decide +kernel, by decide +kernel,
    by decide +kernel, rfl⟩
theorem witness_ContributionsAndCollection_3 : ∃ (s b : State) (c n k : Nat) (x : Stream) (e : Entry) (u : Bucket),
    b = Claims.fresh s ∧ b.reduceReady c n k 2 = some (x, e) ∧ b.chkCollect c e = .ok u :=
  ⟨withBucket bucket0 (redState 0xFFF02 [none, none, some 1, none]), _, 0, 0, 0, _, redEntry 0xFFF02 [none, none, some 1, none], bucket0,
  rfl, rfl, by decide +kernel⟩
theorem witness_BucketsClose_1_1 : ∃ (s b : State) (tag : Nat) (u : Bucket),
    b = Claims.fresh s ∧ b.bucket tag = some u ∧ u.state = .accepting ∧ u.deadline ≤ b.time.now + u.margin :=
  ⟨withBucket { bucket0 with deadline := 1000010 } up, _, 4095, { bucket0 with deadline := 1000010 },
  rfl, by decide +kernel, by decide +kernel, by decide +kernel⟩
theorem witness_BucketsClose_1_2 : ∃ (s b : State) (tag : Nat) (u : Bucket),
    b = Claims.fresh s ∧ b.bucket tag = some u ∧ (u.state = .accepting ∨ u.state = .closing) ∧ u.deadline ≤ b.time.now :=
  ⟨withBucket { bucket0 with deadline := 1000000, state := .closing } up, _, 4095, { bucket0 with deadline := 1000000, state := .closing },
  rfl, by decide +kernel, by decide +kernel, by decide +kernel⟩
theorem witness_BucketsClose_1_3 : ∃ (s b : State) (tag : Nat) (u : Bucket), ∃ (chk : Check),
    b = Claims.fresh s ∧ b.bucket tag = some u ∧ u.state = .verifying ∧ (u.ended = true ∨ b.bucketUp u = false) :=
  ⟨withBucket { bucket0 with state := .verifying, ended := true } up, _, 4095, { bucket0 with state := .verifying, ended := true }, .pass,
  rfl, by decide +kernel, by decide +kernel, by decide +kernel⟩
theorem witness_BucketsClose_1_4 : ∃ (s b : State) (tag : Nat) (u : Bucket),
    b = Claims.fresh s ∧ b.bucket tag = some u ∧ u.state = .verifying ∧ u.ended = false ∧ b.bucketUp u = true ∧ u.torn.isNone = true ∧
    b.closeFails u = false ∧ u.mean = false :=
  ⟨withBucket { bucket0 with state := .verifying } up, _, 4095, { bucket0 with state := .verifying },
  rfl, by decide +kernel, by decide +kernel, by decide +kernel, by decide +kernel, by decide +kernel, by decide +kernel, by decide +kernel⟩
theorem witness_BucketsClose_1_5 : ∃ (s b : State) (tag : Nat) (u : Bucket),
    b = Claims.fresh s ∧ b.bucket tag = some u ∧ u.state = .verifying ∧ u.ended = false ∧ b.bucketUp u = true ∧ u.mean = true ∧
    u.torn.isNone = true ∧ b.closeFails u = false :=
  ⟨withBucket { bucket0 with state := .verifying, mean := true } up, _, 4095, { bucket0 with state := .verifying, mean := true },
  rfl, by decide +kernel, by decide +kernel, by decide +kernel, by decide +kernel, by decide +kernel, by decide +kernel, by decide +kernel⟩
theorem witness_BaysWork_1 : ∃ (s b t : State) (bay w c n k : Nat) (e : Entry), ∃ u,
    b = Claims.fresh s ∧ w = bay / 22 ∧ b.bayUp bay = true ∧ (b.bay bay).applying = false ∧ (b.bay bay).drained = false ∧
    (b.bay bay).weight ≠ 0 ∧ b.inFlight bay < (b.bay bay).depth ∧
    ((((List.range 16).map (fun i => ((b.bay bay).last + 1 + i) % 16)).filter (fun c => (b.bay bay).entry.getLsbD c)).findSome? (fun c => (b.nextOf bay c).map (fun q => (c, q))) = some (c, n, k)) ∧
    b.turnTo bay c = some t ∧ u = t.setBay bay { t.bay bay with last := c } ∧ u.entry c n k = some e :=
  ⟨pulling, _, _, 0, 0, 0, 0, 0, _, _,
  rfl, by decide +kernel, by decide +kernel, by decide +kernel, by decide +kernel, by decide +kernel, by decide +kernel, by decide +kernel,
    rfl, rfl, rfl⟩
theorem witness_BaysWork_2 : ∃ (s b : State) (wing m : Nat) (ix : List Nat),
    b = Claims.fresh s ∧ (ix = ((List.range 22).map (· + wing * 22)).filter (fun i => b.bayUp i)) ∧ m = (ix.map b.bayWeight).foldl max 0 :=
  ⟨up, _, 3, _, _,
  rfl, rfl, rfl⟩
theorem witness_BaysWork_3_1 : ∃ (s b u : State) (bay core c n k i : Nat) (en : Engine) (lane : Option Nat) (e : Entry),
    b = Claims.fresh s ∧ b.entry c n k = some e ∧ e.phase = .issued ∧ core < 16 ∧ (b.bay bay).cores.testBit core = true ∧
    b.workingOn bay core en ⟨c, n, k⟩ = some i ∧ u = (b.pieceDone i (engineCode en) ⟨c, n, k⟩).tallyBay bay 93 :=
  ⟨{ upE (entryOf (scmd 0x403 0)) with cores := [(14, { engines := [(3, { now := some ⟨0, 0, 0⟩ })] })] }, _, _, 0, 14, 0, 0, 0, 14, .vc, none, _,
  rfl, rfl, by decide +kernel, by decide +kernel, by decide +kernel, by decide +kernel, rfl⟩
theorem witness_BaysWork_3_2 : ∃ (s b u : State) (bay core c n k i : Nat) (en : Engine) (lane : Option Nat) (e : Entry),
    b = Claims.fresh s ∧ b.entry c n k = some e ∧ e.phase = .issued ∧ core < 16 ∧ (b.bay bay).cores.testBit core = true ∧
    b.workingOn bay core en ⟨c, n, k⟩ = some i ∧ u = (b.pieceDone i (engineCode en) ⟨c, n, k⟩).tallyBay bay 93 ∧ en ≠ .mx :=
  ⟨{ upE (entryOf (scmd 0x403 0)) with cores := [(14, { engines := [(3, { now := some ⟨0, 0, 0⟩ })] })] }, _, _, 0, 14, 0, 0, 0, 14, .vc, none, _,
  rfl, rfl, by decide +kernel, by decide +kernel, by decide +kernel, by decide +kernel, rfl, by decide +kernel⟩
theorem witness_KeyPassesRun_1 : ∃ (s b : State) (wing pass : Nat) (q : Pass),
    b = Claims.fresh s ∧ (b.wing wing).passes.get pass = some q ∧ q.opened + q.window ≤ b.time.now :=
  ⟨withPass { pass0 with closed := false } {}, _, 0, 7, _,
  rfl, rfl, by decide +kernel⟩
theorem witness_KeyPassesRun_2_1 : ∃ (s b : State) (wing pass : Nat) (q : Pass) (cd : Card),
    b = Claims.fresh s ∧ (b.wing wing).passes.get pass = some q ∧ b.card q.key.1 q.key.2 = some cd ∧ q.checked = false ∧
    (∀ i, i < 4 → b.reach (cd.extents.getD i 0) 65536 = none ∧ b.poisoned (cd.extents.getD i 0) 65536 = false) ∧
    (∀ i, i < 4 → pageIntact (b.bytes (cd.extents.getD i 0) 96) i = true) ∧
    (∀ i, i < 4 → pageIs (b.bytes (cd.extents.getD i 0) 96) cd = true) :=
  ⟨keyPages 9 (withPass pass0 { cards := [(5, keyCard)] }), _, 0, 7, pass0, keyCard,
  rfl, by decide +kernel, by decide +kernel, by decide +kernel, by decide +kernel, by decide +kernel, by decide +kernel⟩
theorem witness_KeyPassesRun_2_2 : ∃ (s b : State) (wing pass : Nat) (q : Pass) (cd : Card),
    b = Claims.fresh s ∧ (b.wing wing).passes.get pass = some q ∧ b.card q.key.1 q.key.2 = some cd ∧ q.checked = false ∧
    (∀ i, i < 4 → b.reach (cd.extents.getD i 0) 65536 = none ∧ b.poisoned (cd.extents.getD i 0) 65536 = false) ∧
    (∀ i, i < 4 → pageIntact (b.bytes (cd.extents.getD i 0) 96) i = true) ∧
    (∃ i, i < 4 ∧ pageIs (b.bytes (cd.extents.getD i 0) 96) cd = false) :=
  ⟨keyPages 8 (withPass pass0 { cards := [(5, keyCard)] }), _, 0, 7, pass0, keyCard,
  rfl, by decide +kernel, by decide +kernel, by decide +kernel, by decide +kernel, by decide +kernel, by decide +kernel⟩
theorem witness_KeyPassesRun_2_3 : ∃ (s b : State) (wing pass : Nat) (q : Pass) (cd : Card),
    b = Claims.fresh s ∧ (b.wing wing).passes.get pass = some q ∧ b.card q.key.1 q.key.2 = some cd ∧ q.checked = false ∧
    (∀ i, i < 4 → b.reach (cd.extents.getD i 0) 65536 = none ∧ b.poisoned (cd.extents.getD i 0) 65536 = false) ∧
    (∃ i, i < 4 ∧ pageIntact (b.bytes (cd.extents.getD i 0) 96) i = false) :=
  ⟨withPass pass0 { cards := [(5, keyCard)] }, _, 0, 7, pass0, keyCard,
  rfl, by decide +kernel, by decide +kernel, by decide +kernel, by decide +kernel, by decide +kernel⟩
theorem witness_KeyPassesRun_3 : ∃ (s a b t u : State) (wing pass failed j m : Nat) (q : Pass) (cd : Card) (p : ParamSet),
    a = Claims.fresh s ∧
    b = { (((a.wing wing).passes.get pass).map Pass.bays |>.getD []).foldl State.drainKeys a with draw := a.draw + 1 } ∧
    (b.wing wing).passes.get pass = some q ∧ b.card q.key.1 q.key.2 = some cd ∧ b.pset q.key.1 cd.set = some p ∧ q.closed = true ∧
    q.checked = true ∧ q.blocks[q.next]? = some j ∧ m = blockBytes p cd.keyKind cd.aux ∧ b.reach (blockAddr p cd j) m = none ∧
    (∀ i ∈ q.bays, (b.bay i).keyBytes + landed cd m ≤ 0x200000) ∧ (t, false) = b.readKeyBlock (blockAddr p cd j) m failed ∧
    (u = q.bays.foldl (fun s i => s.setBay i { s.bay i with keyBuf := (s.bay i).keyBuf ++ [(pass, landed cd m)] }) t) :=
  ⟨withPass { pass0 with checked := true } { cards := [(5, keyCard)], sets := [(1, set16)] }, _, _, _, _, 0, 7, 0, 0, _, { pass0 with checked := true }, keyCard, set16,
  rfl, rfl, by decide +kernel, by decide +kernel, by decide +kernel, by decide +kernel, by decide +kernel, by decide +kernel, rfl,
    by decide +kernel, by decide +kernel, (rfl), rfl⟩
theorem witness_StampsAndSnapshots_1 : ∃ (s b : State),
    b = Claims.fresh s ∧ b.stamps.periodic = true ∧ 0 < b.stamps.period.toNat ∧ b.stamps.periodStart + b.stamps.period.toNat ≤ b.time.now :=
  ⟨{ up with stamps := { periodic := true, period := 1000000 } }, _,
  rfl, by decide +kernel, by decide +kernel, by decide +kernel⟩
theorem witness_StampsAndSnapshots_2_1 : ∃ (s b t : State) (i : StampInfo) (rest : List StampInfo) (mask z : Nat),
    b = Claims.fresh s ∧ b.stamps.waiting = i :: rest ∧ i.apply ≤ b.time.now ∧ b.stamps.busy = false ∧
    t = { b with stamps := { b.stamps with waiting := rest, lastId := BitVec.ofNat 32 i.id, lastTick := i.origin, overrun := false } } ∧
    mask = b.num b.stamps.bufBase.toNat 16 % 2 ^ 88 ∧ z = 0x1C000 + 0x4000 * (detailBays mask).length ∧
    (t.bufUsable = false ∨ b.stamps.bufLen.toNat < 0x1000 + z) :=
  ⟨{ up with stamps := { waiting := [⟨3, 2, 9, 1000000, 1, true⟩] } }, _, _, _, _, _, _,
  rfl, rfl, by decide +kernel, by decide +kernel, rfl, rfl, rfl, by decide +kernel⟩
theorem witness_StampsAndSnapshots_2_2 : ∃ (s b t : State) (i : StampInfo) (rest : List StampInfo) (mask z : Nat),
    b = Claims.fresh s ∧ b.stamps.waiting = i :: rest ∧ i.apply ≤ b.time.now ∧ b.stamps.busy = false ∧
    t = { b with stamps := { b.stamps with waiting := rest, lastId := BitVec.ofNat 32 i.id, lastTick := i.origin, overrun := false } } ∧
    mask = b.num b.stamps.bufBase.toNat 16 % 2 ^ 88 ∧ z = 0x1C000 + 0x4000 * (detailBays mask).length ∧ t.bufUsable = true ∧
    0x1000 + z ≤ b.stamps.bufLen.toNat :=
  ⟨{ up with stamps := { waiting := [⟨3, 2, 9, 1000000, 1, true⟩], bufBase := 0x10000, bufLen := 0x1D000 } }, _, _, _, _, _, _,
  rfl, rfl, by decide +kernel, by decide +kernel, rfl, rfl, rfl, by decide +kernel, by decide +kernel⟩
theorem witness_StampsAndSnapshots_3 : ∃ (s b t : State) (off : Nat) (d : List Byte),
    b = Claims.fresh s ∧ b.stamps.latched = some (off, d) ∧ t = b.write (b.stamps.bufBase.toNat + off) d ∧
    b.stamps.latchedAt * 65536 + d.length * 1000 ≤ b.time.now * 65536 :=
  ⟨{ up with stamps := { latched := some (0x1000, [1]) } }, _, _, _, _,
  rfl, rfl, rfl, by decide +kernel⟩
theorem witness_FeedsComeAndGo_1_1 : ∃ (s b : State) (feed mv : Nat) (f : Feed),
    b = Claims.fresh s ∧ f = b.feed feed ∧ feed < 2 ∧ mv ≤ 64000 ∧ f.present = false ∧ f.limiter ≠ .waitRetry ∧ f.inRange mv = true :=
  ⟨State.reset, _, 1, 60000, _,
  rfl, rfl, by decide +kernel, by decide +kernel, by decide +kernel, by decide +kernel, by decide +kernel⟩
theorem witness_FeedsComeAndGo_1_1b : ∃ (s b : State) (feed mv : Nat) (f : Feed),
    b = Claims.fresh s ∧ f = b.feed feed ∧ feed < 2 ∧ mv ≤ 64000 ∧ f.present = false ∧ f.limiter ≠ .waitRetry ∧ f.inRange mv = true :=
  ⟨State.reset, _, 0, 40000, _,
  rfl, rfl, by decide +kernel, by decide +kernel, by decide +kernel, by decide +kernel, by decide +kernel⟩
theorem witness_FeedsComeAndGo_1_2 : ∃ (s b : State) (feed mv : Nat) (f : Feed),
    b = Claims.fresh s ∧ f = b.feed feed ∧ feed < 2 ∧ mv ≤ 64000 ∧ f.present = true ∧ (mv < 39000 ∨ 61000 < mv) :=
  ⟨up, _, 1, 38999, _,
  rfl, rfl, by decide +kernel, by decide +kernel, by decide +kernel, by decide +kernel⟩
theorem witness_FeedsComeAndGo_1_2b : ∃ (s b : State) (feed mv : Nat) (f : Feed),
    b = Claims.fresh s ∧ f = b.feed feed ∧ feed < 2 ∧ mv ≤ 64000 ∧ f.present = true ∧ (mv < 39000 ∨ 61000 < mv) :=
  ⟨up, _, 0, 61001, _,
  rfl, rfl, by decide +kernel, by decide +kernel, by decide +kernel, by decide +kernel⟩
theorem witness_FeedsComeAndGo_1_3 : ∃ (s b : State) (feed mv : Nat) (f : Feed),
    b = Claims.fresh s ∧ f = b.feed feed ∧ feed < 2 ∧ 64000 < mv :=
  ⟨up, _, 1, 64001, _,
  rfl, rfl, by decide +kernel, by decide +kernel⟩
theorem witness_FeedsComeAndGo_1_5 : ∃ (s b : State) (feed mv : Nat) (f : Feed),
    b = Claims.fresh s ∧ f = b.feed feed ∧ feed < 2 ∧ f.limiter = .charging :=
  ⟨{ up with power := { up.power with feedB := { limiter := .charging } } }, _, 1, 0, _,
  rfl, rfl, by decide +kernel, by decide +kernel⟩
theorem witness_FeedsComeAndGo_1_7 : ∃ (s b : State) (feed mv : Nat) (f : Feed),
    b = Claims.fresh s ∧ f = b.feed feed ∧ feed < 2 ∧ f.limiter = .waitRetry :=
  ⟨{ up with power := { up.power with feedB := { limiter := .waitRetry } } }, _, 1, 0, _,
  rfl, rfl, by decide +kernel, by decide +kernel⟩
theorem witness_FeedsComeAndGo_1_8 : ∃ (s b : State) (feed mv : Nat) (f : Feed), ∃ (a c : Nat) (u : State), ∃ l, ∃ m, ∃ v : State,
    b = Claims.fresh s ∧ f = b.feed feed ∧ feed < 2 ∧
    (u = { b with power := { b.power with feedA := if b.power.feedA.present then { b.power.feedA with mv := a } else b.power.feedA, feedB := if b.power.feedB.present then { b.power.feedB with mv := c } else b.power.feedB } }) ∧
    (l = (if b.power.feedA.present then 40 * a else 0) + (if b.power.feedB.present then 40 * c else 0)) ∧
    m = min b.power.setLimit (min b.power.feedLimit (l / 1000)) ∧ v = { u with power := { u.power with curLimit := l, limit := m } } :=
  ⟨up, _, 0, 0, _, 52000, 51000, _, _, _, _,
  rfl, rfl, by decide +kernel, rfl, rfl, rfl, rfl⟩
theorem witness_ContactsBringUpAndReset_1_1 : ∃ (s b : State), ∃ u v : State,
    b = Claims.fresh s ∧ b.power.st = .starting ∧ (u = [72, 76, 79].foldl (fun s d => s.setDom d { s.dom d with on := true }) b) ∧
    v = { u with power := { u.power with st := .standby, prsnt := true } } :=
  ⟨{ State.reset with power := { State.reset.power with st := .starting } }, _, _, _,
  rfl, by decide +kernel, rfl, rfl⟩
theorem witness_ContactsBringUpAndReset_1_2 : ∃ (s b : State), ∃ u : State,
    b = Claims.fresh s ∧ u = { b with power := { b.power with perst := true, earlyRelease := false } } ∧
    (b.power.st = .off ∨ b.power.st = .starting) :=
  ⟨State.reset, _, _,
  rfl, rfl, by decide +kernel⟩
theorem witness_ContactsBringUpAndReset_1_3 : ∃ (s b : State), ∃ u : State,
    b = Claims.fresh s ∧ u = { b with power := { b.power with perst := true, earlyRelease := false } } ∧
    (b.power.st = .standby ∨ b.power.st = .run) :=
  ⟨up, _, _,
  rfl, rfl, by decide +kernel⟩
theorem witness_ContactsBringUpAndReset_1_4 : ∃ (s b : State), ∃ u : State,
    b = Claims.fresh s ∧ u = { b with power := { b.power with perst := false } } ∧ b.power.st = .standby :=
  ⟨{ State.reset with power := { State.reset.power with st := .standby } }, _, _,
  rfl, rfl, by decide +kernel⟩
theorem witness_ContactsBringUpAndReset_1_5 : ∃ (s b : State), ∃ u : State,
    b = Claims.fresh s ∧ u = { b with power := { b.power with perst := false } } ∧ (b.power.st = .starting ∨ b.power.st = .off) :=
  ⟨State.reset, _, _,
  rfl, rfl, by decide +kernel⟩
theorem witness_ContactsBringUpAndReset_1_6 : ∃ (s b : State), ∃ u : State,
    b = Claims.fresh s ∧ u = { b with power := { b.power with perst := false } } ∧ b.power.st = .run :=
  ⟨up, _, _,
  rfl, rfl, by decide +kernel⟩
theorem witness_LoopsAndLimits_1_1 : ∃ (s b : State) (dom rate : Nat) (d : Domain), ∃ v,
    b = Claims.fresh s ∧ d = b.dom dom ∧ dom < 80 ∧ d.on = true ∧ fixedDomain dom = false ∧
    (v = { d with rate := rate, powerTicks := d.powerTicks + (if d.paced then 10000 else 0), thermalTicks := d.thermalTicks + (if d.hot = 3 then 10000 else 0) }) ∧
    rate < d.setpoint ∧ b.power.inputMw < 1000 * b.power.limit ∧ d.hot < 2 ∧ d.rail + 5 ≤ 850 :=
  ⟨domain 71 { on := true, rail := 845 }, _, 71, 1099, _, _,
  rfl, rfl, by decide +kernel, by decide +kernel, by decide +kernel, rfl, by decide +kernel, by decide +kernel, by decide +kernel,
    by decide +kernel⟩
theorem witness_LoopsAndLimits_1_2 : ∃ (s b : State) (dom rate : Nat) (d : Domain), ∃ v,
    b = Claims.fresh s ∧ d = b.dom dom ∧ dom < 80 ∧ d.on = true ∧ fixedDomain dom = false ∧
    (v = { d with rate := rate, powerTicks := d.powerTicks + (if d.paced then 10000 else 0), thermalTicks := d.thermalTicks + (if d.hot = 3 then 10000 else 0) }) ∧
    rate < d.setpoint ∧ (1000 * b.power.limit ≤ b.power.inputMw ∨ 2 ≤ d.hot ∨ 850 < d.rail + 5) :=
  ⟨domain 71 { on := true, rail := 846 } 3600, _, 71, 1099, _, _,
  rfl, rfl, by decide +kernel, by decide +kernel, by decide +kernel, rfl, by decide +kernel, by decide +kernel⟩
theorem witness_LoopsAndLimits_1_3 : ∃ (s b : State) (dom rate : Nat) (d : Domain), ∃ v,
    b = Claims.fresh s ∧ d = b.dom dom ∧ dom < 80 ∧ d.on = true ∧ fixedDomain dom = false ∧
    (v = { d with rate := rate, powerTicks := d.powerTicks + (if d.paced then 10000 else 0), thermalTicks := d.thermalTicks + (if d.hot = 3 then 10000 else 0) }) ∧
    101 * d.setpoint < 100 * rate ∧ railFloor dom + 5 ≤ d.rail :=
  ⟨domain 71 { on := true, rail := 655 }, _, 71, 1112, _, _,
  rfl, rfl, by decide +kernel, by decide +kernel, by decide +kernel, rfl, by decide +kernel, by decide +kernel⟩
theorem witness_LoopsAndLimits_1_4 : ∃ (s b : State) (dom rate : Nat) (d : Domain), ∃ v,
    b = Claims.fresh s ∧ d = b.dom dom ∧ dom < 80 ∧ d.on = true ∧ fixedDomain dom = false ∧
    (v = { d with rate := rate, powerTicks := d.powerTicks + (if d.paced then 10000 else 0), thermalTicks := d.thermalTicks + (if d.hot = 3 then 10000 else 0) }) ∧
    d.setpoint ≤ rate ∧ (100 * rate ≤ 101 * d.setpoint ∨ d.rail < railFloor dom + 5) :=
  ⟨domain 71 { on := true, rail := 655 }, _, 71, 1111, _, _,
  rfl, rfl, by decide +kernel, by decide +kernel, by decide +kernel, rfl, by decide +kernel, by decide +kernel⟩
theorem witness_LoopsAndLimits_3_1 : ∃ (s b u : State) (dom : Nat) (t outlet : Int) (d : Domain), ∃ v : State,
    b = Claims.fresh s ∧ d = b.dom dom ∧ dom < 80 ∧ b.power.st = .run ∧
    (u = b.setDom dom { d with tj := t, tjMax := max d.tjMax t, hot := nextRow d.hot t, rail := if nextRow d.hot t = 3 ∧ railFloor dom + 5 ≤ d.rail ∧ fixedDomain dom = false then d.rail - 5 else d.rail }) ∧
    v = { u with power := { u.power with outlet := outlet } } ∧ t < 115 ∧ outlet < 750 :=
  ⟨up, _, _, 79, 114, 749, _, _,
  rfl, rfl, by decide +kernel, by decide +kernel, rfl, rfl, by decide +kernel, by decide +kernel⟩
theorem witness_LoopsAndLimits_3_2 : ∃ (s b u : State) (dom : Nat) (t outlet : Int) (d : Domain), ∃ v : State,
    b = Claims.fresh s ∧ d = b.dom dom ∧ dom < 80 ∧ b.power.st = .run ∧
    (u = b.setDom dom { d with tj := t, tjMax := max d.tjMax t, hot := nextRow d.hot t, rail := if nextRow d.hot t = 3 ∧ railFloor dom + 5 ≤ d.rail ∧ fixedDomain dom = false then d.rail - 5 else d.rail }) ∧
    v = { u with power := { u.power with outlet := outlet } } ∧ (750 ≤ outlet ∨ 72 ≤ dom ∧ 115 ≤ t) :=
  ⟨up, _, _, 72, 115, 0, _, _,
  rfl, rfl, by decide +kernel, by decide +kernel, rfl, rfl, by decide +kernel⟩
theorem witness_LoopsAndLimits_3_2b : ∃ (s b u : State) (dom : Nat) (t outlet : Int) (d : Domain), ∃ v : State,
    b = Claims.fresh s ∧ d = b.dom dom ∧ dom < 80 ∧ b.power.st = .run ∧
    (u = b.setDom dom { d with tj := t, tjMax := max d.tjMax t, hot := nextRow d.hot t, rail := if nextRow d.hot t = 3 ∧ railFloor dom + 5 ≤ d.rail ∧ fixedDomain dom = false then d.rail - 5 else d.rail }) ∧
    v = { u with power := { u.power with outlet := outlet } } ∧ (750 ≤ outlet ∨ 72 ≤ dom ∧ 115 ≤ t) :=
  ⟨up, _, _, 0, 0, 750, _, _,
  rfl, rfl, by decide +kernel, by decide +kernel, rfl, rfl, by decide +kernel⟩
theorem witness_LoopsAndLimits_3_3 : ∃ (s b u : State) (dom : Nat) (t outlet : Int) (d : Domain), ∃ v : State,
    b = Claims.fresh s ∧ d = b.dom dom ∧ dom < 80 ∧ b.power.st = .run ∧
    (u = b.setDom dom { d with tj := t, tjMax := max d.tjMax t, hot := nextRow d.hot t, rail := if nextRow d.hot t = 3 ∧ railFloor dom + 5 ≤ d.rail ∧ fixedDomain dom = false then d.rail - 5 else d.rail }) ∧
    v = { u with power := { u.power with outlet := outlet } } ∧ outlet < 750 ∧ dom < 72 ∧ 115 ≤ t :=
  ⟨up, _, _, 71, 115, 749, _, _,
  rfl, rfl, by decide +kernel, by decide +kernel, rfl, rfl, by decide +kernel, by decide +kernel, by decide +kernel⟩
theorem witness_LoopsAndLimits_4 : ∃ (s b : State) (dom : Nat) (l : List Nat),
    b = Claims.fresh s ∧ dom < 80 ∧ fixedDomain dom = false ∧ (b.dom dom).on = true :=
  ⟨domain 71 { on := true }, _, 71, [0],
  rfl, by decide +kernel, by decide +kernel, by decide +kernel⟩
theorem witness_LoopsAndLimits_5_1 : ∃ (s b u : State) (dom c : Nat) (d : Domain), ∃ (r : LRec) (v : State),
    b = Claims.fresh s ∧ d = b.dom dom ∧ dom < 80 ∧ fixedDomain dom = false ∧
    (c = (if 125 < d.age ∧ (isBayPair dom = true ∨ isNoc dom = true) then min d.ceiling (rateAt (850 - d.age) rate105) else d.ceiling)) ∧
    u = b.setDom dom { d with ceiling := c, tjMax := d.tj } ∧
    (r = b.lrec 3 1 (if dom < 72 then dom / 18 else 0xFF) dom (leBytes 2 d.age ++ intBytes 1 d.tjMax ++ [b8 (c / 10)])) ∧
    v = { u with ledger := { u.ledger with ageing := ringPush 49152 u.ledger.ageing r } } ∧ d.age ≤ 125 :=
  ⟨domain 71 { age := 125 }, _, _, 71, _, _, _, _,
  rfl, rfl, by decide +kernel, by decide +kernel, rfl, rfl, rfl, rfl, by decide +kernel⟩
theorem witness_LoopsAndLimits_5_2 : ∃ (s b u : State) (dom c : Nat) (d : Domain), ∃ (r : LRec) (v : State),
    b = Claims.fresh s ∧ d = b.dom dom ∧ dom < 80 ∧ fixedDomain dom = false ∧
    (c = (if 125 < d.age ∧ (isBayPair dom = true ∨ isNoc dom = true) then min d.ceiling (rateAt (850 - d.age) rate105) else d.ceiling)) ∧
    u = b.setDom dom { d with ceiling := c, tjMax := d.tj } ∧
    (r = b.lrec 3 1 (if dom < 72 then dom / 18 else 0xFF) dom (leBytes 2 d.age ++ intBytes 1 d.tjMax ++ [b8 (c / 10)])) ∧
    v = { u with ledger := { u.ledger with ageing := ringPush 49152 u.ledger.ageing r } } ∧ 125 < d.age ∧
    (isBayPair dom = true ∨ isNoc dom = true) :=
  ⟨domain 65 { age := 126 }, _, _, 65, _, _, _, _,
  rfl, rfl, by decide +kernel, by decide +kernel, rfl, rfl, rfl, rfl, by decide +kernel, by decide +kernel⟩
theorem witness_LoopsAndLimits_5_3 : ∃ (s b u : State) (dom c : Nat) (d : Domain), ∃ (r : LRec) (v : State),
    b = Claims.fresh s ∧ d = b.dom dom ∧ dom < 80 ∧ fixedDomain dom = false ∧
    (c = (if 125 < d.age ∧ (isBayPair dom = true ∨ isNoc dom = true) then min d.ceiling (rateAt (850 - d.age) rate105) else d.ceiling)) ∧
    u = b.setDom dom { d with ceiling := c, tjMax := d.tj } ∧
    (r = b.lrec 3 1 (if dom < 72 then dom / 18 else 0xFF) dom (leBytes 2 d.age ++ intBytes 1 d.tjMax ++ [b8 (c / 10)])) ∧
    v = { u with ledger := { u.ledger with ageing := ringPush 49152 u.ledger.ageing r } } ∧ 125 < d.age ∧ dom < 72 ∧ 12 ≤ dom % 18 ∧
    dom % 18 < 16 :=
  ⟨domain 69 { age := 126 }, _, _, 69, _, _, _, _,
  rfl, rfl, by decide +kernel, by decide +kernel, rfl, rfl, rfl, rfl, by decide +kernel, by decide +kernel, by decide +kernel,
    by decide +kernel⟩
theorem witness_LoopsAndLimits_5_4 : ∃ (s b u : State) (dom c : Nat) (d : Domain), ∃ (r : LRec) (v : State),
    b = Claims.fresh s ∧ d = b.dom dom ∧ dom < 80 ∧ fixedDomain dom = false ∧
    (c = (if 125 < d.age ∧ (isBayPair dom = true ∨ isNoc dom = true) then min d.ceiling (rateAt (850 - d.age) rate105) else d.ceiling)) ∧
    u = b.setDom dom { d with ceiling := c, tjMax := d.tj } ∧
    (r = b.lrec 3 1 (if dom < 72 then dom / 18 else 0xFF) dom (leBytes 2 d.age ++ intBytes 1 d.tjMax ++ [b8 (c / 10)])) ∧
    v = { u with ledger := { u.ledger with ageing := ringPush 49152 u.ledger.ageing r } } ∧ 125 < d.age ∧ dom < 72 ∧ 16 ≤ dom % 18 :=
  ⟨domain 71 { age := 126 }, _, _, 71, _, _, _, _,
  rfl, rfl, by decide +kernel, by decide +kernel, rfl, rfl, rfl, rfl, by decide +kernel, by decide +kernel, by decide +kernel⟩
theorem witness_LoopsAndLimits_5_5 : ∃ (s b u : State) (dom c : Nat) (d : Domain), ∃ (r : LRec) (v : State),
    b = Claims.fresh s ∧ d = b.dom dom ∧ dom < 80 ∧ fixedDomain dom = false ∧
    (c = (if 125 < d.age ∧ (isBayPair dom = true ∨ isNoc dom = true) then min d.ceiling (rateAt (850 - d.age) rate105) else d.ceiling)) ∧
    u = b.setDom dom { d with ceiling := c, tjMax := d.tj } ∧
    (r = b.lrec 3 1 (if dom < 72 then dom / 18 else 0xFF) dom (leBytes 2 d.age ++ intBytes 1 d.tjMax ++ [b8 (c / 10)])) ∧
    v = { u with ledger := { u.ledger with ageing := ringPush 49152 u.ledger.ageing r } } ∧ 125 < d.age ∧ 72 ≤ dom :=
  ⟨domain 77 { age := 126 }, _, _, 77, _, _, _, _,
  rfl, rfl, by decide +kernel, by decide +kernel, rfl, rfl, rfl, rfl, by decide +kernel, by decide +kernel⟩
theorem witness_BringUpSteps_1_2 : ∃ (s b : State), ∃ t,
    b = Claims.fresh s ∧ b.time.lockedSince = some t ∧ t + 1000000000 ≤ b.time.now ∧ b.time.stable = true :=
  ⟨{ up with time := { up.time with lockedSince := some 0, now := 1000000000 } }, _, 0,
  rfl, by decide +kernel, by decide +kernel, by decide +kernel⟩
theorem witness_BringUpSteps_1_3 : ∃ (s b : State), ∃ l,
    b = Claims.fresh s ∧ b.power.st = .run ∧ b.time.hostLocked ≠ l :=
  ⟨up, _, true,
  rfl, by decide +kernel, by decide +kernel⟩
theorem witness_BringUpSteps_1_4 : ∃ (s b : State),
    b = Claims.fresh s ∧ b.power.st = .run ∧ b.ledger.ready = false :=
  ⟨up, _,
  rfl, by decide +kernel, by decide +kernel⟩
theorem witness_BringUpSteps_1_6 : ∃ (s b : State), ∃ (bay : Nat) (good : W16) (q lu : Bool),
    b = Claims.fresh s ∧ b.power.st = .run ∧ bay < 88 ∧ (b.bay bay).tested = false ∧ (b.bay bay).gone = false ∧
    (b.wing (bay / 22)).lost = false :=
  ⟨{ up with bays := [] }, _, 87, 0, true, true,
  rfl, by decide +kernel, by decide +kernel, by decide +kernel, by decide +kernel, by decide +kernel⟩
theorem witness_BringUpSteps_1_7 : ∃ (s b : State), ∃ w,
    b = Claims.fresh s ∧ b.power.st = .run ∧ w < 4 ∧ (b.wing w).fabric = none ∧ (b.wing w).lost = false :=
  ⟨{ up with wings := [] }, _, 3,
  rfl, by decide +kernel, by decide +kernel, by decide +kernel, by decide +kernel⟩
theorem witness_BringUpSteps_1_9 : ∃ (s b : State), ∃ (k n : Nat) (x : Stack),
    b = Claims.fresh s ∧ b.power.st = .run ∧ x = b.stk k ∧ k < 16 ∧ x.seen = false ∧ x.lost = false ∧ x.temp < 110 :=
  ⟨up.setStk 15 { temp := 109 }, _, 15, 0, _,
  rfl, by decide +kernel, rfl, by decide +kernel, by decide +kernel, by decide +kernel, by decide +kernel⟩
theorem witness_BringUpSteps_1_10 : ∃ (s b : State), ∃ (k n : Nat) (x : Stack),
    b = Claims.fresh s ∧ b.power.st = .run ∧ x = b.stk k ∧ k < 16 ∧ x.seen = false ∧ x.lost = false :=
  ⟨up.setStk 15 {}, _, 15, 0, _,
  rfl, by decide +kernel, rfl, by decide +kernel, by decide +kernel, by decide +kernel⟩
theorem witness_BringUpSteps_1_11 : ∃ (s b : State), ∃ w,
    b = Claims.fresh s ∧ b.power.st = .run ∧ w < 4 ∧ (b.wing w).lost = false ∧ (b.wing w).fabric = some true ∧ b.hex.rdyMbx = true ∧
    b.hex.orphans.contains (1 + w) = false ∧ ((List.range 22).any (fun i => b.bayUp (w * 22 + i)) = true) ∧
    ((List.range 4).any (fun i => (b.stk (4 * w + i)).ready) = true) :=
  ⟨up, _, 3,
  rfl, by decide +kernel, by decide +kernel, by decide +kernel, by decide +kernel, by decide +kernel, by decide +kernel, by decide +kernel,
    by decide +kernel⟩
theorem witness_FailuresAreContained_1_2 : ∃ (s b : State), ∃ dom,
    b = Claims.fresh s ∧ b.power.st = .run ∧ 72 ≤ dom ∧ dom < 80 :=
  ⟨up, _, 72,
  rfl, by decide +kernel, by decide +kernel, by decide +kernel⟩
theorem witness_FailuresAreContained_1_2b : ∃ (s b : State), ∃ dom,
    b = Claims.fresh s ∧ b.power.st = .run ∧ 72 ≤ dom ∧ dom < 80 :=
  ⟨up, _, 79,
  rfl, by decide +kernel, by decide +kernel, by decide +kernel⟩
theorem witness_FailuresAreContained_1_3 : ∃ (s b : State), ∃ (w cause : Nat),
    b = Claims.fresh s ∧ b.power.st = .run ∧ w < 4 :=
  ⟨up, _, 3, 2,
  rfl, by decide +kernel, by decide +kernel⟩
theorem witness_FailuresAreContained_1_4 : ∃ (s b : State),
    b = Claims.fresh s ∧ b.power.st = .run ∧ b.hex.failed.contains 0 = false :=
  ⟨up, _,
  rfl, by decide +kernel, by decide +kernel⟩
theorem witness_FailuresAreContained_1_5 : ∃ (s b : State), ∃ (hx : Nat) (moved orph : List Nat) (target : Nat → Option Nat), ∃ u,
    b = Claims.fresh s ∧ b.power.st = .run ∧ 1 ≤ hx ∧ hx ≤ 5 ∧ b.hex.failed.contains hx = false ∧
    (moved = (List.range 5).filter (fun r => b.hex.roles.getD r 0 == hx)) ∧
    (target = (fun r => (roleOrder r).find? (fun c => !(hx :: b.hex.failed).contains c))) ∧
    (orph = moved.filter (fun r => (target r).isNone)) ∧
    (u = (((({ b with hex := { b.hex with failed := hx :: b.hex.failed, roles := (List.range 5).map (fun r => if moved.contains r then (target r).getD (b.hex.roles.getD r 0) else b.hex.roles.getD r 0), orphans := b.hex.orphans ++ orph, moving := b.hex.moving ++ moved.filter (fun r => (target r).isSome && !b.hex.moving.contains r), rdyHexset := b.hex.rdyHexset && orph.isEmpty } } : State).suspectEvent 0xFF 0xFF hx).errRec 0xC 0xFF hx []).degrade)) :=
  ⟨up, _, 5, _, _, _, _,
  rfl, by decide +kernel, by decide +kernel, by decide +kernel, by decide +kernel, rfl, rfl, rfl, rfl⟩
theorem witness_FailuresAreContained_1_6 : ∃ (s b : State), ∃ plane path, ∃ u,
    b = Claims.fresh s ∧ b.power.st = .run ∧ plane < 2 ∧ b.planes.contains (plane, path) = false ∧
    u = (((({ b with planes := (plane, path) :: b.planes } : State).setHealth 5 true).event .ok 0x11 0xFF [b8 plane]).errRec 0xB 0xFF 0xFF ([b8 plane] ++ leBytes 2 path)) ∧
    b.planes.contains (1 - plane, path) = false :=
  ⟨up, _, 1, 9, _,
  rfl, by decide +kernel, by decide +kernel, by decide +kernel, rfl, by decide +kernel⟩
theorem witness_FailuresAreContained_1_7 : ∃ (s b : State), ∃ plane path, ∃ u,
    b = Claims.fresh s ∧ b.power.st = .run ∧ plane < 2 ∧ b.planes.contains (plane, path) = false ∧
    u = (((({ b with planes := (plane, path) :: b.planes } : State).setHealth 5 true).event .ok 0x11 0xFF [b8 plane]).errRec 0xB 0xFF 0xFF ([b8 plane] ++ leBytes 2 path)) ∧
    b.planes.contains (1 - plane, path) = true :=
  ⟨{ up with planes := [(0, 9)] }, _, 1, 9, _,
  rfl, by decide +kernel, by decide +kernel, by decide +kernel, rfl, by decide +kernel⟩
theorem witness_MaintenancePortAnswers_1_1 : ∃ (s b : State),
    b = Claims.fresh s ∧ b.maintUp = true :=
  ⟨domain 76 { on := true }, _,
  rfl, by decide +kernel⟩
theorem witness_MaintenancePortAnswers_1_2 : ∃ (s b : State),
    b = Claims.fresh s ∧ b.maintUp = true :=
  ⟨domain 76 { on := true }, _,
  rfl, by decide +kernel⟩
theorem witness_MaintenancePortAnswers_1_4 : ∃ (s b : State), ∃ u,
    b = Claims.fresh s ∧ b.maintUp = true ∧
    u = b.replyWith (leBytes 4 b.healthView ++ leBytes 4 b.rdyService ++ leBytes 4 b.rdyStack ++ leBytes 4 (b.rdyPort * 256 + b.rdyWing)) :=
  ⟨domain 76 { on := true }, _, _,
  rfl, by decide +kernel, rfl⟩
theorem witness_MaintenancePortAnswers_1_6 : ∃ (s b : State), ∃ w,
    b = Claims.fresh s ∧ b.maintUp = true ∧ w < 4 ∧ b.power.st = .run ∧ (b.wing w).lost = false :=
  ⟨domain 76 { on := true }, _, 3,
  rfl, by decide +kernel, by decide +kernel, by decide +kernel, by decide +kernel⟩
theorem witness_MaintenancePortAnswers_1_8 : ∃ (s b : State), ∃ (w : Nat) (k : Byte),
    b = Claims.fresh s ∧ b.maintUp = true ∧ k ≠ 0xA5 :=
  ⟨domain 76 { on := true }, _, 0x22, 0xA4,
  rfl, by decide +kernel, by decide +kernel⟩
theorem witness_StreamFrontCompletes_1 : ∃ (s a b : State) (c n : Nat) (chk : Check) (x : Stream),
    a = Claims.fresh s ∧ b = a.checked x.wing x.folio chk ∧ a.stream c n = some x ∧ x.state = .running ∧ x.loaded = false ∧
    (a.wing x.wing).drained = false ∧ b.folioFault c x chk = none :=
  ⟨folioState false, _, _, 0, 0, .pass, _,
  rfl, rfl, rfl, by decide +kernel, by decide +kernel, by decide +kernel, by decide +kernel⟩
theorem witness_StreamFrontCompletes_2 : ∃ (s b : State) (c n : Nat) (x : Stream) (bs : List Byte) (cmd r : SCmd),
    b = Claims.fresh s ∧ b.stream c n = some x ∧ b.frontOpen c x = true ∧ x.loaded = true ∧ x.skip = 0 ∧ x.slot < b.folioCount x ∧
    bs = b.bytes (x.folio + 64 * x.slot) 64 ∧ cmd = parseCmd bs ∧ frontOp cmd.op = false ∧
    b.encodingFault c x.wing (headClear bs) cmd = none ∧ restClear bs cmd = true ∧
    (cmd.pred = true → x.flgs.testBit cmd.predIdx ≠ cmd.predSense) ∧ b.lostSpec c x.wing cmd = false ∧
    (cmd.wait = true → x.wait.isSome = true ∨ condHolds cmd.waitCond (b.syncValue c cmd.waitId) cmd.waitValue = true) ∧
    r = resolve cmd (x.cnt cmd.idxCnt) ∧ runPast (b.uses c r) = false ∧ b.windowRoom c x = true :=
  ⟨folioState true, _, 0, 0, _, _, _, _,
  rfl, rfl, by decide +kernel, by decide +kernel, by decide +kernel, by decide +kernel, rfl, rfl, by decide +kernel, by decide +kernel,
    by decide +kernel, by decide +kernel, by decide +kernel, by decide +kernel, rfl, by decide +kernel, by decide +kernel⟩
theorem witness_SetsPlansAndPlacementLoad_2 : ∃ (s b : State) (m : Mbx) (c id : Nat) (bs : List Byte) (p : Plan),
    b = Claims.begun s m ∧ Claims.begins s m { op := 0x0202, buf := true } c ∧ b.anyBuf m = .ok bs ∧ b.planOf c bs = .ok (id, p) ∧
    (b.stk (dpaStack p.scratch)).ready = true ∧ (b.ctx c).plans.length < 8 :=
  ⟨planning, _, own 0 (hostBuf planRecord), 0, 1, planRecord, plan1,
  rfl, ⟨by decide +kernel, by decide +kernel, rfl, by decide +kernel⟩, by decide +kernel, by decide +kernel, by decide +kernel,
    by decide +kernel⟩
theorem witness_CardCommandsComplete_2 : ∃ (s b : State) (m : Mbx) (c handle image len : Nat) (tb : List Byte) (cd : Card) (p : ParamSet),
    b = Claims.begun s m ∧ Claims.begins s m { op := 0x0302, buf := true } c ∧ b.inBuf m 128 = .ok tb ∧
    b.rangeReady image (max 64 len) = true ∧ b.deny c image (max 64 len) = none ∧ b.poisoned image (max 64 len) = false ∧
    b.binding c handle tb (b.bytes image len) len false = .ok (cd, p) ∧ b.cardReady cd = true ∧
    (cd.kind = .key → (b.ctx c).manifest.any (fun x => !x.admits (b.bytes image len)) = false) ∧ b.handleBusy c handle = false ∧
    b.foreign c cd.base cd.capacity = false :=
  ⟨{ upC library with mem := cells 0x500000 revealImage }, _, own 0 (hostBuf revealTemplate), 0, 70, 0x500000, 192, revealTemplate, revealCard, shareSet 5 [],
  rfl, ⟨by decide +kernel, by decide +kernel, rfl, by decide +kernel⟩, by decide +kernel, by decide +kernel, by decide +kernel,
    by decide +kernel, by decide +kernel, by decide +kernel, by decide +kernel, by decide +kernel, by decide +kernel⟩
theorem witness_CardCommandsComplete_5 : ∃ (s b : State) (m : Mbx) (c handle dst cap comp : Nat) (cd : Card) (p : ParamSet) (ring : Bool) (bs : List (List Byte)),
    b = (Claims.begun s m).expandSeed c handle ∧ Claims.begins s m { op := 0x0303 } c ∧ b.card c handle = some cd ∧
    p = (b.pset c cd.set).getD noSet ∧ ring = (cd.kind == .ciphertext || cd.kind == .plaintext) ∧
    (comp = (if ring then wordsOf p.split (cd.level + 1) * p.n * 8 else if cd.kind == .lwe then cd.span p else cd.compBytes p)) ∧
    (ring = true ∨ cd.kind = .lwe ∨ (cd.kind = .share ∧ roleSecret cd.role = false)) ∧ cd.secret = false ∧
    (ring = true → cd.layout = .limb ∧ (p.scheme = 1 → scaleOk cd.scale = true)) ∧ (cd.kind = .plaintext → cd.polys ≤ 1) ∧
    64 + cd.comps * comp ≤ cap ∧ b.cardReady cd = true ∧ b.rangeReady dst (64 + cd.comps * comp) = true ∧ cd.poison = false ∧
    dst + 64 + cd.comps * comp < 2 ^ 40 ∧ b.deny c dst (64 + cd.comps * comp) = none ∧ b.secretHit dst (64 + cd.comps * comp) = false ∧
    ((List.range cd.comps).mapM (fun i => b.get c cd.base (cd.base + i * cd.compBytes p) comp) = .ok bs) :=
  ⟨upC library, _, own 0, 0, 52, 0x500000, 320, _, _, _, _, _,
  rfl, ⟨by decide +kernel, by decide +kernel, rfl, by decide +kernel⟩, rfl, rfl, rfl, rfl, by decide +kernel, by decide +kernel,
    by decide +kernel, by decide +kernel, by decide +kernel, by decide +kernel, by decide +kernel, by decide +kernel, by decide +kernel,
    by decide +kernel, by decide +kernel, rfl⟩
theorem witness_WorkCommandsEnd_1 : ∃ (s b t : State) (c n k : Nat) (x : Stream) (e e1 : Entry),
    b = Claims.fresh s ∧ b.stream c n = some x ∧ b.entry c n k = some e ∧ (bayOp e.cmd.op = true ∨ e.cmd.op = 0x111) ∧
    b.mayRun c n k e = true ∧ b.runEntry c n k x.wing e = .ok t ∧ t.entry c n k = some e1 :=
  ⟨copying, _, _, 0, 0, 0, _, _, _,
  rfl, rfl, rfl, by decide +kernel, by decide +kernel, rfl, rfl⟩
theorem witness_WorkCommandsEnd_2 : ∃ (s b : State) (c n k : Nat) (x : Stream) (e : Entry) (jb : Job) (p : Plan) (q : ParamSet) (y : Prim) (rest : List Prim) (v : Ct),
    b = Claims.fresh s ∧ b.stream c n = some x ∧ b.entry c n k = some e ∧ e.job = some jb ∧ e.phase = .issued ∧ e.fate = none ∧
    jb.prims = y :: rest ∧ (b.ctx c).plans.get jb.plan = some p ∧ e.keys = [] ∧ e.todo = [] ∧ b.hasPieces ⟨c, n, k⟩ = false ∧
    b.pset c p.set = some q ∧ (y.op = 0x10C → b.hex.drbgError = false) ∧
    (jb.inCarrel = false → b.deny c (scratchRange p q jb).1 (scratchRange p q jb).2 = none) ∧ b.primValue c e p q jb y = .ok v :=
  ⟨refreshing, _, 0, 0, 0, _, _, _, _, _, _, _, _,
  rfl, rfl, rfl, rfl, by decide +kernel, by decide +kernel, rfl, rfl, by decide +kernel, by decide +kernel, by decide +kernel, rfl,
    by decide +kernel, by decide +kernel, rfl⟩
theorem witness_CommandsLeaveTheQueue_1 : ∃ (c : Instr) (s t : State),
    exec c s = .next t :=
  ⟨.d3hotEntry .owner, { up with pending := [.d3hotEntry .owner] }, _,
  rfl⟩
theorem witness_StepsKeepMemoryCanonical_1_1 : ∃ s t : State,
    Memory.wf s.mem = true ∧ s.stores = [] ∧ step s = .next t :=
  ⟨{ up with mem := cells 0x20000 [7, 0, 5], pending := [.stagingWrite 0x20000 [0, 9]] }, _,
  by decide +kernel, by decide +kernel, rfl⟩
theorem witness_TenantsAreDeniedOwnerRows_1 : ∃ (s : State) (m : Mbx) (n : Nat) (c : Instr) (op : Nat),
    m.port = .vf n ∧ (Claims.fresh s).mbxOn (portIx m.port) = true ∧ (Claims.fresh s).hex.moving.contains 0 = false ∧
    Claims.ownerRow c = some (m, op) :=
  ⟨upV, ten, 3, .moduleReset ten, 6,
  by decide +kernel, by decide +kernel, by decide +kernel, by decide +kernel⟩
theorem witness_HostRowsLeaveTheMachine_1 : ∃ (c : Instr) (s t : State),
    Claims.hostRow c = true ∧ exec c s = .next t :=
  ⟨.evtHead 1, up, _,
  by decide +kernel, rfl⟩
theorem witness_DeviceStoresStayInTheirRange_1 : ∃ (s t : State) (off : Nat) (d : List Byte) (x : Nat),
    exec (.stagingWrite off d) s = .next t ∧ (∀ a, s.stageDpa off d.length = some a → x < a ∨ a + d.length ≤ x) :=
  ⟨{ up with mem := cells 0x20000 [7, 0, 5] }, _, 0x20001, [9], 0x20003,
  rfl, by decide +kernel⟩
theorem witness_DeviceStoresStayInTheirRange_2 : ∃ (s t : State) (m : Mbx) (c handle dst cap : Nat) (cd : Card) (x : Nat),
    Claims.begins s m { op := 0x0303 } c ∧ (Claims.fresh s).card c handle = some cd ∧ cd.seed = none ∧
    exec (.cardExport m handle dst cap) s = .next t ∧ (x < dst ∨ dst + cap ≤ x) :=
  ⟨upC library, _, own 0, 0, 52, 0x500000, 320, _, 0x500140,
  ⟨by decide +kernel, by decide +kernel, rfl, by decide +kernel⟩, rfl, by decide +kernel, rfl, by decide +kernel⟩
theorem witness_KeysAreNeverExported_1 : ∃ (s b : State) (m : Mbx) (c handle dst cap : Nat) (cd : Card),
    b = Claims.begun s m ∧ Claims.begins s m { op := 0x0303 } c ∧ b.card c handle = some cd ∧ cd.kind = .key :=
  ⟨upC library, _, own 0, 0, 20, 0x500000, 320, _,
  rfl, ⟨by decide +kernel, by decide +kernel, rfl, by decide +kernel⟩, rfl, by decide +kernel⟩
theorem witness_BusyKeysAreNotUnbound_1 : ∃ (s b : State) (m : Mbx) (c n k handle : Nat) (cd : Card) (x : Stream) (e : Entry),
    b = Claims.begun s m ∧ Claims.begins s m { op := 0x0304 } c ∧ handle < 65536 ∧ b.card c handle = some cd ∧ cd.kind = .key ∧
    (n, x) ∈ (b.ctx c).streams ∧ (k, e) ∈ x.window ∧ e.phase ≠ .done ∧ (handle ∈ e.reads ∨ handle ∈ e.writes) :=
  ⟨pulled 0x106 0 (hs 1 2 3 20) .issued, _, own 0, 0, 0, 0, 20, _, (pulled 0x106 0 (hs 1 2 3 20) .issued).ctxs.getD 0 {} |>.streams.getD 0 stream0, { (entryOf (scmd 0x106 0 (hs 1 2 3 20)) .issued) with reads := [1, 2, 20], writes := [3] },
  rfl, ⟨by decide +kernel, by decide +kernel, rfl, by decide +kernel⟩, by decide +kernel, rfl, by decide +kernel, by decide +kernel,
    by decide +kernel, by decide +kernel, by decide +kernel⟩
theorem witness_OtherFlitsAndTimeExchange_6 : ∃ (s b : State) (p window transfer : Nat),
    b = Claims.fresh s ∧ (b.port p).refusedAt.getD (window * 65536 + transfer) 0 + 10000000 ≤ b.time.now :=
  ⟨{ withPort { port1 with refused := [(0, 7)], refusedAt := [(7, 5)] } with time := { running := true, now := 10000005 } }, _, 1, 0, 7,
  rfl, by decide +kernel⟩

theorem witness_MaintenancePortAnswers_1_3 : ∃ (s b : State), ∃ (ma : Feed → Nat → Nat),
    b = Claims.fresh s ∧ b.maintUp = true ∧ (ma = (fun f k => if f.present = false ∨ f.mv = 0 then 0 else b.power.inputMw * k / f.mv)) :=
  ⟨domain 76 { on := true }, _, _,
  rfl, by decide +kernel, rfl⟩
theorem witness_MaintenancePortAnswers_1_10 : ∃ (s b : State), ∃ (a : Nat),
    b = Claims.fresh s ∧ b.maintUp = true ∧ b.power.i3c = none :=
  ⟨domain 76 { on := true }, _, 0x7F,
  rfl, by decide +kernel, by decide +kernel⟩
theorem witness_FrontOfQueueIsExecuted_1 : ∃ (s : State) (c : Instr) (rest : List Instr),
    s.pending = c :: rest :=
  ⟨{ up with pending := [.d3hotEntry .owner, .evtHead 1] }, .d3hotEntry .owner, [.evtHead 1],
  by decide +kernel⟩
theorem witness_EmptyQueueTicks_1 : ∃ s : State,
    s.pending = [] ∧ s.time.running = true ∧ s.stamps.trLen = 0 :=
  ⟨up,
  by decide +kernel, by decide +kernel, by decide +kernel⟩
theorem witness_EmptyQueueTicks_2 : ∃ s : State,
    s.pending = [] ∧ s.time.running = true ∧ s.stamps.trLen ≠ 0 :=
  ⟨{ up with stamps := { trLen := 4096 } },
  by decide +kernel, by decide +kernel, by decide +kernel⟩
theorem witness_EmptyQueueTicks_3 : ∃ s : State,
    s.pending = [] ∧ s.time.running = false :=
  ⟨State.reset,
  by decide +kernel, by decide +kernel⟩
theorem witness_StepsKeepMemoryCanonical_1_2 : ∃ s t : State,
    Memory.wf s.mem = true ∧ s.stores = [] ∧ step s = .next t :=
  ⟨{ up with mem := cells 0x20000 [7, 0, 5] }, _,
  by decide +kernel, by decide +kernel, rfl⟩
theorem witness_ResidueOperationsAreModular_2_1 : ∃ (p : ParamSet) (a b : Ct) (k i j q : Nat) (el : Ct → Nat),
    q = p.prime i ∧ 0 < q ∧ i ≤ a.level ∧ i ≤ b.level ∧ (el = (fun c => ((c.comps.getD k []).getD i []).getD j 0)) ∧ k < a.comps.length ∧
    k < b.comps.length ∧ i < (a.comps.getD k []).length ∧ i < (b.comps.getD k []).length ∧ j < ((a.comps.getD k []).getD i []).length ∧
    j < ((b.comps.getD k []).getD i []).length :=
  ⟨set16, someCt 3, someCt 96, 1, 0, 15, 97, _,
  by decide +kernel, by decide +kernel, by decide +kernel, by decide +kernel, rfl, by decide +kernel, by decide +kernel, by decide +kernel,
    by decide +kernel, by decide +kernel, by decide +kernel⟩
theorem witness_ForwardTransformEvaluates_1 : ∃ (q n i : Nat) (a : List Nat),
    0 < q ∧ i < 2 ^ n :=
  ⟨97, 4, 15, List.range 16,
  by decide +kernel, by decide +kernel⟩
theorem witness_TransformsInvert_1 : ∃ (q n : Nat) (a : List Nat),
    Nat.Prime q ∧ 2 < q ∧ n ≤ 16 ∧ psi q n ^ 2 ^ n % q = q - 1 ∧ a.length = 2 ^ n ∧ (∀ x ∈ a, x < q) :=
  ⟨97, 4, List.range 16,
  (by norm_num), by decide +kernel, by decide +kernel, by decide +kernel, by decide +kernel, by decide +kernel⟩
/-- The last byte of the last chunk with the largest coordinates, which is a device address (R278, R280). -/
theorem witness_AddressesDecodeOneToOne : ∃ a stack pc bank row chunk byte : Nat, a < 2 ^ 40 ∧ stack < 16 ∧ pc < 64 ∧ bank < 16 ∧
    row < 2 ^ 16 ∧ chunk < 4 ∧ byte < 256 ∧ a = rowDpa stack pc bank row chunk + byte :=
  ⟨rowDpa 15 63 15 65535 3 + 255, 15, 63, 15, 65535, 3, 255, by decide +kernel, by decide, by decide, by decide, by decide, by decide, by decide, rfl⟩
/-- The last bay, mailbox and port that the reset statement names (R2, R347). -/
theorem witness_ResetState : ∃ n w i p : Nat, n < 17 ∧ w < 4 ∧ i < 22 ∧ p < 8 := ⟨16, 3, 21, 7, by decide, by decide, by decide, by decide⟩
/-- A read of a tuple of registers while RUN. -/
theorem witness_registers_in_run : ∃ s b : State, b = Claims.fresh s ∧ b.power.st = .run ∧ ∃ j, j < 256 := ⟨up, _, rfl, by decide, 255, by decide⟩
theorem witness_WorkCommandsIssue_1 : Premises 0x100 anyImm chkAdd :=
  .of (s := pulled 0x100 0 (hs 1 2 3 0)) (by decide +kernel)
theorem witness_WorkCommandsIssue_2 : Premises 0x101 anyImm chkAdd :=
  .of (s := pulled 0x101 0 (hs 1 2 3 0)) (by decide +kernel)
theorem witness_WorkCommandsIssue_3 : Premises 0x102 anyImm chkNeg :=
  .of (s := pulled 0x102 0 (hs 1 0 3 0)) (by decide +kernel)
theorem witness_WorkCommandsIssue_4 : Premises 0x103 anyImm (chkPlain false) :=
  .of (s := pulled 0x103 0 (hs 1 4 3 0)) (by decide +kernel)
theorem witness_WorkCommandsIssue_5 : Premises 0x104 anyImm (chkPlain false) :=
  .of (s := pulled 0x104 0 (hs 1 4 3 0)) (by decide +kernel)
theorem witness_WorkCommandsIssue_6 : Premises 0x105 anyImm (chkPlain true) :=
  .of (s := pulled 0x105 0 (hs 1 4 3 0)) (by decide +kernel)
theorem witness_WorkCommandsIssue_7 : Premises 0x106 anyImm chkMul :=
  .of (s := pulled 0x106 0 (hs 1 2 3 20)) (by decide +kernel)
theorem witness_WorkCommandsIssue_8 : Premises 0x107 anyImm (chkSwitch 3 kRelin) :=
  .of (s := pulled 0x107 0 (hs 5 0 3 20)) (by decide +kernel)
theorem witness_WorkCommandsIssue_9 : Premises 0x108 anyImm (chkSwitch 2 kGalois) :=
  .of (s := pulled 0x108 0 (hs 1 0 3 23)) (by decide +kernel)
theorem witness_WorkCommandsIssue_10 : Premises 0x109 anyImm chkRoth :=
  .of (s := pulled 0x109 1 (hs 1 0 3 23)) (by decide +kernel)
theorem witness_WorkCommandsIssue_11 : Premises 0x10A anyImm chkRescale :=
  .of (s := pulled 0x10A 0 (hs 6 0 3 0)) (by decide +kernel)
theorem witness_WorkCommandsIssue_12 : Premises 0x10B anyImm chkModdrop :=
  .of (s := pulled 0x10B 2 (hs 1 0 3 0)) (by decide +kernel)
theorem witness_WorkCommandsIssue_13 : Premises 0x10C anyImm chkModraise :=
  .of (s := pulled 0x10C 4 (hs 7 0 3 0)) (by decide +kernel)
theorem witness_WorkCommandsIssue_14 : Premises 0x10D anyImm chkBconv :=
  .of (s := pulled 0x10D (2 * 2 ^ 8 + 2 * 2 ^ 16 + 2 * 2 ^ 24) (hs 10 0 11 0)) (by decide +kernel)
theorem witness_WorkCommandsIssue_15 : Premises 0x10E anyImm chkLin :=
  .of (s := pulled 0x10E (2 + 1 * 2 ^ 8) (hs 1 14 3 23)) (by decide +kernel)
theorem witness_WorkCommandsIssue_16 : Premises 0x10F anyImm chkEncode :=
  .of (s := pulled 0x10F (0x4270000000000000 + 4 * 2 ^ 64) (hs 43 0 15 0)) (by decide +kernel)
theorem witness_WorkCommandsIssue_17 : Premises 0x110 (fun i => bits i 72 2 == 0) chkScale :=
  .of (s := pulled 0x110 0x3FF0000000000000 (hs 1 0 3 0)) (by decide +kernel)
theorem witness_WorkCommandsIssue_18 : Premises 0x110 (fun i => bits i 72 2 == 1) chkScale :=
  .of (s := pulled 0x110 (3 + 2 ^ 72) (hs 1 0 3 0)) (by decide +kernel)
theorem witness_WorkCommandsIssue_19 : Premises 0x110 (fun i => bits i 72 2 == 2) chkScale :=
  .of (s := pulled 0x110 (3 + 2 * 2 ^ 72) (hs 8 0 9 0)) (by decide +kernel)
theorem witness_WorkCommandsIssue_20 : Premises 0x111 anyImm chkRefresh :=
  .of (s := pulled 0x111 1 (hs 1 0 3 0) .waiting) (by decide +kernel)
theorem witness_WorkCommandsIssue_21 : Premises 0x200 anyImm chkExtract :=
  .of (s := pulled 0x200 (2 ^ 16 + 2 * 2 ^ 32) (hs 7 0 40 29)) (by decide +kernel)
theorem witness_WorkCommandsIssue_22 : Premises 0x201 anyImm chkEval :=
  .of (s := pulled 0x201 1 (hs 40 42 41 30)) (by decide +kernel)
theorem witness_WorkCommandsIssue_23 : Premises 0x202 anyImm chkPack :=
  .of (s := pulled 0x202 (0x4270000000000000 + 1 * 2 ^ 64) (hs 41 25 3 24)) (by decide +kernel)
theorem witness_WorkCommandsIssue_24 : Premises 0x300 anyImm chkSplit :=
  .of (s := pulled 0x300 (60 * 2 ^ 8) (hs 1 0 3 50)) (by decide +kernel)
theorem witness_WorkCommandsIssue_25 : Premises 0x301 (fun i => shPhase i == 0) chkMulPrepare :=
  .of (s := pulled 0x301 0 (hs 50 51 52 54)) (by decide +kernel)
theorem witness_WorkCommandsIssue_26 : Premises 0x301 (fun i => shPhase i == 1) chkMulFinish :=
  .of (s := pulled 0x301 1 (hs 52 53 50 55)) (by decide +kernel)
theorem witness_WorkCommandsIssue_27 : Premises 0x302 anyImm chkTriple :=
  .of (s := pulled 0x302 0 (hs 8 8 67 9)) (by decide +kernel)
theorem witness_WorkCommandsIssue_28 : Premises 0x303 (fun i => shPhase i == 0) chkCmpOpen :=
  .of (s := pulled 0x303 0 (hs 60 61 62 63)) (by decide +kernel)
theorem witness_WorkCommandsIssue_29 : Premises 0x303 (fun i => shPhase i == 1) chkCmpReveal :=
  .of (s := pulled 0x303 1 (hs 63 65 66 64)) (by decide +kernel)
theorem witness_WorkCommandsIssue_30 : Premises 0x303 (fun i => shPhase i == 2) chkCmpFinish :=
  .of (s := pulled 0x303 2 (hs 63 8 68 0)) (by decide +kernel)
theorem witness_WorkCommandsIssue_31 : Premises 0x304 (fun i => shPhase i == 0) chkReshare :=
  .of (s := pulled 0x304 (20 * 2 ^ 8) (hs 50 0 52 0)) (by decide +kernel)
theorem witness_WorkCommandsIssue_32 : Premises 0x304 (fun i => shPhase i == 1) chkJoinAdd :=
  .of (s := pulled 0x304 1 (hs 1 56 57 0)) (by decide +kernel)
theorem witness_WorkCommandsIssue_33 : Premises 0x400 anyImm (chkTransform fwdPair (fun _ i => i == 0) false) :=
  .of (s := pulled 0x400 0 (hs 10 0 12 0)) (by decide +kernel)
theorem witness_WorkCommandsIssue_34 : Premises 0x401 anyImm (chkTransform invPair (fun _ i => i == 0) false) :=
  .of (s := pulled 0x401 0 (hs 12 0 10 0)) (by decide +kernel)
theorem witness_WorkCommandsIssue_35 : Premises 0x402 anyImm (chkTransform (fun a d => a == d) (fun p i => decide (i % 2 = 1 ∧ i < 2 * p.n)) true) :=
  .of (s := pulled 0x402 5 (hs 10 0 13 0)) (by decide +kernel)
theorem witness_WorkCommandsIssue_36 : Premises 0x403 anyImm chkVc :=
  .of (s := pulled 0x403 (6 + 1 * 2 ^ 5) (hs 44 44 45 0)) (by decide +kernel)
theorem witness_WorkCommandsIssue_37 : Premises 0x500 (fun i => bits i 0 2 == 0) (chkCopy false) :=
  .of (s := pulled 0x500 0 (hs 44 0 45 0)) (by decide +kernel)
theorem witness_WorkCommandsIssue_38 : Premises 0x500 (fun i => bits i 0 2 == 1) (chkCopy true) :=
  .of (s := pulled 0x500 1 (hs 44 44 45 0)) (by decide +kernel)
theorem witness_WorkCommandsIssue_39 : Premises 0x501 (fun i => bits i 0 2 == 0) (chkCopy false) :=
  .of (s := pulled 0x501 0 (hs 44 0 45 0)) (by decide +kernel)
theorem witness_WorkCommandsIssue_40 : Premises 0x501 (fun i => bits i 0 2 == 1) (chkIndexed 1) :=
  .of (s := pulled 0x501 1 (hs 44 46 45 0)) (by decide +kernel)
theorem witness_WorkCommandsIssue_41 : Premises 0x501 (fun i => bits i 0 2 == 2) (chkIndexed 2) :=
  .of (s := pulled 0x501 2 (hs 44 46 45 0)) (by decide +kernel)
theorem witness_WorkCommandsIssue_42 : Premises 0x501 (fun i => bits i 0 2 == 3) (chkIndexed 3) :=
  .of (s := pulled 0x501 3 (hs 44 46 45 0)) (by decide +kernel)
theorem witness_WorkCommandsIssue_43 : Premises 0x012 anyImm (fun s c _ e => s.chkArrive c e) :=
  .of (s := pulled 0x012 2 [none, none, none, none] .waiting) (by decide +kernel)

end Sys2Proof.Tests
end

section
/-! Reset, and what the host's register and staging-window accesses do (00_scope.md). -/

namespace Sys2Proof

/-- A table that lists a value for each key below `n` reads that value there. -/
theorem Tbl.getD_map_range {α : Type} (n i : Nat) (f : Nat → α) (d : α) (h : i < n) :
    Tbl.getD ((List.range n).map fun k => (k, f k)) i d = f i := by
  induction n with
  | zero => omega
  | succ n ih =>
    rw [List.range_succ, List.map_append]
    by_cases hi : i < n
    · rw [Machine.Tbl.getD_append_left, ih hi]
      simp; omega
    · obtain rfl : i = n := by omega
      rw [Machine.Tbl.getD_append_right]
      · simp [Tbl.getD, Tbl.get]
      · simp

end Sys2Proof

namespace Sys2Proof.Machine

/-! What reset leaves (R2, R3, R354, R401) -/

theorem State.resetOf_mb (g : Grade) {n : Nat} (h : n < 17) : (State.resetOf g).mb n = {} :=
  Sys2Proof.Tbl.getD_map_range 17 n (fun _ => ({} : Mailbox)) {} h

theorem State.resetOf_bay (g : Grade) {i : Nat} (h : i < 88) : (State.resetOf g).bay i = Bay.ofGrade g i :=
  Sys2Proof.Tbl.getD_map_range 88 i (Bay.ofGrade g) {} h

theorem State.resetOf_port (g : Grade) {p : Nat} (h : p < 8) :
    (State.resetOf g).port p = { present := decide (p < g.ports) } :=
  Sys2Proof.Tbl.getD_map_range 8 p (fun p => ({ present := decide (p < g.ports) } : Port)) {} h

/-- A wing's first bays are the enabled ones, as many as its grade has (Table 0.1). -/
theorem Bay.ofGrade_enabled_iff (g : Grade) (i : Nat) : (Bay.ofGrade g i).kind = .enabled ↔ i % 22 < g.bays := by
  by_cases h : i % 22 < g.bays
  · simp [Bay.ofGrade, h]
  · by_cases h2 : i % 22 < g.bays + 2 <;> simp [Bay.ofGrade, h, h2]

/-- Grade BX has no lookup units (Table 0.1). -/
theorem Bay.ofGrade_bx_lu (i : Nat) : (Bay.ofGrade .bx i).lu = false := by
  simp only [Bay.ofGrade]
  split
  · rfl
  · split <;> rfl

/-- Settles O47: the tables of units that reset lists are read by key; every other field stands at its reset value. -/
theorem resetState : Obligations.ResetState := by
  refine ⟨rfl, rfl, rfl, fun n hn => State.resetOf_mb .ax hn, rfl, rfl, rfl, rfl, rfl, rfl, rfl, rfl, rfl, rfl, rfl,
    fun g w i hw hi => ?_, fun g p hp => congrArg Port.present (State.resetOf_port g hp)⟩
  have slot : (22 * w + i) % 22 = i := by omega
  rw [State.resetOf_bay g (by omega), Bay.ofGrade_enabled_iff, slot]
  exact ⟨Iff.rfl, fun hg => hg ▸ Bay.ofGrade_bx_lu _⟩

/-! Register writes (R10, R348, R354) -/

/-- A command's effect starts from the state with no store of the step outstanding. -/
theorem act_fresh (s : State) (f : State → State) : act s f = .next (s.commit (f (Claims.fresh s))) := rfl

theorem State.hostUp_of_run {s : State} (h : s.power.st = .run) : s.hostUp = true := by simp [State.hostUp, h]

/-- While the mailbox is enabled, its bases and sizes take no write (R355). -/
theorem State.mbxWrite_enabled (s : State) (n r : Nat) (v : W64) (h : (s.mb n).enable = true) (hr : r < 0x14) :
    s.mbxWrite n r v = s := by
  have h1 : r ≠ 0x28 := by omega
  have h2 : r ≠ 0x2C := by omega
  simp [State.mbxWrite, h, h1, h2]

theorem State.mbxWrite_sqBase (s : State) (n : Nat) (v : W64) (h : (s.mb n).enable = false) :
    s.mbxWrite n 0 v = s.setMb n { s.mb n with sqBase := v &&& ~~~0xFFF#64 } := by
  simp [State.mbxWrite, put64, h]

theorem State.mbxWrite_cqBase (s : State) (n : Nat) (v : W64) (h : (s.mb n).enable = false) :
    s.mbxWrite n 8 v = s.setMb n { s.mb n with cqBase := v &&& ~~~0xFFF#64 } := by
  simp [State.mbxWrite, put64, h]

theorem State.mbxWrite_size (s : State) (n : Nat) (v : W64) (h : (s.mb n).enable = false) :
    s.mbxWrite n 0x10 v = s.setMb n { s.mb n with size := v.truncate 32 &&& 0xF0F#32 } := by
  simp [State.mbxWrite, h]

/-- Below 0x2000 the owner's space has no writable register. -/
theorem registerWrite_low (s : State) (v : W64) (off : Nat) (h : off < 0x2000) :
    exec (.registerWrite .owner off v) s = .next (s.commit (Claims.fresh s)) := by
  have notOwn : ∀ reg, 0x2000 ≤ reg → off ≠ reg := by omega
  have notMbx : ¬ 0x10000 ≤ off := by omega
  have notMsix : ¬ 0xF00000 ≤ off := by omega
  simp [exec, execRegisterWrite, act_fresh, notOwn, notMbx, notMsix]

/-- The host's last read returned these bytes, as a poisoned TLP or not. -/
def State.hostReads (s : State) (d : List Byte) (poison : Bool) : State :=
  { s with host := { s.host with readData := d, readPoison := poison } }

section
variable {s : State} (run : (Claims.fresh s).power.st = .run)
include run

/-- The MBX_ block of a port stands at 0x10000 of the owner's registers and at 0 of a VF's (Table 15.7). -/
theorem registerWrite_mbxBlock (v : W64) (p : MPort) (k r : Nat) (hk : k = if p = .owner then 0x10000 else 0) (hr : r < 0x40) :
    exec (.registerWrite p (k + r) v) s = .next (s.commit ((Claims.fresh s).mbxWrite (portIx p) r v)) := by
  subst hk
  simp only [exec, execRegisterWrite, act_fresh, State.hostUp_of_run run]
  cases p with
  | owner =>
    have notEvt : ¬ (0x10000 + r = 0x2008 ∨ 0x10000 + r = 0x200C) := by omega
    have inBlock : 0x10000 ≤ 0x10000 + r ∧ 0x10000 + r < 0x10040 := by omega
    simp [notEvt, inBlock, portIx]
  | vf n =>
    have inBlock : r < 0x1000 := by omega
    simp [inBlock, portIx]

theorem registerWrite_vfMsix (v : W64) (n j : Nat) (hj : j < 256) :
    exec (.registerWrite (.vf n) (0x8000 + 4 * j) v) s = .next (s.commit ((Claims.fresh s).msixWrite n j (v.truncate 32))) := by
  have notMbx : ¬ 0x8000 + 4 * j < 0x1000 := by omega
  have inTable : 0x8000 + 4 * j < 0x8400 ∧ (0x8000 + 4 * j) % 4 = 0 := by omega
  simp [exec, execRegisterWrite, act_fresh, State.hostUp_of_run run, notMbx, inTable]

theorem registerWrite_ownerMsix (v : W64) (j : Nat) (hj : j < 256) :
    exec (.registerWrite .owner (0xF00000 + 4 * j) v) s = .next (s.commit ((Claims.fresh s).msixWrite 0 j (v.truncate 32))) := by
  have notOwn : ∀ off, off < 0xF00000 → 0xF00000 + 4 * j ≠ off := by omega
  have notMbx : ¬ 0xF00000 + 4 * j < 0x10040 := by omega
  have inTable : 0xF00000 + 4 * j < 0xF00400 ∧ (0xF00000 + 4 * j) % 4 = 0 := by omega
  simp [exec, execRegisterWrite, act_fresh, State.hostUp_of_run run, notOwn, notMbx, inTable]

theorem registerWrite_evtBase (v : W64) : exec (.registerWrite .owner 0x2008 v) s = .next (s.commit
    { Claims.fresh s with evt := { (Claims.fresh s).evt with base := v &&& ~~~0xFFF#64 } }) := by
  simp [exec, execRegisterWrite, act_fresh, State.hostUp_of_run run, put64]

theorem registerWrite_irqMask (v : W64) : exec (.registerWrite .owner 0x40004 v) s = .next (s.commit
    { Claims.fresh s with host := { (Claims.fresh s).host with irqMask := v.truncate 32 &&& 0x1F#32 } }) := by
  simp [exec, execRegisterWrite, act_fresh, State.hostUp_of_run run]

theorem registerWrite_stpNextId (v : W64) : exec (.registerWrite .owner 0x30004 v) s = .next (s.commit
    { Claims.fresh s with stamps := { (Claims.fresh s).stamps with nextId := v.truncate 32 } }) := by
  simp [exec, execRegisterWrite, act_fresh, State.hostUp_of_run run]

theorem registerWrite_stpPeriod (v : W64) : exec (.registerWrite .owner 0x30008 v) s = .next (s.commit
    { Claims.fresh s with stamps := { (Claims.fresh s).stamps with period := v &&& 0xFFFFFFFFFF#64 } }) := by
  simp [exec, execRegisterWrite, act_fresh, State.hostUp_of_run run, put64]

theorem registerWrite_stpCtrl (v : W64) : exec (.registerWrite .owner 0x30000 v) s = .next (s.commit
    ((Claims.fresh s).stpCtrl (v.truncate 32))) := by
  simp [exec, execRegisterWrite, act_fresh, State.hostUp_of_run run]

/-! The staging window (R349, R167) -/

theorem stagingRead_unmapped {off len : Nat} (hd : (Claims.fresh s).stageDpa off len = none) :
    exec (.stagingRead off len) s = .next (s.commit ((Claims.fresh s).hostReads (List.replicate len 0xFF) false)) := by
  simp [exec, execStagingRead, act_fresh, State.hostUp_of_run run, hd, State.hostReads]

/-- What a read of the mapped window returns, check by check. -/
theorem stagingRead_mapped {off len a : Nat} (hd : (Claims.fresh s).stageDpa off len = some a) :
    exec (.stagingRead off len) s = .next (s.commit
      (if (Claims.fresh s).stageServes a len = false ∨ (Claims.fresh s).secretSlotHit a len = true then
        (Claims.fresh s).hostReads (List.replicate len 0xFF) false
      else if (Claims.fresh s).secretHit a len = true then ((Claims.fresh s).count 2 1).hostReads (List.replicate len 0xFF) false
      else if (Claims.fresh s).poisoned a len = true then (Claims.fresh s).hostReads (List.replicate len 0xFF) true
      else (Claims.fresh s).hostReads ((Claims.fresh s).bytes a len) false)) := by
  simp [exec, execStagingRead, act_fresh, State.hostUp_of_run run, hd, State.hostReads]

theorem stagingWrite_unmapped {off : Nat} {d : List Byte} (hd : (Claims.fresh s).stageDpa off d.length = none) :
    exec (.stagingWrite off d) s = .next (s.commit (Claims.fresh s)) := by
  simp [exec, execStagingWrite, act_fresh, State.hostUp_of_run run, hd]

/-- What a write of the mapped window does, check by check. -/
theorem stagingWrite_mapped {off a : Nat} {d : List Byte} (hd : (Claims.fresh s).stageDpa off d.length = some a) :
    exec (.stagingWrite off d) s = .next (s.commit
      (if (Claims.fresh s).stageServes a d.length = false then Claims.fresh s
      else if (Claims.fresh s).secretHit a d.length = true then (Claims.fresh s).count 2 1
      else (Claims.fresh s).outWrite a d)) := by
  simp [exec, execStagingWrite, act_fresh, State.hostUp_of_run run, hd]

end

/-- Settles O32: each register by the lemma about its offset, the window by the checks of its access in their order. -/
theorem registerAndStagingAccesses : Obligations.RegisterAndStagingAccesses := by
  refine ⟨?registers, ?reads, ?writes⟩
  case registers =>
    rintro s b v rfl run
    refine ⟨registerWrite_evtBase run v, registerWrite_irqMask run v, registerWrite_stpNextId run v, registerWrite_stpPeriod run v,
      registerWrite_stpCtrl run v, fun p k hk => ⟨fun off => ⟨?_, ?_, ?_⟩, fun on r hr => ?_⟩, registerWrite_vfMsix run v,
      registerWrite_ownerMsix run v, registerWrite_low s v⟩
    · exact State.mbxWrite_sqBase _ _ v off ▸ registerWrite_mbxBlock run v p k 0 hk (by decide)
    · exact State.mbxWrite_cqBase _ _ v off ▸ registerWrite_mbxBlock run v p k 8 hk (by decide)
    · exact State.mbxWrite_size _ _ v off ▸ registerWrite_mbxBlock run v p k 0x10 hk (by decide)
    · rw [registerWrite_mbxBlock run v p k r hk (by omega), State.mbxWrite_enabled _ _ r v on hr]
  case reads =>
    rintro s b off len rfl run
    refine ⟨stagingRead_unmapped run, fun a hd => ?_⟩
    rw [stagingRead_mapped run hd]
    refine ⟨fun unserved => ?_, fun served slot => ?_, fun served slot secret => ?_, fun served slot secret poison => ?_,
      fun served slot secret clean => ?_⟩
    · simp [unserved, State.hostReads]
    · simp [slot, State.hostReads]
    · simp [served, slot, secret, State.hostReads]
    · simp [served, slot, secret, poison, State.hostReads]
    · simp [served, slot, secret, clean, State.hostReads]
  case writes =>
    rintro s b off d rfl run
    refine ⟨stagingWrite_unmapped run, fun a hd => ?_⟩
    rw [stagingWrite_mapped run hd]
    refine ⟨fun unserved => ?_, fun served secret => ?_, fun served plain => ?_⟩
    · simp [unserved]
    · simp [served, secret]
    · simp [served, plain]

end Sys2Proof.Machine
end

section
/-! Modular arithmetic and the transforms (R16, R19 to R26, R110): powers, inverses, polynomial values, the transform pair. -/

namespace Sys2Proof.Machine

/-! Powers and inverses modulo q -/

theorem powModF_eq (q : Nat) : ∀ (fuel a e : Nat), e < 2 ^ fuel → powModF fuel q a e = a ^ e % q := by
  intro fuel
  induction fuel with
  | zero =>
    intro a e he
    obtain rfl : e = 0 := by simpa using he
    simp [powModF]
  | succ f ih =>
    intro a e he
    have half : powModF f q (a * a % q) (e / 2) = (a ^ 2) ^ (e / 2) % q := by
      rw [ih _ _ (by omega), ← Nat.pow_mod, pow_two]
    simp only [powModF, half]
    split
    · next odd =>
      have split : e = 2 * (e / 2) + 1 := by omega
      conv_rhs => rw [split, pow_succ, pow_mul, mul_comm]
      exact Nat.mul_mod_mod _ _ _
    · next even =>
      have split : e = 2 * (e / 2) := by omega
      conv_rhs => rw [split, pow_mul]

theorem powMod_eq (q a e : Nat) : powMod q a e = a ^ e % q := by
  rw [powMod, powModF_eq _ _ _ _ Nat.lt_log2_self, ← Nat.pow_mod]

theorem egcd_done (f r0 : Nat) (s0 s1 : Int) : egcd (f + 1) r0 0 s0 s1 = (r0, s0) := rfl

theorem egcd_step {r1 : Nat} (h : r1 ≠ 0) (f r0 : Nat) (s0 s1 : Int) :
    egcd (f + 1) r0 r1 s0 s1 = egcd f r1 (r0 % r1) s1 (s0 - (r0 / r1 : Nat) * s1) := by
  rw [egcd, if_neg h]

/-- A coefficient that carries a to the remainder of two numbers, from those that carry a to each. -/
theorem egcd_coefficient {m : Nat} {a : ZMod m} {r0 r1 : Nat} {s0 s1 : Int} (h0 : s0 * a = r0) (h1 : s1 * a = r1) :
    ((s0 - (r0 / r1 : Nat) * s1 : Int) : ZMod m) * a = (r0 % r1 : Nat) := by
  have whole : ((r1 * (r0 / r1) + r0 % r1 : Nat) : ZMod m) = r0 := congrArg _ (Nat.div_add_mod r0 r1)
  rw [Int.cast_sub, Int.cast_mul, Int.cast_natCast]
  rw [Nat.cast_add, Nat.cast_mul] at whole
  linear_combination h0 - ((r0 / r1 : Nat) : ZMod m) * h1 - whole

/-- Two Euclid steps halve the second number. -/
theorem two_mul_mod_mod_lt {r0 r1 : Nat} (h1 : r1 ≠ 0) (h2 : r0 % r1 ≠ 0) : 2 * (r1 % (r0 % r1)) < r1 := by
  have le : r0 % r1 ≤ r1 := (Nat.mod_lt _ (Nat.pos_of_ne_zero h1)).le
  have rest := Nat.mod_lt r1 (Nat.pos_of_ne_zero h2)
  have parts := Nat.div_add_mod r1 (r0 % r1)
  have once : r0 % r1 ≤ (r0 % r1) * (r1 / (r0 % r1)) := Nat.le_mul_of_pos_right _ (Nat.div_pos le (Nat.pos_of_ne_zero h2))
  omega

/-- The extended Euclid step answers the gcd with fuel of two steps for each bit of the second number, and the coefficient that it
answers carries a to the gcd. -/
theorem egcd_spec {m : Nat} (a : ZMod m) (k r0 r1 : Nat) (s0 s1 : Int) (hr : r1 < 2 ^ k) (h0 : s0 * a = r0) (h1 : s1 * a = r1) :
    (egcd (2 * k + 1) r0 r1 s0 s1).1 = Nat.gcd r0 r1 ∧
      (egcd (2 * k + 1) r0 r1 s0 s1).2 * a = ((egcd (2 * k + 1) r0 r1 s0 s1).1 : ZMod m) := by
  induction k generalizing r0 r1 s0 s1 with
  | zero =>
    obtain rfl : r1 = 0 := by simpa using hr
    exact ⟨(Nat.gcd_zero_right r0).symm, h0⟩
  | succ k ih =>
    have two : 2 * (k + 1) + 1 = 2 * k + 1 + 1 + 1 := by ring
    rw [two]
    by_cases z1 : r1 = 0
    · subst z1
      exact ⟨(Nat.gcd_zero_right r0).symm, h0⟩
    rw [egcd_step z1]
    by_cases z2 : r0 % r1 = 0
    · rw [z2]
      exact ⟨(Nat.gcd_eq_right (Nat.dvd_of_mod_eq_zero z2)).symm, h1⟩
    · rw [egcd_step z2]
      have same : Nat.gcd (r0 % r1) (r1 % (r0 % r1)) = Nat.gcd r0 r1 := by
        rw [Nat.gcd_comm, ← Nat.gcd_rec, ← Nat.gcd_rec, Nat.gcd_comm]
      have smaller : r1 % (r0 % r1) < 2 ^ k := by
        have := two_mul_mod_mod_lt z1 z2
        rw [pow_succ] at hr
        omega
      exact same ▸ ih _ _ _ _ smaller (egcd_coefficient h0 h1) (egcd_coefficient h1 (egcd_coefficient h0 h1))

/-- `invMod` inverts what has an inverse. -/
theorem invMod_mul_cancel {m a : Nat} (hm : 0 < m) (h : Nat.Coprime a m) : (invMod m a : ZMod m) * a = 1 := by
  have fuel : 2 * Nat.log2 m + 3 = 2 * (Nat.log2 m + 1) + 1 := by ring
  obtain ⟨hgcd, hcoef⟩ := egcd_spec (m := m) a (Nat.log2 m + 1) (a % m) m 1 0 Nat.lt_log2_self (by simp) (by simp)
  have one : Nat.gcd (a % m) m = 1 := by rw [← Nat.gcd_rec, Nat.gcd_comm]; exact h
  rw [one] at hgcd
  simp only [invMod, fuel, hgcd, if_true]
  have nonneg := Int.emod_nonneg (egcd (2 * (Nat.log2 m + 1) + 1) (a % m) m 1 0).2 (b := (m : Int)) (by omega)
  have cast : ∀ z : Int, 0 ≤ z → ((z.toNat : Nat) : ZMod m) = (z : ZMod m) := fun z hz => by
    rw [← Int.cast_natCast, Int.toNat_of_nonneg hz]
  rw [cast _ nonneg, ZMod.intCast_mod, hcoef, hgcd, Nat.cast_one]

/-! Values of polynomials -/

theorem horner_lt {q : Nat} (hq : 0 < q) (w : Nat) (a : List Nat) : horner q w a < q := by
  cases a with
  | nil => exact hq
  | cons x xs => exact Nat.mod_lt _ hq

/-- Modulo q, `horner` is the value of the polynomial with the coefficients a. -/
theorem horner_cast (q w : Nat) (a : List Nat) :
    (horner q w a : ZMod q) = ∑ k ∈ Finset.range a.length, (a.getD k 0 : ZMod q) * (w : ZMod q) ^ k := by
  induction a with
  | nil => simp [horner]
  | cons x xs ih =>
    have head : horner q w (x :: xs) = (x + w * horner q w xs) % q := rfl
    rw [head, ZMod.natCast_mod, List.length_cons, Finset.sum_range_succ']
    push_cast
    rw [ih, Finset.mul_sum, add_comm]
    simp only [List.getD_cons_succ, List.getD_cons_zero, pow_zero, mul_one, pow_succ]
    congr 1
    exact Finset.sum_congr rfl fun k _ => by ring

theorem nttFwd_length (q n : Nat) (a : List Nat) : (nttFwd q n a).length = 2 ^ n := by simp [nttFwd]

theorem nttFwd_getD {q n i : Nat} (a : List Nat) (hi : i < 2 ^ n) :
    (nttFwd q n a).getD i 0 = horner q (powMod q (psi q n) (2 * brv n i + 1)) a := by
  simp [nttFwd, List.getD_eq_getElem?_getD, hi]

/-- Element i of the forward transform is the polynomial's value at an odd power of the root (R24). -/
theorem nttFwd_cast {q n i : Nat} (a : List Nat) (hi : i < 2 ^ n) :
    ((nttFwd q n a).getD i 0 : ZMod q)
      = ∑ k ∈ Finset.range a.length, (a.getD k 0 : ZMod q) * (psi q n : ZMod q) ^ ((2 * brv n i + 1) * k) := by
  rw [nttFwd_getD a hi, horner_cast]
  exact Finset.sum_congr rfl fun k _ => by rw [powMod_eq, ZMod.natCast_mod, Nat.cast_pow, ← pow_mul]

/-- Numbers below q are equal when they are equal modulo q. -/
theorem eq_of_lt_of_cast_eq {q x y : Nat} (hx : x < q) (hy : y < q) (h : (x : ZMod q) = y) : x = y :=
  Nat.ModEq.eq_of_lt_of_lt ((ZMod.natCast_eq_natCast_iff _ _ _).1 h) hx hy

/-- Settles O59: `horner` is the polynomial's value, and its point is the power of the root that R24 names. -/
theorem forwardTransformEvaluates : Obligations.ForwardTransformEvaluates := by
  intro q n i a hq hi
  refine eq_of_lt_of_cast_eq (nttFwd_getD a hi ▸ horner_lt hq _ _) (Nat.mod_lt _ hq) ?_
  have asFinset : ∀ f : Nat → Nat, ((List.range a.length).map f).sum = ∑ k ∈ Finset.range a.length, f k := fun _ => rfl
  rw [nttFwd_cast a hi, ZMod.natCast_mod, asFinset]
  push_cast
  rfl

/-! Bit reversal -/

/-- Term j of `brv (n+1)` after the first is term j − 1 of `brv n` at half the number. -/
theorem brv_succ_low (n i : Nat) : brv (n + 1) i = i % 2 * 2 ^ n + brv n (i / 2) := by
  rw [brv, List.range_succ_eq_map, List.map_cons, List.sum_cons, List.map_map]
  have first : (if i.testBit 0 = true then 2 ^ (n + 1 - 1 - 0) else 0) = i % 2 * 2 ^ n := by
    rcases Nat.mod_two_eq_zero_or_one i with h | h <;> simp [Nat.testBit_zero, h]
  have rest : (fun j => if i.testBit j = true then 2 ^ (n + 1 - 1 - j) else 0) ∘ Nat.succ
      = fun j => if (i / 2).testBit j = true then 2 ^ (n - 1 - j) else 0 := by
    funext j
    have exponent : n - (j + 1) = n - 1 - j := by omega
    simp [Nat.testBit_succ, exponent]
  rw [first, rest, brv]

/-- The last term of `brv (n+1)` is bit n, and the terms before it are twice those of `brv n`. -/
theorem brv_succ_high (n i : Nat) : brv (n + 1) i = 2 * brv n i + (i.testBit n).toNat := by
  rw [brv, List.range_succ, List.map_append, List.sum_append]
  have last : ([n].map fun j => if i.testBit j = true then 2 ^ (n + 1 - 1 - j) else 0).sum = (i.testBit n).toNat := by
    cases h : i.testBit n <;> simp [h]
  have rest : (List.range n).map (fun j => if i.testBit j = true then 2 ^ (n + 1 - 1 - j) else 0)
      = (List.range n).map (fun j => 2 * if i.testBit j = true then 2 ^ (n - 1 - j) else 0) := by
    refine List.map_congr_left fun j hj => ?_
    have exponent : n + 1 - 1 - j = (n - 1 - j) + 1 := by have := List.mem_range.1 hj; omega
    rw [exponent, pow_succ, mul_ite, mul_zero, mul_comm]
  rw [last, rest, List.sum_map_mul_left, brv]

theorem brv_lt (n i : Nat) : brv n i < 2 ^ n := by
  induction n with
  | zero => simp [brv]
  | succ n ih =>
    have bit := (i.testBit n).toNat_le
    rw [brv_succ_high, pow_succ]
    omega

/-- Reversing twice gives the low n bits back. -/
theorem brv_brv (n i : Nat) : brv n (brv n i) = i % 2 ^ n := by
  induction n generalizing i with
  | zero => simp [brv, Nat.mod_one]
  | succ n ih =>
    have bit := (i.testBit n).toNat_le
    have low : brv (n + 1) i % 2 = (i.testBit n).toNat := by rw [brv_succ_high]; omega
    have high : brv (n + 1) i / 2 = brv n i := by rw [brv_succ_high]; omega
    rw [brv_succ_low, low, high, ih, Nat.mod_pow_succ, Nat.toNat_testBit]
    ring

/-! The transform pair -/

theorem unbrv_length (n : Nat) (a : List Nat) : (unbrv n a).length = 2 ^ n := by simp [unbrv]

theorem unbrv_getD {n j : Nat} (a : List Nat) (hj : j < 2 ^ n) : (unbrv n a).getD j 0 = a.getD (brv n j) 0 := by
  simp [unbrv, List.getD_eq_getElem?_getD, hj]

theorem nttInv_length (q n : Nat) (a : List Nat) : (nttInv q n a).length = 2 ^ n := by simp [nttInv]

theorem nttInv_getElem {q n k : Nat} (a : List Nat) (hk : k < (nttInv q n a).length) :
    (nttInv q n a)[k] = horner q (powMod q (invMod q (psi q n)) (2 * k)) (unbrv n a) * powMod q (invMod q (psi q n)) k % q
      * invMod q (2 ^ n) % q := by simp [nttInv]

/-- In evaluation order, the forward transform's elements are the values at the odd powers of the root, in rising order. -/
theorem unbrv_nttFwd_cast {q n j : Nat} (a : List Nat) (hj : j < 2 ^ n) : ((unbrv n (nttFwd q n a)).getD j 0 : ZMod q)
    = ∑ m ∈ Finset.range a.length, (a.getD m 0 : ZMod q) * (psi q n : ZMod q) ^ ((2 * j + 1) * m) := by
  rw [unbrv_getD _ hj, nttFwd_cast a (brv_lt n j), brv_brv, Nat.mod_eq_of_lt hj]

section
variable {F : Type} [Field F]

/-- A root whose 2^n-th power is −1 ≠ 1 is a primitive 2^(n+1)-th root of unity, so its square is a primitive 2^n-th one. -/
theorem isPrimitiveRoot_sq {n : Nat} {r : F} (h : r ^ 2 ^ n = -1) (two : (2 : F) ≠ 0) : IsPrimitiveRoot (r ^ 2) (2 ^ n) := by
  have notOne : r ^ 2 ^ n ≠ 1 := fun e => two (by linear_combination h - e)
  have order : orderOf r = 2 ^ (n + 1) := orderOf_eq_prime_pow notOne (by rw [pow_succ, pow_mul, h]; norm_num)
  exact (order ▸ IsPrimitiveRoot.orderOf r).pow (by positivity) (pow_succ' 2 n)

/-- The powers of x = z^m / z^k over one period of the primitive root z sum to N when m = k and to 0 when not. -/
theorem sum_pow_quotient {N k m : Nat} {z : F} (hz : IsPrimitiveRoot z N) (hm : m < N) (hk : k < N) :
    ∑ j ∈ Finset.range N, (z ^ m * (z ^ k)⁻¹) ^ j = if m = k then (N : F) else 0 := by
  have unit : z ^ k ≠ 0 := pow_ne_zero _ (hz.ne_zero (by omega))
  split
  · next same => simp [same, unit]
  · next differ =>
    have notOne : z ^ m * (z ^ k)⁻¹ - 1 ≠ 0 := fun e =>
      differ (hz.pow_inj hm hk (by rw [sub_eq_zero, mul_inv_eq_one₀ unit] at e; exact e))
    have period : (z ^ m * (z ^ k)⁻¹) ^ N = 1 := by
      rw [mul_pow, inv_pow, ← pow_mul, ← pow_mul, mul_comm m, mul_comm k, pow_mul, pow_mul, hz.pow_eq_one]
      simp
    have product := mul_geom_sum (z ^ m * (z ^ k)⁻¹) N
    rw [period, sub_self] at product
    exact (mul_eq_zero.1 product).resolve_left notOne

/-- The inverse transform of the values at the odd powers of r is N times the coefficient (R24, orthogonality of the roots). -/
theorem sum_values_eq_coefficient {n k : Nat} {r : F} (c : Nat → F) (h : r ^ 2 ^ n = -1) (two : (2 : F) ≠ 0) (hk : k < 2 ^ n) :
    (∑ j ∈ Finset.range (2 ^ n), (∑ m ∈ Finset.range (2 ^ n), c m * r ^ ((2 * j + 1) * m)) * (r⁻¹ ^ (2 * k)) ^ j) * r⁻¹ ^ k
      = 2 ^ n * c k := by
  have nonzero : r ≠ 0 := by
    rintro rfl
    simp [zero_pow] at h
  have term : ∀ m j : Nat, c m * r ^ ((2 * j + 1) * m) * (r⁻¹ ^ (2 * k)) ^ j
      = c m * r ^ m * (((r ^ 2) ^ m * ((r ^ 2) ^ k)⁻¹) ^ j) := by
    intro m j
    have odd : r ^ ((2 * j + 1) * m) = r ^ m * ((r ^ 2) ^ m) ^ j := by
      rw [← pow_mul, ← pow_mul, ← pow_add]; congr 1; ring
    rw [odd, mul_pow, ← inv_pow, ← inv_pow, ← pow_mul]
    ring
  have inner : ∀ m ∈ Finset.range (2 ^ n), ∑ j ∈ Finset.range (2 ^ n), c m * r ^ ((2 * j + 1) * m) * (r⁻¹ ^ (2 * k)) ^ j
      = if m = k then c k * r ^ k * 2 ^ n else 0 := by
    intro m hm
    simp only [term, ← Finset.mul_sum]
    rw [sum_pow_quotient (isPrimitiveRoot_sq h two) (Finset.mem_range.1 hm) hk]
    split
    · next same => rw [same]; push_cast; rfl
    · exact mul_zero _
  rw [Finset.sum_congr rfl fun j _ => Finset.sum_mul _ _ _, Finset.sum_comm, Finset.sum_congr rfl inner,
    Finset.sum_ite_eq', if_pos (Finset.mem_range.2 hk)]
  rw [inv_pow]
  field_simp

end

/-- Settles O60: modulo q the inverse transform's sums collapse to N·a[k] by the orthogonality of the roots, and both sides are below q. -/
theorem transformsInvert : Obligations.TransformsInvert := by
  intro q n a prime hq _ root hlen hlt
  have : Fact q.Prime := ⟨prime⟩
  have pos : 0 < q := prime.pos
  have minusOne : (psi q n : ZMod q) ^ 2 ^ n = -1 := by
    have := congrArg (Nat.cast : Nat → ZMod q) root
    rw [ZMod.natCast_mod, Nat.cast_pow, Nat.cast_sub (by omega)] at this
    simpa using this
  have nonzero : (psi q n : ZMod q) ≠ 0 := fun z => by simp [z, zero_pow] at minusOne
  have two : (2 : ZMod q) ≠ 0 := by
    intro z
    have := (ZMod.natCast_eq_zero_iff 2 q).1 (by exact_mod_cast z)
    exact absurd (Nat.le_of_dvd (by omega) this) (by omega)
  have inverse : ∀ x : Nat, (x : ZMod q) ≠ 0 → (invMod q x : ZMod q) = (x : ZMod q)⁻¹ := fun x hx =>
    eq_inv_of_mul_eq_one_left (invMod_mul_cancel pos
      ((Nat.coprime_comm.1 ((Nat.Prime.coprime_iff_not_dvd prime).2 fun d => hx ((ZMod.natCast_eq_zero_iff _ _).2 d)))))
  refine List.ext_getElem (by rw [nttInv_length, hlen]) fun k hk1 hk2 => ?_
  have hk : k < 2 ^ n := hlen ▸ hk2
  refine eq_of_lt_of_cast_eq (by rw [nttInv_getElem]; exact Nat.mod_lt _ pos) (hlt _ (List.getElem_mem hk2)) ?_
  have values : (horner q (powMod q (invMod q (psi q n)) (2 * k)) (unbrv n (nttFwd q n a)) : ZMod q)
      = ∑ j ∈ Finset.range (2 ^ n), (∑ m ∈ Finset.range (2 ^ n), (a.getD m 0 : ZMod q) * (psi q n : ZMod q) ^ ((2 * j + 1) * m))
          * ((psi q n : ZMod q)⁻¹ ^ (2 * k)) ^ j := by
    rw [horner_cast, unbrv_length]
    refine Finset.sum_congr rfl fun j hj => ?_
    rw [unbrv_nttFwd_cast a (Finset.mem_range.1 hj), powMod_eq, ZMod.natCast_mod, Nat.cast_pow, inverse _ nonzero, hlen]
  have power : ((2 ^ n : Nat) : ZMod q) ≠ 0 := by push_cast; exact pow_ne_zero _ two
  rw [nttInv_getElem, ZMod.natCast_mod, Nat.cast_mul, ZMod.natCast_mod, Nat.cast_mul, values, powMod_eq, ZMod.natCast_mod, Nat.cast_pow,
    inverse _ nonzero, inverse _ power, sum_values_eq_coefficient _ minusOne two hk]
  push_cast at power ⊢
  rw [mul_comm (2 ^ n : ZMod q), mul_inv_cancel_right₀ power, List.getD_eq_getElem _ _ hk2]

end Sys2Proof.Machine
end

section
/-! Residue operations and ciphertext addition (R19, R21, R110). -/

namespace Sys2Proof.Machine

/-! Canonical results -/

theorem zipMod_lt {q : Nat} (hq : 0 < q) (f : Nat → Nat → Nat) (a b : List Nat) : ∀ x ∈ zipMod q f a b, x < q := by
  intro x hx
  obtain ⟨i, hi, rfl⟩ := List.getElem_of_mem hx
  simp only [zipMod, List.getElem_zipWith]
  exact Nat.mod_lt _ hq

/-- A list of remainders modulo q is canonical. -/
theorem map_mod_lt {α : Type} {q : Nat} (hq : 0 < q) (f : α → Nat) (l : List α) : ∀ x ∈ l.map (fun y => f y % q), x < q := by
  intro x hx
  obtain ⟨y, _, rfl⟩ := List.mem_map.1 hx
  exact Nat.mod_lt _ hq

theorem nttFwd_lt {q : Nat} (hq : 0 < q) (n : Nat) (a : List Nat) : ∀ x ∈ nttFwd q n a, x < q := by
  intro x hx
  obtain ⟨i, _, rfl⟩ := List.mem_map.1 hx
  exact horner_lt hq _ _

/-! One residue of an operation on limbs -/

theorem limbs_getD (p : ParamSet) (f : Nat → List Nat → List Nat) {c : List (List Nat)} {i : Nat} (hi : i < c.length) :
    (p.limbs f c).getD i [] = f (p.prime i) (c.getD i []) := by
  simp [ParamSet.limbs, List.getD_eq_getElem?_getD, hi]

theorem limbs2_getD (p : ParamSet) (f : Nat → List Nat → List Nat → List Nat) {a b : List (List Nat)} {i : Nat}
    (ha : i < a.length) (hb : i < b.length) : (p.limbs2 f a b).getD i [] = f (p.prime i) (a.getD i []) (b.getD i []) := by
  simp [ParamSet.limbs2, List.getD_eq_getElem?_getD, ha, hb]

theorem zipMod_getD (q : Nat) (f : Nat → Nat → Nat) {a b : List Nat} {j : Nat} (ha : j < a.length) (hb : j < b.length) :
    (zipMod q f a b).getD j 0 = f (a.getD j 0) (b.getD j 0) % q := by
  simp [zipMod, List.getD_eq_getElem?_getD, ha, hb]

theorem negL_getD (q : Nat) {a : List Nat} {j : Nat} (ha : j < a.length) : (negL q a).getD j 0 = (q - a.getD j 0 % q) % q := by
  simp [negL, List.getD_eq_getElem?_getD, ha]

/-- The complement that stands for −y modulo q. -/
theorem cast_add_complement_mod {q : Nat} (hq : 0 < q) (x y : Nat) : (((x + (q - y % q)) % q : Nat) : Int) = ((x : Int) - y) % q := by
  have le := (Nat.mod_lt y hq).le
  rw [Int.natCast_mod, Nat.cast_add, Nat.cast_sub le, Int.natCast_mod]
  have shift : (x : Int) + (q - (y : Int) % q) = x - (y : Int) % q + q * 1 := by ring
  rw [shift, Int.add_mul_emod_self_left, Int.sub_emod_emod]

/-- A component of the sum of two ciphertexts that both hold it, below the lower of their levels (R110). -/
theorem Ct.add_limb (p : ParamSet) (sub : Bool) {a b : Ct} {k i : Nat} (ha : k < a.comps.length) (hb : k < b.comps.length)
    (hia : i ≤ a.level) (hib : i ≤ b.level) (la : i < (a.comps.getD k []).length) (lb : i < (b.comps.getD k []).length) :
    ((Ct.add p sub a b).comps.getD k []).getD i []
      = (if sub then subL else addL) (p.prime i) ((a.comps.getD k []).getD i []) ((b.comps.getD k []).getD i []) := by
  have cut : ∀ {c : Ct} {l : Nat}, k < c.comps.length → (c.cut l).comps[k]? = some ((c.comps.getD k []).take (l + 1)) := by
    intro c l hc
    simp [Ct.cut, List.getD_eq_getElem?_getD, hc]
  have low : i < min a.level b.level + 1 := by omega
  have len : ∀ c : Ct, (c.cut (min a.level b.level)).comps.length = c.comps.length := fun c => List.length_map _
  have component : (Ct.add p sub a b).comps.getD k [] = p.limbs2 (if sub then subL else addL)
      ((a.comps.getD k []).take (min a.level b.level + 1)) ((b.comps.getD k []).take (min a.level b.level + 1)) := by
    simp only [Ct.add, List.getD_eq_getElem?_getD, len]
    rw [List.getElem?_map, List.getElem?_range (by omega)]
    simp only [Option.map_some, cut ha, cut hb, Option.getD_some, List.getD_eq_getElem?_getD]
  have taken : ∀ l : List (List Nat), (l.take (min a.level b.level + 1)).getD i [] = l.getD i [] := fun l => by
    simp [List.getD_eq_getElem?_getD, low]
  rw [component, limbs2_getD _ _ (by simp only [List.length_take]; omega) (by simp only [List.length_take]; omega), taken, taken]

theorem Ct.neg_limb (p : ParamSet) {a : Ct} {k i : Nat} (ha : k < a.comps.length) (la : i < (a.comps.getD k []).length) :
    ((Ct.neg p a).comps.getD k []).getD i [] = negL (p.prime i) ((a.comps.getD k []).getD i []) := by
  have component : (Ct.neg p a).comps.getD k [] = p.limbs negL (a.comps.getD k []) := by
    simp [Ct.neg, Ct.map, List.getD_eq_getElem?_getD, ha]
  rw [component, limbs_getD _ _ la]

/-- Settles O58: every operation ends in a remainder modulo q, and a limb of a sum, difference or negation is that of the operands' limbs. -/
theorem residueOperationsAreModular : Obligations.ResidueOperationsAreModular := by
  refine ⟨fun q c a b hq => ⟨zipMod_lt hq _ a b, zipMod_lt hq _ a b, zipMod_lt hq _ a b, map_mod_lt hq _ a, map_mod_lt hq _ a,
    fun n => ⟨nttFwd_lt hq n a, map_mod_lt hq _ _⟩⟩, ?_⟩
  rintro p a b k i j q el rfl hq hia hib rfl ka kb la lb ja jb
  refine ⟨?sum, ?difference, ?negation⟩
  case sum =>
    simp only [Ct.add_limb p false ka kb hia hib la lb]
    exact zipMod_getD _ _ ja jb
  case difference =>
    simp only [Ct.add_limb p true ka kb hia hib la lb]
    exact (congrArg Nat.cast (zipMod_getD _ _ ja jb)).trans (cast_add_complement_mod hq _ _)
  case negation =>
    simp only [Ct.neg_limb p ka la, negL_getD _ ja]
    simpa using cast_add_complement_mod hq 0 _

end Sys2Proof.Machine
end

section
/-! Mailbox commands that are begun, and the bytes of device memory that an effect leaves (R39, R349, R362). -/

namespace Sys2Proof.Machine

/-! A begun mailbox command (R362, R365, R366) -/

/-- A begun command runs its own effect, which answers its submitter. -/
theorem act_runCmd {s : State} {m : Mbx} {r : CmdRow} {c : Nat} (h : Claims.begins s m r c) (body : Owed → Nat → State → Ends) :
    act s (fun t => t.runCmd m r body)
      = .next (s.commit ((body (Claims.owed s m r.op c) c (Claims.begun s m)).post (Claims.owed s m r.op c))) := by
  obtain ⟨inService, frontStays, context, buffer⟩ := h
  rw [act_fresh, State.runCmd_begun _ m r c body inService frontStays context buffer]
  rfl

/-- A begun command whose effect ends with OK posts its completion. -/
theorem act_runCmd_done {s : State} {m : Mbx} {r : CmdRow} {c : Nat} (h : Claims.begins s m r c) {body : Owed → Nat → State → Ends}
    {res : List Byte} {t : State} (hb : body (Claims.owed s m r.op c) c (Claims.begun s m) = .done .ok res t) :
    act s (fun t => t.runCmd m r body) = .next (s.commit (Claims.ended s m r.op c res t)) := by
  rw [act_runCmd h, hb]
  rfl

/-- A begun command that completes later leaves the state in which its effect ends. -/
theorem act_runCmd_later {s : State} {m : Mbx} {r : CmdRow} {c : Nat} (h : Claims.begins s m r c) {body : Owed → Nat → State → Ends}
    {t : State} (hb : body (Claims.owed s m r.op c) c (Claims.begun s m) = .later t) :
    act s (fun t => t.runCmd m r body) = .next (s.commit t) := by
  rw [act_runCmd h, hb]
  rfl

/-! What keeps a byte of device memory -/

/-- From `s` to `t` memory has the same listed cells, and the byte at `x` reads the same past the step's stores. -/
def State.KeepsByte (x : Nat) (s t : State) : Prop := t.mem = s.mem ∧ t.byte x = s.byte x

theorem State.KeepsByte.refl (x : Nat) (s : State) : s.KeepsByte x s := ⟨rfl, rfl⟩

theorem State.KeepsByte.trans {x : Nat} {s t u : State} (h : s.KeepsByte x t) (k : t.KeepsByte x u) : s.KeepsByte x u :=
  ⟨k.1.trans h.1, k.2.trans h.2⟩

theorem State.keepsByte_of_eq {x : Nat} {s t : State} (mem : t.mem = s.mem) (stores : t.stores = s.stores) : s.KeepsByte x t :=
  ⟨mem, by simp only [State.byte, mem, stores]⟩

/-- What reaches only the host keeps every byte. -/
theorem State.keepsByte_of_inner {x : Nat} {s t : State} (h : t.inner = s.inner) : s.KeepsByte x t :=
  State.keepsByte_of_eq (congrArg State.mem h :) (congrArg State.stores h :)

theorem State.KeepsByte.foldl {α : Type} {x : Nat} {s : State} {f : State → α → State} {l : List α}
    (h : ∀ t : State, ∀ a ∈ l, t.KeepsByte x (f t a)) : s.KeepsByte x (l.foldl f s) :=
  List.foldlRecOn (motive := s.KeepsByte x) l f (.refl x s) fun t kept a ha => kept.trans (h t a ha)

/-- A step leaves the byte as its effect leaves it. -/
theorem State.KeepsByte.of_act {x : Nat} {s t : State} {f : State → State} (h : (Claims.fresh s).KeepsByte x (f (Claims.fresh s)))
    (e : act s f = .next t) : t.byte x = (Claims.fresh s).byte x := by
  rw [act_fresh] at e
  rw [← Host.Outcome.next.inj e]
  exact (State.commit_byte s _ h.1 x).trans h.2

theorem State.keepsByte_store {x a : Nat} {bs : List Byte} (s : State) (h : x < a ∨ a + bs.length ≤ x) : s.KeepsByte x (s.store a bs) := by
  simp only [State.store]
  split
  · exact .refl x s
  · have outside : ¬ (a ≤ x ∧ x < a + bs.length + 0) := by omega
    exact ⟨rfl, by simp only [State.byte, storeByte, if_neg outside]⟩

theorem State.keepsByte_writeBlock {x a : Nat} {bs : List Byte} (s : State) (h : x < a ∨ a + bs.length ≤ x) :
    s.KeepsByte x (s.writeBlock a bs) := by
  simp only [State.writeBlock]
  split
  · split
    · exact (s.keepsByte_store h).trans (State.keepsByte_of_eq rfl rfl)
    · exact .refl x s
  · exact s.keepsByte_store h

theorem State.keepsByte_rowFails (x : Nat) (s : State) (st key : Nat) : s.KeepsByte x (s.rowFails st key) := by
  simp only [State.rowFails]
  split
  · exact .refl x s
  · exact State.keepsByte_of_eq rfl rfl

theorem State.keepsByte_repaired (x : Nat) (s : State) (a n : Nat) : s.KeepsByte x (s.repaired a n) :=
  .foldl fun t _ _ => (State.keepsByte_of_eq rfl rfl : t.KeepsByte x (t.setStk _ _)).trans (State.keepsByte_rowFails x _ _ _)

/-- The pieces of a write lie within it. -/
theorem splitBlocks_bounds (fuel a : Nat) (bs : List Byte) :
    ∀ p ∈ splitBlocks fuel a bs, a ≤ p.1 ∧ p.1 + p.2.length ≤ a + bs.length := by
  induction fuel generalizing a bs with
  | zero => simp [splitBlocks]
  | succ f ih =>
    intro p hp
    simp only [splitBlocks] at hp
    split at hp
    · simp at hp
    rcases List.mem_cons.1 hp with rfl | rest
    · exact ⟨le_refl a, by simp⟩
    · have bounds := ih _ _ p rest
      have some_left : bs.drop (64 - a % 64) ≠ [] := by
        intro none_left
        rw [none_left] at rest
        cases f <;> simp [splitBlocks] at rest
      have := List.length_pos_iff.2 some_left
      simp only [List.length_drop] at bounds this
      constructor <;> omega

/-- A write keeps the bytes outside its range (R283, R285). -/
theorem State.keepsByte_write {x a : Nat} {bs : List Byte} (s : State) (h : x < a ∨ a + bs.length ≤ x) : s.KeepsByte x (s.write a bs) := by
  simp only [State.write]
  split
  · refine State.KeepsByte.trans (.foldl fun t p hp => t.keepsByte_writeBlock ?_) (State.keepsByte_repaired x _ _ _)
    have := splitBlocks_bounds _ _ _ p hp
    omega
  · exact s.keepsByte_store h

/-- A write from outside keeps the bytes outside its range; what it changes of key cards is no byte of memory (R86). -/
theorem State.keepsByte_outWrite {x a : Nat} {bs : List Byte} (s : State) (h : x < a ∨ a + bs.length ≤ x) :
    s.KeepsByte x (s.outWrite a bs) := by
  simp only [State.outWrite]
  refine State.KeepsByte.trans ?_ (State.keepsByte_write _ h)
  split
  · exact State.keepsByte_of_eq rfl rfl
  · exact .refl x s

theorem State.keepsByte_countForeign (x : Nat) (s : State) (c a n : Nat) : s.KeepsByte x (s.countForeign c a n) := by
  simp only [State.countForeign]
  split
  · exact State.keepsByte_of_eq rfl rfl
  · exact .refl x s

/-- STAGING_WRITE keeps every byte outside the window range written (R349). -/
theorem keepsByte_stagingWrite {s t : State} {off x : Nat} {d : List Byte} (e : exec (.stagingWrite off d) s = .next t)
    (outside : ∀ a, s.stageDpa off d.length = some a → x < a ∨ a + d.length ≤ x) : t.byte x = (Claims.fresh s).byte x := by
  simp only [exec, execStagingWrite] at e
  refine State.KeepsByte.of_act ?_ e
  split
  · exact .refl x _
  split
  · exact .refl x _
  next a ha =>
  split
  · exact .refl x _
  split
  · exact State.keepsByte_of_eq rfl rfl
  · exact State.keepsByte_outWrite _ (outside a ha)

/-! The image that CARD_EXPORT writes (R39, Table 1.6) -/

theorem zeros_length (n : Nat) : (zeros n).length = n := List.length_replicate

theorem imageOf_length (cd : Card) (p : ParamSet) (pay : List Byte) : (imageOf cd p pay).length = 64 + pay.length := by
  cases h : cd.kind <;> simp [imageOf, h, leBytes_length, zeros_length] <;> omega

/-- The bytes that an image holds of one component (R39). -/
def Card.imageComp (cd : Card) (p : ParamSet) : Nat :=
  if cd.kind == .ciphertext || cd.kind == .plaintext then wordsOf p.split (cd.level + 1) * p.n * 8
  else if cd.kind == .lwe then cd.span p else cd.compBytes p

theorem State.get_length {s : State} {c base a n : Nat} {bs : List Byte} (h : s.get c base a n = .ok bs) : bs.length = n := by
  simp only [State.get] at h
  split at h
  · cases h
  split at h
  · cases h
  · obtain rfl := Except.ok.inj h
    simp [State.bytes]

/-- Reads of n bytes each give n bytes for each. -/
theorem mapM_flatten_length {ε α β : Type} {f : α → Except ε (List β)} {n : Nat} (each : ∀ a bs, f a = .ok bs → bs.length = n)
    (l : List α) {bss : List (List β)} (h : l.mapM f = .ok bss) : bss.flatten.length = l.length * n := by
  induction l generalizing bss with
  | nil =>
    obtain rfl : [] = bss := Except.ok.inj h
    simp
  | cons a l ih =>
    rw [List.mapM_cons] at h
    cases ha : f a with
    | error e => rw [ha] at h; cases h
    | ok bs =>
      cases hl : l.mapM f with
      | error e => rw [ha, hl] at h; cases h
      | ok rest =>
        rw [ha, hl] at h
        obtain rfl : bs :: rest = bss := Except.ok.inj h
        rw [List.flatten_cons, List.length_append, each a bs ha, ih hl, List.length_cons]
        ring

theorem State.expandSeed_of_unseeded {s : State} {c h : Nat} {cd : Card} (hc : s.card c h = some cd) (hs : cd.seed = none) :
    s.expandSeed c h = s := by
  simp only [State.expandSeed, hc, hs]

/-- The state in which a command ends, before it answers. -/
def Ends.state : Ends → State
  | .done _ _ t => t
  | .later t => t

/-- A begun command keeps a byte when its own effect does: its answer reaches only the host. -/
theorem keepsByte_of_runCmd {s t : State} {m : Mbx} {r : CmdRow} {c x : Nat} (begins : Claims.begins s m r c)
    {body : Owed → Nat → State → Ends} (e : act s (fun u => u.runCmd m r body) = .next t)
    (h : (Claims.begun s m).KeepsByte x (body (Claims.owed s m r.op c) c (Claims.begun s m)).state) :
    t.byte x = (Claims.fresh s).byte x := by
  have begun : (Claims.fresh s).KeepsByte x (Claims.begun s m) := State.keepsByte_of_eq rfl rfl
  rw [act_runCmd begins] at e
  rw [← Host.Outcome.next.inj e]
  have answered : ∀ (d : Ends) (o : Owed), d.state.KeepsByte x (d.post o)
    | .done _ _ _, _ => State.keepsByte_of_inner (State.inner_complete _ _ _ _)
    | .later _, _ => .refl x _
  have kept := (begun.trans h).trans (answered _ (Claims.owed s m r.op c))
  exact (State.commit_byte s _ kept.1 x).trans kept.2

/-- CARD_EXPORT of a card without a seed keeps every byte outside its destination (R39). -/
theorem keepsByte_cardExport {s t : State} {m : Mbx} {c handle dst cap x : Nat} {cd : Card} (begins : Claims.begins s m { op := 0x0303 } c)
    (hcd : (Claims.fresh s).card c handle = some cd) (unseeded : cd.seed = none) (e : exec (.cardExport m handle dst cap) s = .next t)
    (outside : x < dst ∨ dst + cap ≤ x) : t.byte x = (Claims.fresh s).byte x := by
  simp only [exec, execCardExport] at e
  refine keepsByte_of_runCmd begins e ?_
  have held : (Claims.begun s m).card c handle = some cd := hcd
  generalize Claims.begun s m = b at held
  simp only [State.expandSeed_of_unseeded held unseeded, held]
  rw [← Card.imageComp]
  split
  · exact .refl x b
  next valid =>
  split
  · exact .refl x b
  split
  · exact .refl x b
  split
  · exact State.keepsByte_countForeign x b c _ _
  split
  · exact .refl x b
  next bs read =>
  simp only [not_or] at valid
  obtain ⟨-, -, -, -, -, -, fits⟩ := valid
  have payload := mapM_flatten_length (fun _ _ => State.get_length) _ read
  rw [List.length_range] at payload
  refine State.keepsByte_outWrite b ?_
  rw [imageOf_length, payload]
  omega

/-- Settles O54: both commands write device memory in one write, and a write keeps the bytes outside its range. -/
theorem deviceStoresStayInTheirRange : Obligations.DeviceStoresStayInTheirRange :=
  ⟨fun _ _ _ _ _ e outside => keepsByte_stagingWrite e outside,
    fun _ _ _ _ _ _ _ _ _ begins hcd unseeded e outside => keepsByte_cardExport begins hcd unseeded e outside⟩

end Sys2Proof.Machine
end

section
/-! The catalogue's commands complete: cards are written, bound, unbound, read and exported (R39, R175 to R178, R207, R394). -/

namespace Sys2Proof.Machine

theorem cardWrite_done {s : State} {m : Mbx} {c handle : Nat} {bs : List Byte} {cd : Card}
    (begins : Claims.begins s m { op := 0x0301, buf := true } c) (input : (Claims.begun s m).inBuf m 128 = .ok bs)
    (parsed : Card.parse bs = some cd) (supplied : cd.supplied.bytes = bs) (inTable : handle < 65536) (writable : cd.writable = true)
    (shape : (cd.kind = .clear ∧ cd.span noSet ≤ cd.capacity) ∨
      (cd.kind ≠ .clear ∧ ∃ p, (Claims.begun s m).pset c cd.set = some p ∧ schemeOk cd.kind p = true ∧ cd.fits p = true))
    (placed : (Claims.begun s m).placeOk c handle cd (cd.secret || (cd.kind == .share && roleSecret cd.role)) = true)
    (ready : (Claims.begun s m).cardReady cd = true) (idle : (Claims.begun s m).handleBusy c handle = false) :
    exec (.cardWrite m handle) s = .next (s.commit (Claims.ended s m 0x0301 c [] ((Claims.begun s m).setCard c handle { cd with
      scheme := (((Claims.begun s m).pset c cd.set).map (fun q => q.scheme)).getD 0
      poison := cd.kind != .poly && cd.kind != .clear
      triple := if cd.kind == .share && cd.role == roleTriple then .spent else .fresh }))) := by
  refine act_runCmd_done begins ?_
  have handleOk : ¬ 65536 ≤ handle := by omega
  rcases shape with ⟨clear, span⟩ | ⟨coded, p, set, scheme, fits⟩
  · rw [clear] at placed
    simp [input, parsed, supplied, handleOk, writable, clear, span, placed, ready, idle]
  · simp [input, parsed, supplied, handleOk, writable, coded, set, scheme, fits, placed, ready, idle]

theorem cardBind_done {s : State} {m : Mbx} {c handle image len : Nat} {tb : List Byte} {cd : Card} {p : ParamSet}
    (begins : Claims.begins s m { op := 0x0302, buf := true } c) (input : (Claims.begun s m).inBuf m 128 = .ok tb)
    (served : (Claims.begun s m).rangeReady image (max 64 len) = true) (reached : (Claims.begun s m).deny c image (max 64 len) = none)
    (clean : (Claims.begun s m).poisoned image (max 64 len) = false)
    (binds : (Claims.begun s m).binding c handle tb ((Claims.begun s m).bytes image len) len false = .ok (cd, p))
    (ready : (Claims.begun s m).cardReady cd = true)
    (admitted : cd.kind = .key →
      ((Claims.begun s m).ctx c).manifest.any (fun x => !x.admits ((Claims.begun s m).bytes image len)) = false)
    (idle : (Claims.begun s m).handleBusy c handle = false) (own : (Claims.begun s m).foreign c cd.base cd.capacity = false) :
    exec (.cardBind m handle image len) s = .next (s.commit (Claims.ended s m 0x0302 c []
      (((Claims.begun s m).storeImage cd p ((Claims.begun s m).bytes image len)).setCard c handle cd))) := by
  refine act_runCmd_done begins ?_
  have notRefused : ¬ (cd.kind = .key ∧
      ((Claims.begun s m).ctx c).manifest.any (fun x => !x.admits ((Claims.begun s m).bytes image len)) = true) :=
    fun h => by simp [admitted h.1] at h
  simp only [input, served, reached, clean, binds, ready, idle, own, if_neg notRefused]
  simp

theorem cardUnbind_done {s : State} {m : Mbx} {c handle : Nat} {cd : Card} (begins : Claims.begins s m { op := 0x0304 } c)
    (inTable : handle < 65536) (idle : (Claims.begun s m).handleBusy c handle = false)
    (held : (Claims.begun s m).card c handle = some cd) :
    exec (.cardUnbind m handle) s = .next (s.commit (Claims.ended s m 0x0304 c []
      (((Claims.begun s m).zeroCardSlots cd).setCtx c { ((Claims.begun s m).zeroCardSlots cd).ctx c with
        cards := (((Claims.begun s m).zeroCardSlots cd).ctx c).cards.del handle }))) := by
  refine act_runCmd_done begins ?_
  have handleOk : ¬ 65536 ≤ handle := by omega
  simp [handleOk, idle, held]

theorem cardRead_done {s : State} {m : Mbx} {c handle : Nat} (begins : Claims.begins s m { op := 0x0305, buf := true } c)
    (output : (Claims.begun s m).outBuf m 128 = none) :
    exec (.cardRead m handle) s = .next (s.commit (Claims.ended s m 0x0305 c []
      ((Claims.begun s m).putBuf m.buf ((((Claims.begun s m).card c handle).map Card.bytes).getD (zeros 128))))) := by
  refine act_runCmd_done begins ?_
  simp only [output]

section
variable {s b : State} {m : Mbx} {c handle dst cap : Nat} {cd : Card} {p : ParamSet} {bs : List (List Byte)}

theorem cardExport_done (hb : b = (Claims.begun s m).expandSeed c handle) (begins : Claims.begins s m { op := 0x0303 } c)
    (held : b.card c handle = some cd) (set : p = (b.pset c cd.set).getD noSet)
    (kinds : (cd.kind == .ciphertext || cd.kind == .plaintext) = true ∨ cd.kind = .lwe ∨ (cd.kind = .share ∧ roleSecret cd.role = false))
    (plain : cd.secret = false)
    (laid : (cd.kind == .ciphertext || cd.kind == .plaintext) = true → cd.layout = .limb ∧ (p.scheme = 1 → scaleOk cd.scale = true))
    (one : cd.kind = .plaintext → cd.polys ≤ 1) (fits : 64 + cd.comps * cd.imageComp p ≤ cap) (ready : b.cardReady cd = true)
    (served : b.rangeReady dst (64 + cd.comps * cd.imageComp p) = true) (clean : cd.poison = false)
    (below : dst + 64 + cd.comps * cd.imageComp p < 2 ^ 40) (reached : b.deny c dst (64 + cd.comps * cd.imageComp p) = none)
    (unhidden : b.secretHit dst (64 + cd.comps * cd.imageComp p) = false)
    (read : (List.range cd.comps).mapM (fun i => b.get c cd.base (cd.base + i * cd.compBytes p) (cd.imageComp p)) = .ok bs) :
    exec (.cardExport m handle dst cap) s = .next (s.commit (Claims.ended s m 0x0303 c (leBytes 8 (64 + cd.comps * cd.imageComp p))
      (b.outWrite dst (imageOf cd p bs.flatten)))) := by
  refine act_runCmd_done begins ?_
  have leaves : (cd.kind == .ciphertext || cd.kind == .plaintext || cd.kind == .lwe || cd.kind == .share) = true := by
    rcases kinds with ring | lwe | ⟨share, -⟩
    · simp [ring]
    · simp [lwe]
    · simp [share]
  have shareLeaves : ¬ (cd.kind = .share ∧ roleSecret cd.role = true) := by
    rintro ⟨share, hidden⟩
    rcases kinds with ring | lwe | ⟨-, shown⟩
    · simp [share] at ring
    · simp [share] at lwe
    · simp [hidden] at shown
  simp only [← hb, held, ← set]
  rw [← Card.imageComp]
  refine (if_neg ?valid).trans ((if_neg ?reachable).trans ((if_neg ?unpoisoned).trans ((if_neg ?allowed).trans ?written)))
  case valid =>
    simp only [not_or]
    refine ⟨by simp [leaves], shareLeaves, by simp [plain], fun h => h.2 (laid h.1).1, fun h => ?_, fun h => ?_, by omega⟩
    · simp [(laid h.1).2 h.2.1] at h
    · exact absurd (one h.1) (by omega)
  case reachable => simp [ready, served]
  case unpoisoned => simp [clean]
  case allowed =>
    simp only [not_or, reached, unhidden]
    exact ⟨by omega, by simp, by simp⟩
  case written => simp only [read]

end

/-- Settles O8: each command passes its checks in their order and ends in its effect. -/
theorem cardCommandsComplete : Obligations.CardCommandsComplete := by
  refine ⟨?write, ⟨?bind, ?unbind, ?read⟩, ?exported⟩
  case write =>
    rintro s b m c handle bs cd rfl begins input parsed supplied inTable writable shape placed ready idle
    exact cardWrite_done begins input parsed supplied inTable writable shape placed ready idle
  case bind =>
    rintro s b m c handle image len tb cd p rfl begins input served reached clean binds ready admitted idle own
    exact cardBind_done begins input served reached clean binds ready admitted idle own
  case unbind =>
    rintro s b t m c handle cd rfl begins inTable idle held rfl
    exact cardUnbind_done begins inTable idle held
  case read =>
    rintro s b m c handle rfl begins output
    exact cardRead_done begins output
  case exported =>
    rintro s b m c handle dst cap comp cd p ring bs rfl begins held rfl rfl rfl kinds secret laid plain fits ready served poison below
      reached clear read
    exact cardExport_done rfl begins held rfl kinds secret laid plain fits ready served poison below reached clear read

end Sys2Proof.Machine
end

section
/-! Parameter sets, refresh plans and placement maps load (R13 to R16, R125 to R128, R269 to R271). -/

namespace Sys2Proof.Machine

theorem paramsetLoad_done {s : State} {m : Mbx} {c : Nat} {bs : List Byte} (begins : Claims.begins s m { op := 0x0201, buf := true } c)
    (input : (Claims.begun s m).anyBuf m = .ok bs) (header : 64 ≤ bs.length)
    (length : bs.length = 64 + 8 * (fld bs 6 1 + fld bs 7 1)) (named : fld bs 0 4 ≠ 0) (flags : fld bs 9 1 < 4)
    (zero1 : zeroAt bs 10 6 = true) (zero2 : zeroAt bs 26 38 = true) (ok : (parseSet bs).ok = true)
    (new : ((Claims.begun s m).ctx c).sets.get (fld bs 0 4) = none) (room : ((Claims.begun s m).ctx c).sets.length < 32) :
    exec (.paramsetLoad m) s = .next (s.commit (Claims.ended s m 0x0201 c [] ((Claims.begun s m).setCtx c
      { (Claims.begun s m).ctx c with sets := ((Claims.begun s m).ctx c).sets.put (fld bs 0 4) (parseSet bs) }))) := by
  refine act_runCmd_done begins ?_
  simp only [input]
  refine (if_neg ?_).trans (if_neg (by omega))
  simp only [not_or]
  exact ⟨by omega, by omega, named, by omega, by simp [zero1], by simp [zero2], by simp [ok], by simp [new]⟩

theorem refreshPlanLoad_done {s : State} {m : Mbx} {c id : Nat} {bs : List Byte} {p : Plan}
    (begins : Claims.begins s m { op := 0x0202, buf := true } c) (input : (Claims.begun s m).anyBuf m = .ok bs)
    (plan : (Claims.begun s m).planOf c bs = .ok (id, p)) (ready : ((Claims.begun s m).stk (dpaStack p.scratch)).ready = true)
    (room : ((Claims.begun s m).ctx c).plans.length < 8) :
    exec (.refreshPlanLoad m) s = .next (s.commit (Claims.ended s m 0x0202 c [] ((Claims.begun s m).setCtx c
      { (Claims.begun s m).ctx c with plans := ((Claims.begun s m).ctx c).plans.put id p }))) := by
  refine act_runCmd_done begins ?_
  simp only [input, plan]
  exact (if_neg (by simp [ready])).trans (if_neg (by omega))

theorem placementRead_done {s : State} {m : Mbx} {c : Nat} (begins : Claims.begins s m { op := 0x0206, ctx := .own, buf := true } c)
    (output : (Claims.begun s m).outBuf m 768 = none) :
    exec (.placementRead m) s = .next (s.commit (Claims.ended s m 0x0206 c []
      ((Claims.begun s m).putBuf m.buf ((Claims.begun s m).placementBytes c)))) := by
  refine act_runCmd_done begins ?_
  simp only [output]

theorem bayPartitionApply_idle {s : State} {bay : Nat} (applying : ((Claims.fresh s).bay bay).applying = true)
    (idle : (Claims.fresh s).bayBusy bay = false) {t : State}
    (ht : t = (Claims.fresh s).zeroSlots bay
      (fun k => slotOwner ((Claims.fresh s).bay bay).entry k != slotOwner ((Claims.fresh s).map.entries.getD bay 0) k)) :
    exec (.bayPartitionApply bay) s = .next (s.commit
      ((t.setBay bay { t.bay bay with entry := (Claims.fresh s).map.entries.getD bay 0, applying := false }).recheckPasses
        (bay / 22)).placementDone) := by
  subst ht
  simp only [exec, execBayPartitionApply, act_fresh]
  rw [if_neg (by simp [applying, idle])]

/-- The state in which a loaded map comes into force: a ready bay whose partition changes has yet to apply its entry (R271). -/
def State.mapped (s : State) (bs : List Byte) (o : Owed) : State :=
  let e := fun i => BitVec.ofNat 64 (fld bs (64 + 8 * i) 8)
  { s with
    bays := s.bays.map (fun y => if y.2.ready && partFields (e y.1) != partFields y.2.entry then (y.1, { y.2 with applying := true })
      else (y.1, { y.2 with entry := e y.1, applying := false }))
    map := { epoch := fld bs 4 4, fixed := decide (fld bs 8 1 = 1), owed := some o, entries := (List.range 88).map (fun i => (i, e i)) } }

theorem placementLoad_done {s : State} {m : Mbx} {bs : List Byte}
    (begins : Claims.begins s m { op := 0x0205, tenant := false, ctx := .none, buf := true } 255)
    (input : (Claims.begun s m).inBuf m 768 = .ok bs) (free : (Claims.begun s m).map.owed = none)
    (good : placementGood (Claims.begun s m) bs = true)
    (kept : (List.range 88).any (fun i => (Claims.begun s m).strands i (BitVec.ofNat 64 (fld bs (64 + 8 * i) 8))) = false) :
    exec (.placementLoad m) s = .next (s.commit
      ((List.range 4).foldl State.recheckPasses ((Claims.begun s m).mapped bs (Claims.owed s m 0x0205 255)).placementDone)) := by
  refine act_runCmd_later begins ?_
  simp only [input, good, free, kept]
  rfl

/-- Settles O7: each load passes its checks in their order, a bay's entry applies when it is idle. -/
theorem setsPlansAndPlacementLoad : Obligations.SetsPlansAndPlacementLoad := by
  refine ⟨⟨?set, ?plan⟩, ?load, ?apply, ?read⟩
  case set =>
    rintro s b m c bs rfl begins input header length named flags zero1 zero2 ok new room
    exact paramsetLoad_done begins input header length named flags zero1 zero2 ok new room
  case plan =>
    rintro s b m c id bs p rfl begins input plan ready room
    exact refreshPlanLoad_done begins input plan ready room
  case load =>
    rintro s b m bs rfl begins input free good kept
    exact placementLoad_done begins input free good kept
  case apply =>
    rintro s b t bay rfl applying idle zeroed
    exact bayPartitionApply_idle applying idle zeroed
  case read =>
    rintro s b m c rfl begins output
    exact placementRead_done begins output

end Sys2Proof.Machine
end

section
/-! Work commands end, slot accesses are granted and end, bays pull, are weighted and complete pieces (R64, R69, R70, R132, R199, R273,
R274). -/

namespace Sys2Proof.Machine

/-! Work commands and refreshes (R69, R132, R199, Table 4.7) -/

/-- What may run has been issued, and nothing has decided its end. -/
theorem State.issued_of_mayRun {b : State} {c n k : Nat} {e : Entry} (may : b.mayRun c n k e = true) : e.phase = .issued ∧ e.fate = none := by
  simp only [State.mayRun, Bool.and_eq_true, beq_iff_eq, Option.isNone_iff_eq_none] at may
  obtain ⟨⟨⟨⟨⟨⟨⟨issued, undecided⟩, _⟩, _⟩, _⟩, _⟩, _⟩, _⟩ := may
  exact ⟨issued, undecided⟩

/-- A work command that may run, and whose run does not fail, ends with OK. -/
theorem State.completeBay_ok {b t : State} {c n k w : Nat} {e e1 : Entry} (may : b.mayRun c n k e = true)
    (runs : b.runEntry c n k w e = .ok t) (entry : t.entry c n k = some e1) : b.completeBay c n k w e = t.endOk c n k w e1 := by
  simp [State.completeBay, (State.issued_of_mayRun may).2, may, runs, entry]

theorem commandCompletion_ok {s t : State} {c n k : Nat} {x : Stream} {e e1 : Entry} (stream : (Claims.fresh s).stream c n = some x)
    (entry : (Claims.fresh s).entry c n k = some e) (work : bayOp e.cmd.op = true ∨ e.cmd.op = 0x111)
    (may : (Claims.fresh s).mayRun c n k e = true) (runs : (Claims.fresh s).runEntry c n k x.wing e = .ok t)
    (ran : t.entry c n k = some e1) : exec (.commandCompletion c n k) s = .next (s.commit (t.endOk c n k x.wing e1)) := by
  simp only [exec, execCommandCompletion, act_fresh, stream, entry]
  rw [if_neg (not_not.2 (State.issued_of_mayRun may).1), if_pos (by simpa using work), State.completeBay_ok may runs ran]

/-- A primitive is refused for want of random numbers at the raise, or of a scratch slot that its context may reach; this one is not. -/
theorem State.primitive_not_refused {b : State} {c : Nat} {p : Plan} {q : ParamSet} {jb : Job} {y : Prim}
    (random : y.op = 0x10C → b.hex.drbgError = false)
    (scratch : jb.inCarrel = false → b.deny c (scratchRange p q jb).1 (scratchRange p q jb).2 = none) :
    (if y.op = 0x10C ∧ b.hex.drbgError then some Status.cryptoFail
      else if jb.inCarrel then none else b.deny c (scratchRange p q jb).1 (scratchRange p q jb).2) = none := by
  have healthy : ¬ (y.op = 0x10C ∧ b.hex.drbgError = true) := fun h => by simp [random h.1] at h
  rw [if_neg healthy]
  cases place : jb.inCarrel with
  | true => rfl
  | false => exact scratch place

/-- Settles O17: what may run has been issued with its end open, so it ends with OK; a primitive that nothing refuses writes its register. -/
theorem workCommandsEnd : Obligations.WorkCommandsEnd := by
  refine ⟨?work, ?primitive⟩
  case work =>
    rintro s b t c n k x e e1 rfl stream entry work may runs ran
    exact commandCompletion_ok stream entry work may runs ran
  case primitive =>
    rintro s b c n k x e jb p q y rest v rfl stream entry job issued undecided prims plan keys todo idle ring random scratch value
    have turn : (e.phase == .issued && !(Claims.fresh s).hasPieces ⟨c, n, k⟩) = true := by simp [issued, idle]
    have streamed : ¬ (!e.keys.isEmpty || !e.todo.isEmpty) = true := by simp [keys, todo]
    cases rest <;> simp only [exec, execRefreshPrimitiveBoundary, act_fresh, stream, entry, job, turn, undecided, prims, plan,
      if_neg streamed, ring, State.primitive_not_refused random scratch, value]

/-! Slot accesses (R64) -/

theorem State.grantNext_some {b : State} {k : Nat} {r : SlotReq} (next : (b.slot k).waiting.find? (b.slot k).grants = some r) :
    b.grantNext k =
      { b with slots := b.slots.put k { b.slot k with granted := (b.slot k).granted ++ [r], waiting := (b.slot k).waiting.erase r } } := by
  simp only [State.grantNext, next]

theorem slotAccessGrant_next {s : State} {k : Nat} {r : SlotReq}
    (next : ((Claims.fresh s).slot k).waiting.find? ((Claims.fresh s).slot k).grants = some r) :
    exec (.slotAccessGrant k) s = .next (s.commit (((Claims.fresh s).grantNext k).afterGrant r.who)) := by
  simp only [exec, execSlotAccessGrant, act_fresh, next]

theorem slotAccessEnd_command {s t : State} {slot req c n k : Nat} {r : SlotReq} {x : Stream} {e : Entry}
    (granted : ((Claims.fresh s).slot slot).granted[req]? = some r) (command : r.who.2.1 = 0) (ctx : c = r.who.1)
    (number : n = r.who.2.2 / 2 ^ 40) (place : k = r.who.2.2 % 2 ^ 40) (stream : (Claims.fresh s).stream c n = some x)
    (entry : (Claims.fresh s).entry c n k = some e) (work : bayOp e.cmd.op = true ∨ e.cmd.op = 0x111)
    (may : (Claims.fresh s).mayRun c n k e = true) (runs : (Claims.fresh s).runEntry c n k x.wing e = .ok t) :
    exec (.slotAccessEnd slot req) s = .next (s.commit ((t.markSecret c n k e).endAccess slot r)) := by
  subst ctx number place
  simp only [exec, execSlotAccessEnd, act_fresh, granted, command, stream, entry]
  rw [if_neg (not_or.2 ⟨by simpa [or_iff_not_imp_left] using work, by rw [may]; decide⟩), runs]

/-- Settles O20: the oldest request that the tag allows is the slot's next grant; a command's access ends once its run has not failed. -/
theorem slotAccesses : Obligations.SlotAccesses := by
  refine ⟨?grant, ?done⟩
  case grant =>
    rintro s b k r rfl next
    rw [slotAccessGrant_next next, State.grantNext_some next]
  case done =>
    rintro s b t slot req c n k r x e rfl granted command ctx number place stream entry work may runs
    exact slotAccessEnd_command granted command ctx number place stream entry work may runs

/-! Bays (R42, R69, R70, R273, R274, R449 to R452) -/

theorem bayPull_next {s t u : State} {bay c n k : Nat} {e : Entry} (up : (Claims.fresh s).bayUp bay = true)
    (applied : ((Claims.fresh s).bay bay).applying = false) (serving : ((Claims.fresh s).bay bay).drained = false)
    (weight : ((Claims.fresh s).bay bay).weight ≠ 0) (room : (Claims.fresh s).inFlight bay < ((Claims.fresh s).bay bay).depth)
    (next : (((List.range 16).map (fun i => (((Claims.fresh s).bay bay).last + 1 + i) % 16)).filter
      (fun c => ((Claims.fresh s).bay bay).entry.getLsbD c)).findSome?
        (fun c => ((Claims.fresh s).nextOf bay c).map (fun q => (c, q))) = some (c, n, k))
    (turned : (Claims.fresh s).turnTo bay c = some t) (served : u = t.setBay bay { t.bay bay with last := c })
    (entry : u.entry c n k = some e) :
    exec (.bayPull bay) s = .next (s.commit
      ((u.setEntry c n k { e with phase := .pulled, bay := some bay }).unqueue (bay / 22) c n k)) := by
  subst served
  have takes : ¬ ((!(Claims.fresh s).bayUp bay) = true ∨ ((Claims.fresh s).bay bay).applying = true
      ∨ ((Claims.fresh s).bay bay).drained = true ∨ ((Claims.fresh s).bay bay).weight = 0
      ∨ ((Claims.fresh s).bay bay).depth ≤ (Claims.fresh s).inFlight bay) := by
    simp [up, applied, serving, weight, room]
  simp only [exec, execBayPull, act_fresh]
  rw [if_neg takes]
  simp only [next, turned, entry]

section
variable {s : State} {bay core c n k i : Nat} {en : Engine} {e : Entry} (entry : (Claims.fresh s).entry c n k = some e)
  (issued : e.phase = .issued) (low : core < 16) (enabled : ((Claims.fresh s).bay bay).cores.testBit core = true)
  (working : (Claims.fresh s).workingOn bay core en ⟨c, n, k⟩ = some i)
include entry issued low enabled working

/-- The piece that an enabled core's engine works on is done and counted, whatever its check; one that passes leaves it at that. -/
theorem pieceComplete_pass (lane : Option Nat) : exec (.pieceComplete bay core en c n k .pass lane) s = .next (s.commit
    (((Claims.fresh s).pieceDone i (engineCode en) ⟨c, n, k⟩).tallyBay bay 93)) := by
  simp only [exec, execPieceComplete, act_fresh, entry, working]
  rw [if_neg (by simp [issued, low, enabled])]

/-- Outside MX no lane stands in for another: a piece that fails its retry ends its command and makes its core suspect. -/
theorem pieceComplete_fail (notMx : en ≠ .mx) (lane : Option Nat) : exec (.pieceComplete bay core en c n k .fail lane) s = .next (s.commit
    (((((((Claims.fresh s).pieceDone i (engineCode en) ⟨c, n, k⟩).tallyBay bay 93).tallyBay bay 96).setFate c n k .integrityFault).faultRec
      (bay / 22) (bay % 22) core 3 0xFF).suspectCore bay core)) := by
  simp only [exec, execPieceComplete, act_fresh, entry, working]
  rw [if_neg (by simp [issued, low, enabled])]
  simp only [if_neg notMx, Option.getD_none]

end

/-- Settles O36: a bay with room finds its next command, the weights are the row's own, a piece's check decides what follows it. -/
theorem baysWork : Obligations.BaysWork := by
  refine ⟨?pull, ?weights, ?pieces⟩
  case pull =>
    rintro s b t bay w c n k e rfl rfl up applied serving weight room next turned u served entry
    exact bayPull_next up applied serving weight room next turned served entry
  case weights =>
    rintro s b wing m ix rfl rfl rfl
    simp only [exec, execWeightUpdate, act_fresh]
  case pieces =>
    rintro s b u bay core c n k i en lane e rfl entry issued low enabled working rfl
    exact ⟨pieceComplete_pass entry issued low enabled working lane, fun notMx => pieceComplete_fail entry issued low enabled working notMx lane⟩

end Sys2Proof.Machine
end

section
/-! Key cards stay in the module and stand while they are named; key passes close, check their headers and release their blocks (R84, R87,
R90, R92, R93, R94). -/

namespace Sys2Proof.Machine

/-! Key cards (R84, R87) -/

/-- Expanding a card's seed leaves it the kind that it has. -/
theorem State.expandSeed_kind {b : State} {c handle : Nat} {cd cd' : Card} (held : b.card c handle = some cd)
    (expanded : (b.expandSeed c handle).card c handle = some cd') : cd'.kind = cd.kind := by
  have same : b.card c handle = some cd' → cd'.kind = cd.kind := fun h => by rw [Option.some.inj (h.symm.trans held)]
  simp only [State.expandSeed, held] at expanded
  split at expanded
  next seed p _ _ =>
    split at expanded
    · exact same expanded
    · generalize b.putComponent cd p 0 1 _ = t at expanded
      cases listed : t.ctxs.get c with
      | none => simp [State.card, State.setCard, State.ctx, Tbl.getD, State.get_setCtx, listed, Tbl.get] at expanded
      | some x =>
        rw [State.card_setCard _ _ _ _ _ (by simp [listed]), if_pos rfl] at expanded
        rw [← Option.some.inj expanded]
  next => exact same expanded

/-- Settles O56: with or without a seed the card is a key card, which is none of the kinds that CARD_EXPORT takes. -/
theorem keysAreNeverExported : Obligations.KeysAreNeverExported := by
  rintro s b m c handle dst cap cd rfl begins held key
  refine (act_runCmd begins _).trans ?_
  congr 2
  cases expanded : ((Claims.begun s m).expandSeed c handle).card c handle with
  | none => simp only [expanded, refuse, Ends.post]
  | some cd' =>
    have kind : cd'.kind = .key := (State.expandSeed_kind held expanded).trans key
    simp [expanded, kind, refuse, Ends.post]

/-- A handle that an undone window entry reads or writes is busy. -/
theorem State.handleBusy_of_window {b : State} {c n k handle : Nat} {x : Stream} {e : Entry} (stream : (n, x) ∈ (b.ctx c).streams)
    (entry : (k, e) ∈ x.window) (undone : e.phase ≠ .done) (named : handle ∈ e.reads ∨ handle ∈ e.writes) :
    b.handleBusy c handle = true := by
  have inFlight : (b.ctx c).streams.any (fun t => t.2.window.any
      (fun e => e.2.phase != .done && (e.2.reads.contains handle || e.2.writes.contains handle))) = true :=
    List.any_eq_true.2 ⟨_, stream, List.any_eq_true.2 ⟨_, entry, by simp [undone, named]⟩⟩
  simp only [State.handleBusy, inFlight, Bool.true_or]

/-- Settles O57: the command in flight makes the handle busy, which CARD_UNBIND tests before it touches the card. -/
theorem busyKeysAreNotUnbound : Obligations.BusyKeysAreNotUnbound := by
  rintro s b m c n k handle cd x e rfl begins inTable - - stream entry undone named
  refine (act_runCmd begins _).trans ?_
  rw [if_neg (by omega), if_pos (State.handleBusy_of_window stream entry undone named)]
  rfl

/-! Key passes (R90, R92, R93, R94) -/

theorem gatherWindowExpire_due {s : State} {wing pass : Nat} {q : Pass} (running : ((Claims.fresh s).wing wing).passes.get pass = some q)
    (due : q.opened + q.window ≤ (Claims.fresh s).time.now) :
    exec (.gatherWindowExpire wing pass) s = .next (s.commit ((Claims.fresh s).setWing wing { (Claims.fresh s).wing wing with
      passes := ((Claims.fresh s).wing wing).passes.put pass { q with closed := true } })) := by
  simp only [exec, execGatherWindowExpire, act_fresh, running]
  rw [if_neg (by omega)]

/-- The integrity round on a key card's four header pages (R93). -/
def State.pagesIntact (b : State) (cd : Card) : Bool := (List.range 4).all (fun i => pageIntact (b.bytes (cd.extents.getD i 0) 96) i)
/-- The identity round on a key card's four header pages (R93). -/
def State.pagesOwn (b : State) (cd : Card) : Bool := (List.range 4).all (fun i => pageIs (b.bytes (cd.extents.getD i 0) 96) cd)

theorem State.pagesIntact_iff {b : State} {cd : Card} :
    b.pagesIntact cd = true ↔ ∀ i, i < 4 → pageIntact (b.bytes (cd.extents.getD i 0) 96) i = true := by
  simp only [State.pagesIntact, List.all_eq_true, List.mem_range]

theorem State.pagesOwn_iff {b : State} {cd : Card} :
    b.pagesOwn cd = true ↔ ∀ i, i < 4 → pageIs (b.bytes (cd.extents.getD i 0) 96) cd = true := by
  simp only [State.pagesOwn, List.all_eq_true, List.mem_range]

theorem State.pagesIntact_eq_false {b : State} {cd : Card}
    (torn : ∃ i, i < 4 ∧ pageIntact (b.bytes (cd.extents.getD i 0) 96) i = false) : b.pagesIntact cd = false := by
  obtain ⟨i, low, torn⟩ := torn
  exact Bool.eq_false_iff.2 fun intact => Bool.false_ne_true (torn.symm.trans (State.pagesIntact_iff.1 intact i low))

theorem State.pagesOwn_eq_false {b : State} {cd : Card}
    (foreign : ∃ i, i < 4 ∧ pageIs (b.bytes (cd.extents.getD i 0) 96) cd = false) : b.pagesOwn cd = false := by
  obtain ⟨i, low, foreign⟩ := foreign
  exact Bool.eq_false_iff.2 fun own => Bool.false_ne_true (foreign.symm.trans (State.pagesOwn_iff.1 own i low))

/-- Once a pass's four header pages are read, their integrity is judged first and their identity second; stored bytes that fail end the pass
at once and mark no unit, which is the model's choice (log entry 82). -/
theorem passHeaderCheck_read {s b : State} {wing pass : Nat} {q : Pass} {cd : Card} (hb : b = Claims.fresh s)
    (running : (b.wing wing).passes.get pass = some q) (held : b.card q.key.1 q.key.2 = some cd) (unchecked : q.checked = false)
    (read : ∀ i, i < 4 → b.reach (cd.extents.getD i 0) 65536 = none ∧ b.poisoned (cd.extents.getD i 0) 65536 = false) :
    exec (.passHeaderCheck wing pass .pass) s = .next (s.commit (
      if b.pagesIntact cd = false then b.endPass wing pass .integrityFault
      else if b.pagesOwn cd = false then b.endPass wing pass .keyMismatch
      else b.setWing wing { b.wing wing with passes := (b.wing wing).passes.put pass { q with checked := true, retried := false } })) := by
  have reached : (List.range 4).findSome? (fun i => b.reach (cd.extents.getD i 0) 65536) = none :=
    List.findSome?_eq_none_iff.2 fun i hi => (read i (List.mem_range.1 hi)).1
  have clean : (List.range 4).any (fun i => b.poisoned (cd.extents.getD i 0) 65536) = false :=
    List.any_eq_false.2 fun i hi => Bool.not_eq_true _ ▸ (read i (List.mem_range.1 hi)).2
  have noRetry : (Check.pass == Check.transient) = false := rfl
  simp only [exec, execPassHeaderCheck, act_fresh, ← hb, running, held, unchecked, reached, clean, State.checked, noRetry]
  rw [← State.pagesIntact, ← State.pagesOwn]
  simp

theorem keyBlockRelease_next {s b t u : State} {wing pass failed j m : Nat} {q : Pass} {cd : Card} {p : ParamSet}
    (hb : b = { ((((Claims.fresh s).wing wing).passes.get pass).map Pass.bays |>.getD []).foldl State.drainKeys (Claims.fresh s) with
      draw := (Claims.fresh s).draw + 1 })
    (running : (b.wing wing).passes.get pass = some q) (held : b.card q.key.1 q.key.2 = some cd) (set : b.pset q.key.1 cd.set = some p)
    (closed : q.closed = true) (checked : q.checked = true) (next : q.blocks[q.next]? = some j) (size : m = blockBytes p cd.keyKind cd.aux)
    (reached : b.reach (blockAddr p cd j) m = none) (room : ∀ i ∈ q.bays, (b.bay i).keyBytes + landed cd m ≤ 0x200000)
    (read : (t, false) = b.readKeyBlock (blockAddr p cd j) m failed)
    (hu : u = q.bays.foldl (fun s i => s.setBay i { s.bay i with keyBuf := (s.bay i).keyBuf ++ [(pass, landed cd m)] }) t) :
    exec (.keyBlockRelease wing pass failed) s = .next (s.commit (
      if q.next + 1 < q.blocks.length then
        u.setWing wing { u.wing wing with passes := (u.wing wing).passes.put pass { q with next := q.next + 1 } }
      else (((q.subs.map (fun x => (x.1, x.2.1, x.2.2.1))).eraseDups).foldl (fun s x => s.keyDone x.1 x.2.1 x.2.2)
        (u.setWing wing { u.wing wing with passes := (u.wing wing).passes.del pass })).wantPasses wing)) := by
  have fits : ¬ q.bays.any (fun i => decide (0x200000 < (b.bay i).keyBytes + landed cd m)) = true := by simpa using room
  have ready : ¬ ((!q.closed) = true ∨ (!q.checked) = true) := by simp [closed, checked]
  simp only [exec, execKeyBlockRelease, act_fresh, ← hb, running, held, Option.bind_some, set, if_neg ready, next, ← size, reached,
    if_neg fits, ← read, ← hu]
  rfl

/-- Settles O37: a due window closes its pass, header pages are judged in two rounds, a block goes out when every buffer has room. -/
theorem keyPassesRun : Obligations.KeyPassesRun := by
  refine ⟨?expire, ?headers, ?release⟩
  case expire =>
    rintro s b wing pass q rfl running due
    exact gatherWindowExpire_due running due
  case headers =>
    rintro s b wing pass q cd hb running held unchecked read
    rw [passHeaderCheck_read hb running held unchecked read]
    refine ⟨fun intact own => ?_, fun intact foreign => ?_, fun torn => ?_⟩
    · rw [if_neg (by simp [State.pagesIntact_iff.2 intact]), if_neg (by simp [State.pagesOwn_iff.2 own])]
    · rw [if_neg (by simp [State.pagesIntact_iff.2 intact]), if_pos (State.pagesOwn_eq_false foreign)]
    · rw [if_pos (State.pagesIntact_eq_false torn)]
  case release =>
    rintro s a b t u wing pass failed j m q cd p rfl hb running held set closed checked next size reached room read hu
    exact keyBlockRelease_next hb running held set closed checked next size reached room read hu

end Sys2Proof.Machine
end

section
/-! Contexts are created, configured, destroyed and wiped; secret regions open and close; the entropy source moves (R165, R168, R171, R368,
R369, R398, R399, R407). -/

namespace Sys2Proof.Machine

/-! Contexts are created, configured and destroyed (R171, R368, R369) -/

section
variable {s b : State} {m : Mbx} {c : Nat} (hb : b = Claims.begun s m)
include hb

theorem contextCreate_done {vf i : Nat} (begins : Claims.begins s m { op := 0x0001, tenant := false, ctx := .none } 255) (vfOk : vf ≤ 16)
    (keeper : b.hex.rdyKeeper = true) (trng : b.hex.trng = true) (drbgs : b.hex.drbgError = false)
    (unbound : vf = 0 ∨ b.ctxs.any (fun c => c.2.vf == some vf) = false)
    (free : (List.range 16).find? (fun j => (b.ctxs.get j).isNone) = some i) :
    exec (.contextCreate m vf) s = .next (s.commit (Claims.ended s m 0x0001 255 [b8 i]
      { b with draw := b.draw + 5, ctxs := b.ctxs.put i (b.freshCtx (if vf = 0 then none else some vf)) })) := by
  subst hb
  refine act_runCmd_done begins ((if_neg (by omega)).trans ((if_neg ?ready).trans ((if_neg ?single).trans ?created)))
  case ready => simp [keeper, trng, drbgs]
  case single =>
    rintro ⟨named, taken⟩
    exact unbound.elim named (fun idle => Bool.false_ne_true (idle.symm.trans taken))
  case created => simp only [free]

theorem contextOption_done {option value old : Nat} {y : Ctx} (begins : Claims.begins s m { op := 0x0003 } c)
    (taken : (b.ctx c).option option value = some (old, y))
    (settled : option ≠ 5 ∨ old = value ∨
      (b.ctx c).cards.any (fun h => h.2.kind == .share && h.2.role == roleTriple && h.2.triple == .opened) = false) :
    exec (.contextOption m option value) s = .next (s.commit (Claims.ended s m 0x0003 c (leBytes 8 old) (b.setCtx c y))) := by
  subst hb
  refine act_runCmd_done begins ?_
  simp only [taken]
  refine if_neg ?_
  rintro ⟨party, changes, opened⟩
  rcases settled with other | same | unopened
  · exact other party
  · exact changes same
  · exact Bool.false_ne_true (unopened.symm.trans opened)

theorem contextDestroy_later (begins : Claims.begins s m { op := 0x0002, tenant := false } c) :
    exec (.contextDestroy m) s = .next (s.commit (b.startWipe c (some (Claims.owed s m 0x0002 c)))) := by
  subst hb
  exact act_runCmd_later begins rfl

end

/-- Settles O1: creation and options pass their checks in their order, and CONTEXT_DESTROY has none of its own. -/
theorem contextCommandsComplete : Obligations.ContextCommandsComplete := by
  refine ⟨?create, ?option, ?destroy⟩
  case create =>
    intro s b m vf i hb begins vfOk keeper trng drbgs unbound free
    exact contextCreate_done hb begins vfOk keeper trng drbgs unbound free
  case option =>
    intro s b m c option value old y hb begins taken settled
    exact contextOption_done hb begins taken settled
  case destroy =>
    intro s b m c hb begins
    exact contextDestroy_later hb begins

/-! A context's reset and wipe (R171, R368, R407) -/

theorem vfFlr_bound {s b : State} {vf c : Nat} {x : Ctx} (up : (Claims.fresh s).hostUp = true) (vf1 : 1 ≤ vf) (vf16 : vf ≤ 16)
    (hb : b = (Claims.fresh s).setMb vf ((Claims.fresh s).mb vf).afterReset)
    (bound : b.ctxs.find? (fun p => p.2.vf == some vf) = some (c, x)) (stands : x.wiping = false) :
    exec (.vfFlr vf) s = .next (s.commit (b.startWipe c none)) := by
  have isVf : ¬ ((!(Claims.fresh s).hostUp) = true ∨ vf = 0 ∨ 16 < vf) := by
    simp only [up, not_or]
    exact ⟨by simp, by omega, by omega⟩
  subst hb
  simp only [exec, execVfFlr, act_fresh]
  rw [if_neg isVf]
  simp only [bound, stands]
  rfl

/-- What the end of a wipe leaves of `s`, in which the bays and the regions of the wiped context `x` are done: the regions' ranges go on being
zero-filled, no wing holds work of the context, and it is gone, its submitter answered, or stands fresh on its VF (Table 6.6). -/
def State.wipeEnded (s : State) (c : Nat) (x : Ctx) : State :=
  let t : State := { s with
    fills := s.fills ++ (x.regions ++ x.filling.map (fun f => f.1))
    wings := s.wings.map (fun w => (w.1, { w.2 with queues := w.2.queues.del c, passes := w.2.passes.filter (fun q => q.2.key.1 != c) })) }
  match x.wipeOwed with
  | some o => ({ t with ctxs := t.ctxs.del c }).complete o .ok []
  | none => { t with draw := t.draw + 5, ctxs := t.ctxs.put c (t.freshCtx x.vf) }

theorem contextWipeDone_wiping {s : State} {c : Nat} {x : Ctx} (stands : (Claims.fresh s).ctxs.get c = some x) (wiping : x.wiping = true) :
    exec (.contextWipeDone c) s = .next (s.commit (((x.regions ++ x.filling.map (fun f => f.1)).foldl
      (fun s r => s.scramble r.base r.len) ((Claims.fresh s).wipeBays c)).wipeEnded c x)) := by
  simp only [exec, execContextWipeDone, act_fresh, stands]
  rw [if_neg (by simp [wiping])]
  rfl

/-! Secret regions (R165) -/

section
variable {s b : State} {m : Mbx} {c base : Nat} {r : Region}

theorem secretRegionOpen_done {len : Nat} (hb : b = Claims.begun s m) (begins : Claims.begins s m { op := 0x0203 } c)
    (aligned : base % 65536 = 0) (pages : len % 65536 = 0) (nonempty : 0 < len) (below : base < 2 ^ 40)
    (inStack : base % 2 ^ 36 + len ≤ b.grade.stackBytes) (apart : b.regionHit base len = false) (cardless : b.cardIn base len = false)
    (ready : (b.stk (dpaStack base)).ready = true) (room : (b.ctx c).regions.length < 64) :
    exec (.secretRegionOpen m base len) s = .next (s.commit (Claims.ended s m 0x0203 c []
      (b.setCtx c { b.ctx c with regions := (b.ctx c).regions ++ [{ base := base, len := len }] }))) := by
  subst hb
  refine act_runCmd_done begins ((if_neg ?range).trans ((if_neg ?served).trans (if_neg (by omega))))
  case range =>
    simp only [apart, cardless, not_or]
    exact ⟨by omega, by omega, by omega, by omega, by omega, by simp, by simp⟩
  case served => simp [ready]

theorem secretRegionClose_later (hb : b = Claims.begun s m) (begins : Claims.begins s m { op := 0x0204 } c)
    (held : (b.ctx c).regions.find? (fun r => r.base == base) = some r) (cardless : b.cardIn r.base r.len = false) :
    exec (.secretRegionClose m base) s = .next (s.commit (b.setCtx c { b.ctx c with
      regions := (b.ctx c).regions.erase r, filling := (b.ctx c).filling ++ [(r, some (Claims.owed s m 0x0204 c))] })) := by
  subst hb
  refine act_runCmd_later begins ?_
  simp only [held, cardless]
  rfl

theorem secretRegionZeroFillDone_owed {o : Owed} (hb : b = Claims.fresh s) (noWiped : b.fills.find? (fun r => r.base == base) = none)
    (closing : b.ctxs.findSome? (fun c => (c.2.filling.find? (fun f => f.1.base == base)).map (fun f => (c.1, f))) = some (c, (r, some o))) :
    exec (.secretRegionZeroFillDone base) s = .next (s.commit
      (((b.setCtx c { b.ctx c with filling := (b.ctx c).filling.erase (r, some o) }).zeroFill r.base r.len).complete o .ok [])) := by
  subst hb
  simp only [exec, execSecretRegionZeroFillDone, act_fresh, noWiped, closing]

end

/-- Settles O2: a bound VF and a context being wiped are found where they stand, a region passes its checks in their order. -/
theorem contextWipesAndSecretRegions : Obligations.ContextWipesAndSecretRegions := by
  refine ⟨⟨?reset, ?wiped⟩, ?opens, ?closes, ?zeroed⟩
  case reset =>
    intro s b vf c x up vf1 vf16 hb bound stands
    exact vfFlr_bound up vf1 vf16 hb bound stands
  case wiped =>
    rintro s b c x stands wiping rfl
    exact contextWipeDone_wiping stands wiping
  case opens =>
    intro s b m c base len hb begins aligned pages nonempty below inStack apart cardless ready room
    exact secretRegionOpen_done hb begins aligned pages nonempty below inStack apart cardless ready room
  case closes =>
    intro s b m c base r hb begins held cardless
    exact secretRegionClose_later hb begins held cardless
  case zeroed =>
    intro s b base c r o hb noWiped closing
    exact secretRegionZeroFillDone_owed hb noWiped closing

/-! The entropy source and the DRBGs (R168, R398, R399) -/

section
variable {s b : State} (hb : b = Claims.fresh s)
include hb

theorem entropyStartupTestDone_first {pass : Bool} (running : b.power.st = .run) (untested : b.hex.trng = false)
    (noError : b.hex.drbgError = false) :
    exec (.entropyStartupTestDone pass) s = .next (s.commit (if pass then b.entropyPass else b.entropyFail)) := by
  subst hb
  simp only [exec, execEntropyStartupTestDone, act_fresh]
  rw [if_neg (by simp [running, untested, noError])]

theorem entropyHealthFail_passed (running : b.power.st = .run) (passed : b.hex.trng = true) :
    exec .entropyHealthFail s = .next (s.commit b.entropyFail) := by
  subst hb
  simp only [exec, execEntropyHealthFail, act_fresh]
  rw [if_pos ⟨running, passed⟩]

theorem entropyRestartTest_pass (running : b.power.st = .run) (error : b.hex.drbgError = true) :
    exec (.entropyRestartTest true) s = .next (s.commit
      ((((b.entropyPass).setHealth 4 false).event .ok 0xF 0xFF [0]).errRec 0xF 0xFF 0xFF [0])) := by
  subst hb
  simp only [exec, execEntropyRestartTest, act_fresh]
  rw [if_pos ⟨running, error, trivial⟩]

theorem drbgReseed_due {c w : Nat} {x : Ctx} {d : Drbg} (stands : b.ctxs.get c = some x) (seeded : x.drbg.get w = some d)
    (noError : b.hex.drbgError = false) (due : 2 ^ 20 ≤ d.requests ∨ d.since + 1000000000 ≤ b.time.now) :
    exec (.drbgReseed c w) s = .next (s.commit (b.reseed c w)) := by
  subst hb
  have isDue : d.due (Claims.fresh s).time.now = true := decide_eq_true due
  simp only [exec, execDrbgReseed, act_fresh, stands, Option.bind_some, seeded]
  rw [if_neg (by simp [noError, isDue])]

end

/-- Settles O6: each command finds the source, or the instance, in the state that its rule names and takes its effect. -/
theorem entropySourceMoves : Obligations.EntropySourceMoves := by
  refine ⟨?startup, ?fails, ?restart, ?reseeds⟩
  case startup =>
    intro s b pass hb running untested noError
    exact entropyStartupTestDone_first hb running untested noError
  case fails =>
    intro s b hb running passed
    exact entropyHealthFail_passed hb running passed
  case restart =>
    intro s b hb running error
    exact entropyRestartTest_pass hb running error
  case reseeds =>
    intro s b c w x d hb stands seeded noError due
    exact drbgReseed_due hb stands seeded noError due

end Sys2Proof.Machine
end

section
/-! Streams are started, extended and aborted; folios are fetched and work commands decoded; the stream front executes its own commands
(R180 to R183, R189 to R193, R195, R196, R201, R251, R254, R272). -/

namespace Sys2Proof.Machine

/-! Streams are started, extended and aborted (R180, R182, R201, R272) -/

section
variable {s b : State} {m : Mbx} {c n folio : Nat} (hb : b = Claims.begun s m)
include hb

theorem streamStart_lowest {wing seq : Nat} (begins : Claims.begins s m { op := 0x0401 } c) (wingOk : wing < 4)
    (up : (b.wing wing).ready = true) (stackUp : b.folioReady folio = true) (unbroken : b.broken c = false) (grouped : b.group wing c ≠ [])
    (free : (List.range 64).find? (fun n => ((b.ctx c).streams.get n).isNone) = some n) (room : b.streamsOn wing < 64)
    (share : (b.ctx c).streams.countP (fun t => t.2.wing == wing) < 16) :
    exec (.streamStart m wing folio seq) s = .next (s.commit (Claims.ended s m 0x0401 c [b8 n] (b.setCtx c { b.ctx c with
      streams := (b.ctx c).streams.put n { wing := wing, port := m.port, epoch := (b.mb (portIx m.port)).epoch, folio := folio
                                           seq := BitVec.ofNat 32 seq } }))) := by
  subst hb
  refine act_runCmd_done begins ((if_neg (by omega)).trans ((if_neg ?ready).trans ?numbered))
  case ready => simp [up, stackUp, unbroken, grouped]
  case numbered =>
    simp only [free]
    exact if_neg (by omega)

theorem streamExtend_parked {x : Stream} (begins : Claims.begins s m { op := 0x0402 } c) (held : b.stream c n = some x)
    (parked : x.state = .parked) (up : (b.wing x.wing).ready = true) (stackUp : b.folioReady folio = true) :
    exec (.streamExtend m n folio) s = .next (s.commit (Claims.ended s m 0x0402 c [] (b.setStream c n { x with
      state := .running, folio := folio, seq := x.seq + 1, ord := x.ord + 1, slot := 0, loaded := false }))) := by
  subst hb
  refine act_runCmd_done begins ?_
  simp only [held]
  exact (if_neg (not_not.2 parked)).trans (if_neg (by simp [up, stackUp]))

theorem streamAbort_open {x : Stream} (begins : Claims.begins s m { op := 0x0403 } c) (held : b.stream c n = some x)
    (unended : x.ended = false) :
    exec (.streamAbort m n) s = .next (s.commit (Claims.ended s m 0x0403 c [] (b.abortStream c n false))) := by
  subst hb
  refine act_runCmd_done begins ?_
  simp only [held]
  exact if_neg (by simp [unended])

end

/-- Settles O9: each command passes its checks in their order, and a start finds the lowest free number. -/
theorem streamCommandsComplete : Obligations.StreamCommandsComplete := by
  refine ⟨?start, ?extend, ?abort⟩
  case start =>
    intro s b m c wing folio seq n hb begins wingOk up stackUp unbroken grouped free room share
    exact streamStart_lowest hb begins wingOk up stackUp unbroken grouped free room share
  case extend =>
    intro s b m c n folio x hb begins held parked up stackUp
    exact streamExtend_parked hb begins held parked up stackUp
  case abort =>
    intro s b m c n x hb begins held unended
    exact streamAbort_open hb begins held unended

/-! The steps of R189 before a command's own effect -/

/-- A command that the checks before its wait let through, and whose condition does not hold, registers its wait and stays (R194, R251). -/
theorem State.decodeCmd_waits {b : State} {c n : Nat} {x : Stream} {cmd : SCmd} {head rest : Bool} (notEnd : cmd.op ≠ 5)
    (encoded : b.encodingFault c x.wing head cmd = none) (selected : cmd.pred = true → x.flgs.testBit cmd.predIdx ≠ cmd.predSense)
    (homed : b.lostSpec c x.wing cmd = false) (first : x.wait = none) (waits : cmd.wait = true)
    (unmet : condHolds cmd.waitCond (b.syncValue c cmd.waitId) cmd.waitValue = false) :
    b.decodeCmd c n x cmd head rest = b.setStream c n { x with
      wait := some { id := cmd.waitId, cond := cmd.waitCond, value := cmd.waitValue, satisfied := false, reported := false } } := by
  simp only [State.decodeCmd]
  rw [if_neg (fun h => notEnd h.1)]
  simp only [encoded]
  rw [if_neg (fun h => selected h.1 h.2)]
  simp [homed, first, waits, unmet]

/-- A wait that an open front still holds has been reported to it (R194). -/
theorem State.reported_of_frontOpen {b : State} {c : Nat} {x : Stream} {w : FrontWait} (isOpen : b.frontOpen c x = true)
    (held : x.wait = some w) : w.reported = true := by
  simp only [State.frontOpen, Bool.and_eq_true, held, Option.all_some] at isOpen
  exact isOpen.2

/-- A wait holds a command at an open front only while neither a report nor its condition lets it go (R189, R251). -/
theorem State.wait_passes {b : State} {c : Nat} {x : Stream} {cmd : SCmd} (isOpen : b.frontOpen c x = true)
    (met : cmd.wait = true → x.wait.isSome = true ∨ condHolds cmd.waitCond (b.syncValue c cmd.waitId) cmd.waitValue = true) :
    (!((x.wait.map (fun w => w.reported)).getD false || !cmd.wait)
      && !condHolds cmd.waitCond (b.syncValue c cmd.waitId) cmd.waitValue) = false := by
  cases waits : cmd.wait with
  | false => simp
  | true =>
    rcases met waits with held | holds
    · obtain ⟨w, hw⟩ := Option.isSome_iff_exists.1 held
      simp [hw, State.reported_of_frontOpen isOpen hw]
    · simp [holds]

/-- A work command that every step of R189 lets through enters its stream's window, its handles resolved (R187, R195, R196). -/
theorem State.decodeCmd_enters {b : State} {c n : Nat} {x : Stream} {cmd : SCmd} {head : Bool} (isOpen : b.frontOpen c x = true)
    (work : frontOp cmd.op = false) (encoded : b.encodingFault c x.wing head cmd = none)
    (selected : cmd.pred = true → x.flgs.testBit cmd.predIdx ≠ cmd.predSense) (homed : b.lostSpec c x.wing cmd = false)
    (met : cmd.wait = true → x.wait.isSome = true ∨ condHolds cmd.waitCond (b.syncValue c cmd.waitId) cmd.waitValue = true)
    (inTable : runPast (b.uses c (resolve cmd (x.cnt cmd.idxCnt))) = false) (room : b.windowRoom c x = true) :
    b.decodeCmd c n x cmd head true = (b.setStream c n x.step).enter c n (resolve cmd (x.cnt cmd.idxCnt)) := by
  have notEnd : cmd.op ≠ 5 := fun h => by simp [h, frontOp] at work
  simp only [State.decodeCmd]
  rw [if_neg (fun h => notEnd h.1)]
  simp only [encoded]
  rw [if_neg (fun h => selected h.1 h.2)]
  simp only [State.wait_passes isOpen met, homed, work, inTable, room]
  rfl

/-! Folios are fetched, work commands decode, reported waits are released (R181, R183, R189, R251) -/

section
variable {s b : State} {c n : Nat} {x : Stream}

theorem folioFetch_load {a : State} {chk : Check} (ha : a = Claims.fresh s) (hb : b = a.checked x.wing x.folio chk)
    (held : a.stream c n = some x) (running : x.state = .running) (unloaded : x.loaded = false) (serving : (a.wing x.wing).drained = false)
    (sound : b.folioFault c x chk = none) :
    exec (.folioFetch c n chk) s = .next (s.commit
      ((b.setStream c n { x with loaded := true, kept := (x.folio :: x.kept.filter (· != x.folio)).take 4 }).trailer c n)) := by
  subst ha hb
  simp only [exec, execFolioFetch, act_fresh, held]
  rw [if_neg (by simp [running, unloaded, serving])]
  simp only [sound]

variable (hb : b = Claims.fresh s) (held : b.stream c n = some x)
include hb held

/-- The command at the place of a front that skips no loop's body goes through R189. -/
theorem streamDecode_next {cmd : SCmd} (isOpen : b.frontOpen c x = true) (loaded : x.loaded = true) (outside : x.skip = 0)
    (more : x.slot < b.folioCount x) (spelt : cmd = parseCmd (b.bytes (x.folio + 64 * x.slot) 64)) :
    exec (.streamDecode c n) s = .next (s.commit ((b.decodeCmd c n x cmd (headClear (b.bytes (x.folio + 64 * x.slot) 64))
      (restClear (b.bytes (x.folio + 64 * x.slot) 64) cmd)).decoded c n x)) := by
  subst hb spelt
  simp only [exec, execStreamDecode, act_fresh, held]
  rw [if_neg (by simp [isOpen, loaded]), if_neg (by omega), State.decode, if_neg (by omega)]

theorem waitSatisfied_reported {w : FrontWait} (waiting : x.wait = some w) (satisfied : w.satisfied = true) :
    exec (.waitSatisfied c n) s = .next (s.commit (b.setStream c n { x with wait := some { w with reported := true } })) := by
  subst hb
  simp only [exec, execWaitSatisfied, act_fresh, held, waiting]
  rw [if_pos satisfied]

end

/-- Settles O10: a fetch finds no fault, a work command passes every step of R189, and a satisfied wait is marked as reported. -/
theorem streamFrontCompletes : Obligations.StreamFrontCompletes := by
  refine ⟨?fetch, ?decode, ?release⟩
  case fetch =>
    intro s a b c n chk x ha hb held running unloaded serving sound
    exact folioFetch_load ha hb held running unloaded serving sound
  case decode =>
    rintro s b c n x bs cmd r hb held isOpen loaded outside more rfl spelt work encoded clear selected homed met rfl inTable room
    rw [streamDecode_next hb held isOpen loaded outside more spelt, clear,
      State.decodeCmd_enters isOpen work encoded selected homed met inTable room]
  case release =>
    intro s b c n x w hb held waiting satisfied
    exact waitSatisfied_reported hb held waiting satisfied

/-! What a front command does to its stream (R190 to R193, R251, R254, Tables 7.10 and 7.11) -/

section
variable {cmd : SCmd} {x : Stream} (bare : noHandles cmd = true)
include bare

theorem frontCntSet_ok (clear : bits cmd.imm 4 60 = 0) :
    frontCntSet cmd x = .ok (x.setCnt (cmd.imm % 16) (BitVec.ofNat 64 (cmd.imm / 2 ^ 64))) :=
  if_neg (by simp [bare, clear])

theorem frontCntAdd_ok (clear5 : bits cmd.imm 5 3 = 0) (clear12 : bits cmd.imm 12 52 = 0)
    (noValue : cmd.imm.testBit 4 = true → cmd.imm / 2 ^ 64 = 0) :
    frontCntAdd cmd x = .ok (x.setCnt (cmd.imm % 16)
      (x.cnt (cmd.imm % 16) + if cmd.imm.testBit 4 then x.cnt (bits cmd.imm 8 4) else BitVec.ofNat 64 (cmd.imm / 2 ^ 64))) :=
  if_neg (by
    simp only [bare, clear5, clear12, not_or]
    exact ⟨by simp, by simp, by simp, fun h => h.2 (noValue h.1)⟩)

/-- The flag that `cmp.set` leaves: the comparison, or its conjunction or disjunction with the flag as it stood. -/
theorem frontCmpSet_ok (cond : bits cmd.imm 4 3 < 6) (mode : bits cmd.imm 9 2 ≠ 3) (clear11 : cmd.imm.testBit 11 = false)
    (clear19 : bits cmd.imm 19 45 = 0) (noValue : cmd.imm.testBit 8 = true → cmd.imm / 2 ^ 64 = 0) :
    frontCmpSet cmd x = .ok (
      let r := cmpHolds (bits cmd.imm 4 3) (cmd.imm.testBit 7) (x.cnt (cmd.imm % 16))
        (if cmd.imm.testBit 8 then x.cnt (bits cmd.imm 12 4) else BitVec.ofNat 64 (cmd.imm / 2 ^ 64))
      let f := bits cmd.imm 16 3
      let new := match bits cmd.imm 9 2 with | 0 => r | 1 => x.flgs.testBit f && r | _ => x.flgs.testBit f || r
      { x with flgs := bitmap 8 (fun j => if j = f then new else x.flgs.testBit j) }) :=
  if_neg (by
    simp only [bare, clear11, clear19, not_or]
    exact ⟨by simp, by omega, mode, by simp, by simp, fun h => h.2 (noValue h.1)⟩)

/-- The stream after a loop's index counter, where it has one, has been written (Table 7.11). -/
def Stream.setIndex (x : Stream) (index : Option Nat) (v : W64) : Stream :=
  match index with | some j => x.setCnt j v | none => x

/-- A well-encoded `loop.begin` of count 0 skips its body, and any other opens its loop at iteration 0 (R192). -/
theorem frontLoopBegin_ok {count : Nat} (clear6 : bits cmd.imm 6 2 = 0) (clear12 : bits cmd.imm 12 4 = 0) (clear64 : cmd.imm / 2 ^ 64 = 0)
    (noValue : cmd.imm.testBit 4 = true → bits cmd.imm 16 32 = 0) (body : bits cmd.imm 48 16 ≠ 0)
    (counts : count = if cmd.imm.testBit 4 then (x.cnt (cmd.imm % 16)).toNat else bits cmd.imm 16 32) (small : count < 2 ^ 32)
    (depth : 0 < count → x.loops.length < 4) :
    frontLoopBegin cmd x = .ok (
      let index := if cmd.imm.testBit 5 then some (bits cmd.imm 8 4) else none
      let l : Loop :=
        { folio := x.folio, slot := x.slot, seq := x.seq, ord := x.ord, start := x.ix - 1, beginOrd := x.ord, len := bits cmd.imm 48 16
          left := count, iter := 0, index := index }
      if count = 0 then { x with skip := bits cmd.imm 48 16 + 1 } else { x.setIndex index 0 with loops := l :: x.loops }) := by
  simp only [frontLoopBegin, ← counts]
  rw [if_neg ?encoded]
  case encoded =>
    simp only [bare, clear6, clear12, clear64, not_or]
    exact ⟨by simp, by simp, by simp, by simp, fun h => h.2 (noValue h.1), body, by omega⟩
  rcases Nat.eq_zero_or_pos count with zero | positive
  · rw [if_pos zero, if_pos zero]
  · have nonzero : count ≠ 0 := by omega
    rw [if_neg nonzero, if_neg (by have := depth positive; omega), if_neg nonzero]
    cases cmd.imm.testBit 5 <;> rfl

end

section
variable {cmd : SCmd} {x : Stream} {l : Loop} {rest : List Loop} (plain : plainEnd cmd = true) (nest : x.loops = l :: rest)
  (place : x.ix - 1 = l.start + l.len + 1)
include plain nest place

/-- At the end of the last iteration the index counter is left at the number of that iteration (R193). -/
theorem frontLoopEnd_last (last : l.left ≤ 1) :
    frontLoopEnd cmd x = .ok { x.setIndex l.index (BitVec.ofNat 64 l.iter) with loops := rest } := by
  simp only [frontLoopEnd, nest]
  rw [if_neg (by simp [place, plain]), if_pos last]
  rfl

/-- At the end of any other iteration the front goes back to the first command of the body (R193). -/
theorem frontLoopEnd_again (more : ¬ l.left ≤ 1) :
    frontLoopEnd cmd x = .ok { x.setIndex l.index (BitVec.ofNat 64 (l.iter + 1)) with
      loops := { l with left := l.left - 1, iter := l.iter + 1 } :: rest, folio := l.folio, slot := l.slot, seq := l.seq, ord := l.ord
      ix := l.start + 1, loaded := x.kept.contains l.folio } := by
  simp only [frontLoopEnd, nest]
  rw [if_neg (by simp [place, plain]), if_neg more]
  cases l.index <;> rfl

end

theorem frontSyncWait_ok {cmd : SCmd} {x : Stream} (bare : noHandles cmd = true) (waits : cmd.wait = true) (clear : cmd.imm = 0) :
    frontSyncWait cmd x = .ok x :=
  if_neg (by simp [bare, waits, clear])

theorem frontSyncSignal_ok {cmd : SCmd} {x : Stream} (bare : noHandles cmd = true) (signals : cmd.signal = true)
    (clear : bits cmd.imm 2 62 = 0)
    (form : (cmd.imm % 4 = 0 ∧ cmd.imm / 2 ^ 64 = 0) ∨ (cmd.imm % 4 = 1 ∧ cmd.delta = 0)) : frontSyncSignal cmd x = .ok x :=
  if_neg (by
    simp only [bare, signals, clear, not_or]
    exact ⟨by simp, by simp, by omega, by simp, by omega, by omega⟩)

/-! The front's own commands execute (R189, R199) -/

section
variable {s b : State} {c n : Nat} {cmd : SCmd} {x : Stream} (hb : b = Claims.fresh s)
include hb

/-- The row of a front command that R189 lets through takes the command's effect on its stream. -/
theorem act_frontRow_fronted {op : Nat} {y : Stream} (front : Claims.fronts b c n op cmd x) (row : frontOp op = true)
    (plain : op = 5 → plainEnd cmd = true) (effect : cmd.op = op → noHandles cmd = true → frontEffect cmd x.step = .ok y) :
    act s (fun t => t.frontRow c n op cmd) = .next (s.commit (Claims.fronted b c n cmd x y)) := by
  obtain ⟨held, isOpen, outside, isOp, bare, encoded, selected, homed, met, fenced⟩ := front
  rw [act_fresh, ← hb,
    State.frontRow_ok b c n op cmd x y held isOpen isOp row outside bare plain encoded selected homed met fenced (effect isOp bare)]
  rfl

/-- A `sync.wait` whose condition does not hold when the front comes to it leaves its wait at the front (R251). -/
theorem syncWait_registers (held : b.stream c n = some x) (isOpen : b.frontOpen c x = true) (outside : x.skip = 0) (isOp : cmd.op = 0x010)
    (encoded : b.encodingFault c x.wing true cmd = none) (selected : cmd.pred = true → x.flgs.testBit cmd.predIdx ≠ cmd.predSense)
    (homed : b.lostSpec c x.wing cmd = false) (first : x.wait = none) (waits : cmd.wait = true)
    (unmet : condHolds cmd.waitCond (b.syncValue c cmd.waitId) cmd.waitValue = false) :
    exec (.syncWait c n cmd) s = .next (s.commit ((b.setStream c n { x with
      wait := some { id := cmd.waitId, cond := cmd.waitCond, value := cmd.waitValue, satisfied := false, reported := false } }).decoded
        c n x)) := by
  subst hb
  simp only [exec, execSyncWait, act_fresh, State.frontRow, held]
  rw [if_neg (by simp [isOpen, isOp, outside]),
    State.decodeCmd_waits (by simp [isOp]) encoded selected homed first waits unmet]

end

/-- Settles O11: R189 lets each command through to its own effect, and a wait that is not met is registered before it. -/
theorem frontCommandsComplete : Obligations.FrontCommandsComplete := by
  refine ⟨?cntSet, ?cntAdd, ?cmpSet, ?loopBegin, ?loopEnd, ?waitPasses, ?waitRegisters, ?signalAdd, ?signalSet⟩
  case cntSet =>
    rintro s b c n cmd x i hb rfl front clear
    refine act_frontRow_fronted hb front rfl (by simp) fun isOp bare => ?_
    rw [frontEffect, isOp]
    exact frontCntSet_ok bare clear
  case cntAdd =>
    rintro s b c n cmd x i hb rfl front clear5 clear12 noValue
    refine act_frontRow_fronted hb front rfl (by simp) fun isOp bare => ?_
    rw [frontEffect, isOp]
    exact frontCntAdd_ok bare clear5 clear12 noValue
  case cmpSet =>
    rintro s b c n cmd x i hb rfl front cond mode clear11 clear19 noValue
    refine act_frontRow_fronted hb front rfl (by simp) fun isOp bare => ?_
    rw [frontEffect, isOp]
    exact frontCmpSet_ok bare cond mode clear11 clear19 noValue
  case loopBegin =>
    rintro s b c n cmd x i count hb rfl front clear6 clear12 clear64 noValue body counts small depth
    refine act_frontRow_fronted hb front rfl (by simp) fun isOp bare => ?_
    rw [frontEffect, isOp]
    exact frontLoopBegin_ok bare clear6 clear12 clear64 noValue body counts small depth
  case loopEnd =>
    intro s b c n cmd x l rest hb front plain nest place
    refine act_frontRow_fronted hb front rfl (fun _ => plain) fun isOp _ => ?_
    rw [frontEffect, isOp]
    by_cases last : l.left ≤ 1
    · rw [if_pos last]
      exact frontLoopEnd_last plain nest place last
    · rw [if_neg last]
      exact frontLoopEnd_again plain nest place last
  case waitPasses =>
    intro s b c n cmd x hb front waits clear
    refine act_frontRow_fronted hb front rfl (by simp) fun isOp bare => ?_
    rw [frontEffect, isOp]
    exact frontSyncWait_ok bare waits clear
  case waitRegisters =>
    intro s b c n cmd x hb held isOpen outside isOp encoded selected homed first waits unmet
    exact syncWait_registers hb held isOpen outside isOp encoded selected homed first waits unmet
  case signalAdd =>
    intro s b c n cmd x hb front signals clear add noValue
    simp only [exec, execSyncSignalAdd, add]
    refine act_frontRow_fronted hb front rfl (by simp) fun isOp bare => ?_
    rw [frontEffect, isOp]
    exact frontSyncSignal_ok bare signals clear (.inl ⟨add, noValue⟩)
  case signalSet =>
    intro s b c n cmd x hb front signals clear set noDelta
    simp only [exec, execSyncSignalSet, set]
    refine act_frontRow_fronted hb front rfl (by simp) fun isOp bare => ?_
    rw [frontEffect, isOp]
    exact frontSyncSignal_ok bare signals clear (.inr ⟨set, noDelta⟩)

end Sys2Proof.Machine
end

section
/-! DMA channels open, close and stop; chains start, fetch their descriptors and end (R228, R230 to R241, R256). -/

namespace Sys2Proof.Machine

/-! Channels (R228, R240) -/

section
variable {s b : State} {m : Mbx} {c wing ch : Nat} {h : Channel} (hb : b = Claims.begun s m)
include hb

theorem dmaChannelOpen_lowest {kind stop vector port window status i : Nat} (begins : Claims.begins s m { op := 0x0601 } c)
    (wingOk : wing < 4) (kindOk : kind ≤ 1) (stopOk : stop ≤ 1) (vectorOk : vector ≤ 63)
    (ownVector : (if portIx m.port = 0 then 4 else 1) ≤ vector) (aligned : status % 64 = 0) (populated : b.populated status = true)
    (clear : b.secretHit status 64 = false) (windowOk : window ≤ 255)
    (portOk : port = 0xFF ∨ (kind = 1 ∧ port / 2 = wing ∧ (b.port port).present = true ∧ (b.port port).lost = false))
    (up : (b.wing wing).ready = true) (stackUp : (b.stk (dpaStack status)).ready = true)
    (free : (if kind = 1 then List.range 16 else (List.range 64).map (· + 16)).find? (fun i => (b.chan wing i).isNone) = some i)
    (room : ((b.wing wing).chans.filter (fun h => h.2.ctx == c)).length < 16)
    (bulkRoom : kind = 1 → ((b.wing wing).chans.filter (fun h => h.2.ctx == c)).countP (fun h => h.2.bulk) < 8) :
    exec (.dmaChannelOpen m wing kind stop vector port window status) s = .next (s.commit (
      let ch : Channel :=
        { ctx := c, fn := portIx m.port, bulk := kind == 1, byDesc := stop == 1, vector := vector
          port := if port = 0xFF then none else some port, window := window, status := status }
      Claims.ended s m 0x0601 c [b8 i] (b.setWing wing { b.wing wing with chans := (b.wing wing).chans.put i ch }))) := by
  subst hb
  refine act_runCmd_done begins ((if_neg ?operands).trans ((if_neg ?present).trans ((if_neg ?ready).trans ?numbered)))
  case operands =>
    simp only [populated, clear, not_or]
    exact ⟨by omega, by omega, by omega, by omega, by omega, by omega, by simp, by simp, by omega, by omega⟩
  case present =>
    rintro ⟨named, absent⟩
    obtain ⟨-, -, present, kept⟩ := portOk.resolve_left named
    simp [present, kept] at absent
  case ready => simp [up, stackUp]
  case numbered =>
    simp only [free]
    exact if_neg (not_or.2 ⟨by omega, fun full => absurd (bulkRoom full.1) (by omega)⟩)

theorem dmaChannelClose_idle (begins : Claims.begins s m { op := 0x0602 } c) (own : b.ownChan c wing ch = some h) (idle : h.state = .idle) :
    exec (.dmaChannelClose m wing ch) s = .next (s.commit (Claims.ended s m 0x0602 c []
      (b.setWing wing { b.wing wing with chans := (b.wing wing).chans.del ch }))) := by
  subst hb
  refine act_runCmd_done begins ?_
  simp only [own]
  exact if_neg (not_not.2 idle)

theorem dmaChannelStop_idle (begins : Claims.begins s m { op := 0x0603 } c) (own : b.ownChan c wing ch = some h) (idle : h.state = .idle) :
    exec (.dmaChannelStop m wing ch) s = .next (s.commit (Claims.ended s m 0x0603 c [] b)) := by
  subst hb
  refine act_runCmd_done begins ?_
  simp only [own]
  exact if_pos idle

theorem dmaChannelStop_busy (begins : Claims.begins s m { op := 0x0603 } c) (own : b.ownChan c wing ch = some h) (busy : h.state ≠ .idle) :
    exec (.dmaChannelStop m wing ch) s = .next (s.commit (b.setChan wing ch { h with
      state := .stopping, stopOwed := h.stopOwed ++ [Claims.owed s m 0x0603 c] })) := by
  subst hb
  refine act_runCmd_later begins ?_
  simp only [own]
  exact if_neg busy

end

/-! Stops take effect (R239, R240) -/

section
variable {s b : State} {w ch : Nat} {h : Channel} {x : Chain} (hb : b = Claims.fresh s) (opened : b.chan w ch = some h)
  (running : h.chain = some x) (stopping : h.state = .stopping)
include hb opened running stopping

theorem dmaStopTakesEffect_burst (byBurst : h.byDesc = false) :
    exec (.dmaStopTakesEffect w ch) s = .next (s.commit (b.stopBurst w ch false)) := by
  subst hb
  simp only [exec, execDmaStopTakesEffect, act_fresh, opened, running]
  rw [if_neg (not_not.2 stopping), if_pos (by simp [byBurst])]

/-- With no descriptor in flight that must wait, the one in flight completes; unless it waits for its transfer's identifier, its merged group
follows and the stop lands. -/
theorem dmaStopTakesEffect_boundary (byDesc : h.byDesc = true) (boundary : x.flight = none ∨ b.canFinish w ch = true) :
    exec (.dmaStopTakesEffect w ch) s = .next (s.commit (
      if (((b.finishFlight w ch .pass).chan w ch).bind (fun h => h.chain)).any (fun y => y.flight.isSome && y.fault.isNone) then
        b.finishFlight w ch .pass
      else ((b.finishFlight w ch .pass).finishGroup w ch 65536).stopHere w ch false)) := by
  subst hb
  have moves : ¬ (x.flight.isSome && !(Claims.fresh s).canFinish w ch) = true := by
    rcases boundary with landed | able
    · simp [landed]
    · simp [able]
  simp only [exec, execDmaStopTakesEffect, act_fresh, opened, running]
  rw [if_neg (not_not.2 stopping), if_neg (by simp [byDesc]), if_neg moves]

/-- A descriptor that has moved no byte and holds no slot is withdrawn. -/
theorem dmaStopTakesEffect_withdrawn {f : Nat × List Byte} (byDesc : h.byDesc = true) (inFlight : x.flight = some f)
    (waits : b.canFinish w ch = false) (unmoved : x.done = 0)
    (holdsNone : b.slots.all (fun p => p.2.granted.all (fun r => r.who != chanWho h.ctx w ch)) = true) :
    exec (.dmaStopTakesEffect w ch) s = .next (s.commit
      ((b.setChain w ch { x with flight := none, desc := some f.1, toTake := [] }).stopHere w ch false)) := by
  subst hb
  simp only [exec, execDmaStopTakesEffect, act_fresh, opened, running]
  rw [if_neg (not_not.2 stopping), if_neg (by simp [byDesc]), if_pos (by simp [inFlight, waits]), if_pos (by simp [unmoved, holdsNone])]
  simp only [inFlight]

end

theorem dmaStopForced_descriptor {s b : State} {w ch : Nat} {h : Channel} (hb : b = Claims.fresh s) (opened : b.chan w ch = some h)
    (stopping : h.state = .stopping) (byDesc : h.byDesc = true) :
    exec (.dmaStopForced w ch) s = .next (s.commit (b.stopBurst w ch true)) := by
  subst hb
  simp only [exec, execDmaStopForced, act_fresh, opened]
  rw [if_pos ⟨stopping, byDesc⟩]

/-- Settles O18: an opening passes its checks in their order and finds the lowest free channel; how a channel was opened decides where a stop
lands. -/
theorem channelCommandsAndStops : Obligations.ChannelCommandsAndStops := by
  refine ⟨⟨?opens, ?closes, ?stops⟩, ?takesEffect⟩
  case opens =>
    intro s b m c wing kind stop vector port window status i hb begins wingOk kindOk stopOk vectorOk ownVector aligned populated clear windowOk
      portOk up stackUp free room bulkRoom
    exact dmaChannelOpen_lowest hb begins wingOk kindOk stopOk vectorOk ownVector aligned populated clear windowOk portOk up stackUp free room
      bulkRoom
  case closes =>
    intro s b m c wing ch h hb begins own idle
    exact dmaChannelClose_idle hb begins own idle
  case stops =>
    intro s b m c wing ch h hb begins own
    by_cases idle : h.state = .idle
    · rw [if_pos idle]
      exact dmaChannelStop_idle hb begins own idle
    · rw [if_neg idle]
      exact dmaChannelStop_busy hb begins own idle
  case takesEffect =>
    intro s b w ch h x hb opened running stopping
    refine ⟨dmaStopTakesEffect_burst hb opened running stopping, ?boundary, ?withdrawn, dmaStopForced_descriptor hb opened stopping⟩
    case boundary =>
      rintro byDesc boundary u rfl
      exact dmaStopTakesEffect_boundary hb opened running stopping byDesc boundary
    case withdrawn =>
      intro byDesc f inFlight waits unmoved holdsNone
      exact dmaStopTakesEffect_withdrawn hb opened running stopping byDesc inFlight waits unmoved holdsNone

/-! Chains start (R230, R231) -/

/-- A core channel's chain goes to a bay of its context's group. -/
theorem State.group_ne_nil_of_dmBays {b : State} {w c : Nat} (bays : b.dmBays w c ≠ []) : b.group w c ≠ [] :=
  fun empty => bays (by rw [State.dmBays, empty, List.filter_nil])

/-- A command whose channel is idle and free to it, with no earlier command waiting, starts its chain there. -/
theorem State.onChannel_starts {b : State} {w ch c n k : Nat} {h : Channel} {start : Chain}
    (untested : (h.port.map b.portHeld).getD false = false) (idle : h.state = .idle) (placed : h.bulk = true ∨ b.dmBays w c ≠ [])
    (first : b.nextWaiting c h.waiting = none) (opened : b.chan w ch = some h) :
    b.onChannel w ch c n k h start = (b.setChan w ch { h with waiting := [] }).startChain w ch c n k start := by
  simp only [State.onChannel]
  rw [if_neg (by simp [untested]), if_pos ⟨idle, placed⟩]
  simp only [first, opened]

theorem dmGo_starts {s b : State} {c n k ch : Nat} {x : Stream} {e : Entry} {o : Option Status} {h : Channel} (hb : b = Claims.fresh s)
    (ready : b.issueReady c n k 0x502 = some (x, e, o)) (checked : b.chkGo c x e = .ok (ch, h))
    (untested : (h.port.map b.portHeld).getD false = false) (idle : h.state = .idle) (placed : h.bulk = true ∨ b.dmBays x.wing c ≠ [])
    (first : b.nextWaiting c h.waiting = none) (opened : b.chan x.wing ch = some h) :
    exec (.dmGo c n k) s = .next (s.commit ((b.setChan x.wing ch { h with waiting := [] }).startChain x.wing ch c n k
      { stream := n, entry := k, desc := some (bits e.cmd.imm 0 48) })) := by
  subst hb
  have grouped : ¬ ((!h.bulk) = true ∧ (Claims.fresh s).group x.wing c = []) := by
    rintro ⟨core, empty⟩
    rcases placed with bulk | bays
    · simp [bulk] at core
    · exact State.group_ne_nil_of_dmBays bays empty
  simp only [exec, execDmGo, act_fresh, ready, checked]
  rw [if_neg grouped, State.onChannel_starts untested idle placed first opened]

/-! Descriptors are fetched (R233 to R239) -/

/-- The chain `x` with the descriptor `bs`, read at `at_`, in flight: its fields parsed, its slots to take, its merged group joined or begun
(R236, R239). `secret` says whether it is seen to read secret data. -/
def Chain.fetched (x : Chain) (at_ : Nat) (bs : List Byte) (remote secret : Bool) : Chain :=
  let d := parseDesc bs
  { x with
    desc := if d.next = 0 then none else some d.next, flight := some (at_, bs), done := 0, toTake := d.slots remote, secret := secret
    group := match joins x.group d remote with | some g => g | none => if d.single then [(d.src, d.dst, d.bytes)] else [] }

/-- A descriptor that has no fault, and takes secret data nowhere it may not go, is in flight and asks for its slots. -/
theorem State.fetchDesc_flight {b t : State} {w ch at_ : Nat} {chk : Check} {h : Channel} {x : Chain} (opened : b.chan w ch = some h)
    (running : h.chain = some x) (next : x.desc = some at_) (landed : x.flight = none) (sound : x.fault = none)
    (linked : (h.port.map (fun p => (b.port p).st != .active)).getD false = false) (ht : t = b.checked w at_ chk)
    (formed : t.descFault at_ chk h.port.isSome = none)
    (allowed : (t.secretSource h.ctx (parseDesc (t.bytes at_ 64))
      && !t.secretDest h.ctx (parseDesc (t.bytes at_ 64)) h.port.isSome) = false) :
    b.fetchDesc w ch chk = (t.setChain w ch (x.fetched at_ (t.bytes at_ 64) h.port.isSome
      (t.secretSource h.ctx (parseDesc (t.bytes at_ 64))))).takeSlots w ch := by
  subst ht
  simp only [State.fetchDesc, opened, running, next]
  rw [if_neg (by simp [landed, sound]), if_neg (by simp [linked])]
  simp only [formed]
  rw [if_neg (by simp [allowed])]
  rfl

theorem descriptorFetch_active {s a : State} {w ch : Nat} {chk : FetchChecks} {g : Channel} (ha : a = Claims.fresh s)
    (opened : a.chan w ch = some g) (active : g.state = .active) :
    exec (.descriptorFetch w ch chk) s = .next (s.commit ((a.finishFlight w ch chk.data).fetchDesc w ch chk.fetch)) := by
  subst ha
  simp only [exec, execDescriptorFetch, act_fresh, opened]
  rw [if_pos active]

/-! Chains end (R232, R256) -/

section
variable {s b : State} {w ch : Nat} {data : Check} {h : Channel} {x : Chain} (hb : b = (Claims.fresh s).finishFlight w ch data)
  (opened : b.chan w ch = some h) (running : h.chain = some x)
include hb opened running

theorem dmaChainEnd_done (last : x.desc = none) (landed : x.flight = none) (sound : x.fault = none)
    (done : (b.chainSignal w ch).chainDone w ch = true) :
    exec (.dmaChainEnd w ⟨ch, data⟩) s = .next (s.commit ((b.chainSignal w ch).endChain w ch .ok false)) := by
  subst hb
  simp only [exec, execDmaChainEnd, act_fresh, opened, running, sound]
  rw [if_neg (by simp [last, landed]), if_pos done]

theorem dmaChainEnd_failed {st : Status} (failed : x.fault = some st) :
    exec (.dmaChainEnd w ⟨ch, data⟩) s = .next (s.commit (b.endChain w ch st false)) := by
  subst hb
  simp only [exec, execDmaChainEnd, act_fresh, opened, running, failed]

end

/-- Settles O19: a command that may start finds its channel free, a fetch passes its checks in their order, a chain's end follows its fault. -/
theorem chainsRun : Obligations.ChainsRun := by
  refine ⟨?starts, ?fetches, ?ends, ?fails⟩
  case starts =>
    intro s b c n k ch x e o h hb ready checked untested idle placed first opened
    exact dmGo_starts hb ready checked untested idle placed first opened
  case fetches =>
    rintro s a b t w ch at_ data chk g h x d bs ha activeOpen active rfl opened running next landed sound linked ht formed rfl rfl allowed
    rw [descriptorFetch_active ha activeOpen active,
      State.fetchDesc_flight opened running next landed sound linked ht formed allowed]
    rfl
  case ends =>
    rintro s b t w ch data h x hb opened running last landed sound rfl done
    exact dmaChainEnd_done hb opened running last landed sound done
  case fails =>
    intro s b w ch data h x st hb opened running failed
    exact dmaChainEnd_failed hb opened running failed

end Sys2Proof.Machine
end

section
/-! What only the host sees (R247, R348, R349, R351, R353 to R356). -/

namespace Sys2Proof.Machine

/-- Held events go to the host's ring alone (R353). -/
theorem State.inner_evtDrain (s : State) (fuel : Nat) : (s.evtDrain fuel).inner = s.inner := by
  induction fuel generalizing s with
  | zero => rfl
  | succ f ih =>
    rw [State.evtDrain]
    split
    · rfl
    · split
      · exact (ih _).trans (State.inner_evtWrite _ _)
      · rfl

/-- An answer to the submitter reaches only the host. -/
theorem Ends.inner_post (d : Ends) (o : Owed) : (d.post o).inner = d.state.inner := by
  cases d with
  | done st res t => exact State.inner_complete t o st res
  | later t => rfl

/-- A mailbox command whose own effect only the host sees changes nothing else, begun or refused. -/
theorem State.inner_runCmd (s : State) (m : Mbx) (r : CmdRow) (body : Owed → Nat → State → Ends)
    (unseen : ∀ o c t, (body o c t).state.inner = t.inner) : (s.runCmd m r body).inner = s.inner := by
  simp only [State.runCmd]
  split
  · rfl
  · split
    · refine (State.inner_complete _ _ _ _).trans ?_
      split <;> rfl
    · split
      · exact State.inner_complete _ _ _ _
      · exact (Ends.inner_post _ _).trans (unseen _ _ _)

theorem machine_eq_inner (s : State) : Claims.machine s = { s.inner with stores := [] } := rfl

/-- A step whose effect only the host sees leaves the machine as it was: no store lands, and what ends the step reaches only the host. -/
theorem machine_of_act {s t : State} {f : State → State} (e : act s f = .next t)
    (unseen : (f (Claims.fresh s)).inner = (Claims.fresh s).inner) : Claims.machine t = Claims.machine s := by
  obtain rfl : s.commit (f (Claims.fresh s)) = t := Host.Outcome.next.inj e
  have mem : (f (Claims.fresh s)).mem = s.mem := (congrArg State.mem unseen :)
  have stores : (f (Claims.fresh s)).stores = [] := (congrArg State.stores unseen :)
  have listed : (if s.mem.isEmpty then [] else s.mem) = s.mem := by
    split
    · next none_listed => exact (List.isEmpty_iff.1 none_listed).symm
    · rfl
  rw [machine_eq_inner, State.inner_commit, unseen, mem, stores, listed]
  rfl

/-- A function's register accesses need the host link; without it they change nothing. -/
theorem inner_of_hostUp {s t : State} (unseen : t.inner = s.inner) : (if s.hostUp then t else s).inner = s.inner := by
  split
  · exact unseen
  · rfl

theorem inner_of_not_hostUp {s t : State} (unseen : t.inner = s.inner) : (if !s.hostUp then s else t).inner = s.inner := by
  split
  · rfl
  · exact unseen

/-! Each row's effect -/

theorem machine_mbxSqTail {s t : State} {p : MPort} {v : W32} (e : exec (.mbxSqTail p v) s = .next t) :
    Claims.machine t = Claims.machine s :=
  machine_of_act e (inner_of_hostUp (State.inner_setMb _ _ _))

theorem machine_mbxPhaseTimeout {s t : State} {p : MPort} (e : exec (.mbxPhaseTimeout p) s = .next t) :
    Claims.machine t = Claims.machine s := by
  refine machine_of_act e ?_
  split
  · exact State.inner_setMb _ _ _
  · rfl

theorem machine_evtHead {s t : State} {v : W32} (e : exec (.evtHead v) s = .next t) : Claims.machine t = Claims.machine s :=
  machine_of_act e (inner_of_hostUp (State.inner_evtDrain _ _))

theorem machine_evtRingCtrl {s t : State} {v : W32} (e : exec (.evtRingCtrl v) s = .next t) : Claims.machine t = Claims.machine s :=
  machine_of_act e (inner_of_hostUp (State.inner_evtDrain _ _))

theorem machine_rcRegisterRead {s t : State} {off : Nat} (e : exec (.rcRegisterRead off) s = .next t) :
    Claims.machine t = Claims.machine s := by
  simp only [exec, execRcRegisterRead] at e
  refine machine_of_act e (inner_of_not_hostUp ?_)
  split
  · rfl
  · split <;> rfl

theorem machine_lowHalfRead {s t : State} {p : MPort} {off : Nat} (e : exec (.lowHalfRead p off) s = .next t) :
    Claims.machine t = Claims.machine s := by
  simp only [exec, execLowHalfRead] at e
  refine machine_of_act e ?_
  split <;> rfl

theorem machine_badWidthAccess {s t : State} {p : MPort} {write : Bool} (e : exec (.badWidthAccess p write) s = .next t) :
    Claims.machine t = Claims.machine s := by
  simp only [exec, execBadWidthAccess] at e
  refine machine_of_act e (inner_of_not_hostUp ?_)
  split
  · exact State.inner_count _ _ _
  · rfl

theorem machine_irqCause {s t : State} {v : W32} (e : exec (.irqCause v) s = .next t) : Claims.machine t = Claims.machine s :=
  machine_of_act e (inner_of_hostUp rfl)

theorem machine_ckoCtrl {s t : State} {v : W32} (e : exec (.ckoCtrl v) s = .next t) : Claims.machine t = Claims.machine s := by
  simp only [exec, execCkoCtrl] at e
  exact machine_of_act e (inner_of_not_hostUp rfl)

/-- A read of the window gives the host bytes, and counts an access to a secret region (R349). -/
theorem machine_stagingRead {s t : State} {off len : Nat} (e : exec (.stagingRead off len) s = .next t) :
    Claims.machine t = Claims.machine s := by
  simp only [exec, execStagingRead] at e
  refine machine_of_act e (inner_of_not_hostUp ?_)
  split
  · rfl
  · split
    · rfl
    · split
      · rfl
      · split <;> rfl

theorem machine_d3hotEntry {s t : State} {p : MPort} (e : exec (.d3hotEntry p) s = .next t) : Claims.machine t = Claims.machine s :=
  machine_of_act e (inner_of_hostUp (State.inner_setMb _ _ _))

/-- A counter's value is read from the context as it stands (R247). -/
theorem machine_syncRead {s t : State} {m : Mbx} {id : Nat} (e : exec (.syncRead m id) s = .next t) :
    Claims.machine t = Claims.machine s := by
  refine machine_of_act e (State.inner_runCmd _ _ _ _ fun _ c b => ?_)
  split
  · rfl
  · split <;> rfl

/-- Settles O53: each row's effect reaches only the host, and so does what ends its step. -/
theorem hostRowsLeaveTheMachine : Obligations.HostRowsLeaveTheMachine := by
  intro c s t row e
  cases c
  case mbxSqTail => exact machine_mbxSqTail e
  case mbxPhaseTimeout => exact machine_mbxPhaseTimeout e
  case evtHead => exact machine_evtHead e
  case evtRingCtrl => exact machine_evtRingCtrl e
  case rcRegisterRead => exact machine_rcRegisterRead e
  case lowHalfRead => exact machine_lowHalfRead e
  case badWidthAccess => exact machine_badWidthAccess e
  case irqCause => exact machine_irqCause e
  case ckoCtrl => exact machine_ckoCtrl e
  case stagingRead => exact machine_stagingRead e
  case d3hotEntry => exact machine_d3hotEntry e
  case syncRead => exact machine_syncRead e
  all_goals exact absurd row Bool.false_ne_true

end Sys2Proof.Machine
end

section
/-! Sync counters, watches and barriers (R247, R249, R250, R253, R259 to R263, R267, Tables 10.2 and 10.4). -/

namespace Sys2Proof.Machine

/-! Counters are mapped, unmapped, read and updated (R247, R249, R259, R267) -/

/-- A mapped counter, in reach of its home, takes the value or the sum, and the conditions on it are evaluated (R249, R250). -/
theorem State.update_counter {b : State} {c id : Nat} {v : VSync} (mapped : b.vsync c id = some v) (counter : v.kind = 0)
    (homed : b.counterLost v = false) (set : Bool) (value : W64) :
    b.update c id set value = (b.setVsync c id { v with value := if set then value else v.value + value }).wake c id := by
  simp only [State.update, mapped]
  exact if_neg (by simp [counter, homed])

section
variable {s b : State} {m : Mbx} {c id : Nat} {v : VSync} (hb : b = Claims.begun s m)
include hb

theorem syncMap_done {first count kind home expected : Nat} {init : W64} (begins : Claims.begins s m { op := 0x0501 } c) (some_ids : 0 < count)
    (inRange : first + count ≤ 4096) (formed : homeForm home = true) (bayRoom : home.testBit 15 = false → count ≤ 32)
    (unmapped : (List.range count).any (fun i => ((b.ctx c).sync.get (first + i)).isSome) = false)
    (kinds : (kind = 0 ∧ expected = 0) ∨ (kind = 1 ∧ first % 2 = 0 ∧ count % 2 = 0 ∧ 1 ≤ expected ∧ expected ≤ 65535))
    (homed : b.homeLost home = false) (ready : b.homeReady home = true) (room : b.homeUsed home + count ≤ homeCapacity home) :
    exec (.syncMap m first count kind home init expected) s = .next (s.commit (Claims.ended s m 0x0501 c [] (b.setCtx c { b.ctx c with
      sync := (List.range count).foldl (fun t i => t.put (first + i) (mappedAs kind home (first + i) expected init)) (b.ctx c).sync }))) := by
  subst hb
  refine act_runCmd_done begins ((if_neg ?operands).trans ((if_neg ?lost).trans ((if_neg ?notReady).trans (if_neg ?full))))
  case operands =>
    simp only [formed, unmapped, not_or]
    refine ⟨by omega, by omega, by omega, by simp, ?_, by simp, by omega, by omega⟩
    rintro ⟨bay, many⟩
    have := bayRoom (by simpa using bay)
    omega
  case lost => simp [homed]
  case notReady => simp [ready]
  case full => omega

/-- Every ID is mapped, barriers in whole pairs, and none but those of a lost home is in use (R248, R267). -/
theorem syncUnmap_done {first count : Nat} {ids : List Nat} (begins : Claims.begins s m { op := 0x0502 } c)
    (hids : ids = (List.range count).map (· + first)) (some_ids : 0 < count) (inRange : first + count ≤ 4096)
    (whole : ∀ i ∈ ids, ∃ v, (b.ctx c).sync.get i = some v ∧ (v.kind = 1 → i + 1 ∈ ids) ∧ (v.kind = 2 → i - 1 ∈ ids))
    (unused : ∀ i ∈ ids, b.busyIds c i = true → (b.vsync c i).any (fun v => b.counterLost v) = true) :
    exec (.syncUnmap m first count) s = .next (s.commit (Claims.ended s m 0x0502 c [] (b.setCtx c { b.ctx c with
      sync := (b.ctx c).sync.filter (fun v => !ids.contains v.1) }))) := by
  subst hb hids
  refine act_runCmd_done begins ((if_neg ?operands).trans (if_neg ?busy))
  case operands =>
    simp only [not_or, Bool.not_eq_true', Bool.not_eq_false, List.all_eq_true]
    refine ⟨by omega, by omega, fun i hi => ?_⟩
    obtain ⟨v, mapped, first_of_pair, second_of_pair⟩ := whole i hi
    simp only [mapped]
    split
    · next one => exact List.contains_iff_mem.2 (first_of_pair one)
    · split
      · next two => exact List.contains_iff_mem.2 (second_of_pair two)
      · rfl
  case busy =>
    simp only [List.any_eq_true, Bool.and_eq_true, Bool.not_eq_true', not_exists, not_and, Bool.not_eq_false]
    exact unused

theorem syncRead_done (begins : Claims.begins s m { op := 0x0503 } c) (mapped : b.vsync c id = some v) (homed : b.counterLost v = false) :
    exec (.syncRead m id) s = .next (s.commit (Claims.ended s m 0x0503 c (leBytes 8 (b.syncValue c id).toNat) b)) := by
  subst hb
  refine act_runCmd_done begins ?_
  simp only [mapped]
  exact if_neg (by simp [homed])

theorem syncUpdate_done {op : Nat} {value : W64} (begins : Claims.begins s m { op := 0x0504 } c) (mapped : b.vsync c id = some v)
    (opOk : op ≤ 1) (counter : v.kind = 0) (homed : b.counterLost v = false) :
    exec (.syncUpdate m id op value) s = .next (s.commit (Claims.ended s m 0x0504 c [] (b.update c id (op == 1) value))) := by
  subst hb
  refine act_runCmd_done begins ?_
  simp only [mapped]
  exact (if_neg (by omega)).trans (if_neg (by simp [homed]))

end

/-- Settles O12: each command passes its checks in their order. -/
theorem syncCommandsComplete : Obligations.SyncCommandsComplete := by
  refine ⟨?map, ?unmap, ?read, ?update⟩
  case map =>
    intro s b m c first count kind home init expected hb begins some_ids inRange formed bayRoom unmapped kinds homed ready room
    exact syncMap_done hb begins some_ids inRange formed bayRoom unmapped kinds homed ready room
  case unmap =>
    intro s b m c first count ids hb begins hids some_ids inRange whole unused
    exact syncUnmap_done hb begins hids some_ids inRange whole unused
  case read =>
    intro s b m c id v hb begins mapped homed
    exact syncRead_done hb begins mapped homed
  case update =>
    intro s b m c id op value v hb begins mapped opOk counter homed
    exact syncUpdate_done hb begins mapped opOk counter homed

/-! Watches (R247, R253) -/

section
variable {s b : State} {m : Mbx} {c id cond deadline : Nat} {value : W64} {v : VSync} (hb : b = Claims.begun s m)
  (begins : Claims.begins s m { op := 0x0505 } c) (mapped : b.vsync c id = some v) (condOk : cond < 7) (deadlineOk : deadline < 2 ^ 40)
  (homed : b.counterLost v = false) (room : (b.ctx c).watches.length < 64) (roomInAll : b.watchCount < 1024)
include hb begins mapped condOk deadlineOk homed room roomInAll

theorem syncWatch_holds (holds : condHolds cond (b.syncValue c id) value = true) :
    exec (.syncWatch m id cond value deadline) s
      = .next (s.commit (Claims.ended s m 0x0505 c (leBytes 8 (b.syncValue c id).toNat) b)) := by
  subst hb
  refine act_runCmd_done begins ?_
  simp only [mapped]
  exact (if_neg (by omega)).trans ((if_neg (by simp [homed])).trans ((if_neg (by omega)).trans (if_pos holds)))

theorem syncWatch_registers (unmet : condHolds cond (b.syncValue c id) value = false) :
    exec (.syncWatch m id cond value deadline) s = .next (s.commit (
      let w : Watch := { owed := Claims.owed s m 0x0505 c, id := id, cond := cond, value := value, start := b.time.now, deadline := deadline }
      b.setCtx c { b.ctx c with watches := (b.ctx c).watches ++ [w] })) := by
  subst hb
  refine act_runCmd_later begins ?_
  simp only [mapped]
  exact (if_neg (by omega)).trans ((if_neg (by simp [homed])).trans ((if_neg (by omega)).trans (if_neg (by simp [unmet]))))

end

theorem syncWatchDeadline_due {s b : State} {c tag : Nat} {w : Watch} (hb : b = Claims.fresh s)
    (due : (b.ctx c).watches.find? (fun w => w.owed.tag == tag && w.deadline != 0 && decide (w.start + w.deadline ≤ b.time.now)) = some w) :
    exec (.syncWatchDeadline c tag) s = .next (s.commit (b.endWatch c w .notReady (leBytes 8 (b.syncValue c w.id).toNat))) := by
  subst hb
  simp only [exec, execSyncWatchDeadline, act_fresh, due]

theorem syncWatchCancel_done {s b : State} {m : Mbx} {c tag : Nat} {w : Watch} (hb : b = Claims.begun s m)
    (begins : Claims.begins s m { op := 0x0506 } c) (registered : (b.ctx c).watches.find? (fun w => w.owed.tag == tag) = some w) :
    exec (.syncWatchCancel m tag) s = .next (s.commit (Claims.ended s m 0x0506 c [] (b.endWatch c w .stopped []))) := by
  subst hb
  refine act_runCmd_done begins ?_
  simp only [registered]

/-- Settles O13: a watch passes its checks in their order and is judged last; the others find the watch registered. -/
theorem watchesComplete : Obligations.WatchesComplete := by
  refine ⟨?watch, ?deadline, ?cancel⟩
  case watch =>
    intro s b m c id cond value deadline v hb begins mapped condOk deadlineOk homed room roomInAll
    split
    · next holds => exact syncWatch_holds hb begins mapped condOk deadlineOk homed room roomInAll holds
    · next unmet =>
      exact syncWatch_registers hb begins mapped condOk deadlineOk homed room roomInAll (Bool.eq_false_iff.2 unmet)
  case deadline =>
    intro s b c tag w hb due
    exact syncWatchDeadline_due hb due
  case cancel =>
    intro s b m c tag w hb begins registered
    exact syncWatchCancel_done hb begins registered

/-! Barriers (R261, R263, Table 10.4) -/

/-- Settles O14: the ID names a barrier whose home stands, so BARRIER_RESET reopens it. -/
theorem barrierResetReopens : Obligations.BarrierResetReopens := by
  rintro s b m c id gen v rfl begins mapped arrivals homed
  refine act_runCmd_done begins ?_
  simp only [mapped]
  exact (if_neg (not_not.2 arrivals)).trans (if_neg (by simp [homed]))

/-- What an arrival of generation `g` does at its barrier `v`, by its distance from the barrier's generation (Table 10.4). -/
theorem State.arrive_mapped {b : State} {c id : Nat} {v : VSync} (mapped : b.vsync c id = some v) (homed : b.counterLost v = false) (g : Nat) :
    b.arrive c id g =
      let d := (g + 2 ^ 32 - v.value.toNat % 2 ^ 32) % 2 ^ 32
      if v.broken then (b, .barrierOverrun)
      else if d = 0 then ((((b.setVsync c id { v with a := v.a + 1 }).advance c id 2).wake c id), .ok)
      else if d = 1 ∧ v.h + 1 ≤ v.e then (((b.setVsync c id { v with h := v.h + 1 }).wake c id), .ok)
      else (b.breakBarrier c id v, .barrierOverrun) := by
  simp only [State.arrive, mapped]
  exact if_neg (by simp [homed])

/-- An arrival that is under way completes with its outcome at the barrier. -/
theorem barrierArrival_ends {s b t : State} {c n k : Nat} {e e1 : Entry} {st : Status} (hb : b = Claims.fresh s)
    (stands : b.entry c n k = some e) (issued : e.phase = .issued) (isOp : e.cmd.op = 0x012) (sound : e.fate = none)
    (arrived : b.arrive c (bits e.cmd.imm 0 12) (bits e.cmd.imm 16 32) = (t, st)) (left : t.entry c n k = some e1) :
    exec (.barrierArrival c n k) s = .next (s.commit (t.finish c n k e1 st)) := by
  subst hb
  simp only [exec, execBarrierArrival, act_fresh, stands, sound, arrived, left]
  rw [if_neg (by simp [issued, isOp])]

theorem counterUpdate_applies {s b : State} {c id : Nat} {v : VSync} (hb : b = Claims.fresh s) (mapped : b.vsync c id = some v)
    (counter : v.kind = 0) (homed : b.counterLost v = false) (set : Bool) (value : W64) :
    exec (.counterUpdate c id set value) s = .next (s.commit
      ((b.setVsync c id { v with value := if set then value else v.value + value }).wake c id)) := by
  subst hb
  rw [← State.update_counter mapped counter homed]
  rfl

/-- Settles O15: the arrival's outcome is that of Table 10.4, the update's that of R249. -/
theorem barriersAndCountersComplete : Obligations.BarriersAndCountersComplete := by
  refine ⟨?arrival, ?update⟩
  case arrival =>
    rintro s b t c n k id e e1 v st hb stands issued isOp sound rfl mapped homed outcome left
    exact barrierArrival_ends hb stands issued isOp sound ((State.arrive_mapped mapped homed _).trans outcome.symm) left
  case update =>
    intro s b c id set value v hb mapped counter homed
    exact counterUpdate_applies hb mapped counter homed set value

end Sys2Proof.Machine
end

section
/-! Refusals, stamps, time flits and the time exchange (R257, R318, R320, R324, R328, R329, R439). -/

namespace Sys2Proof.Machine

/-! Flits whose turn has come (R314, R315) -/

/-- What keeps a flit row from acting does not stand when the flit's turn has come. -/
theorem flitTurn_acts {b u : State} {p ftype : Nat} {f : Flit} (turn : Claims.flitTurn b p ftype f u) :
    ¬ ((b.port p).st ≠ .active ∨ f.ftype ≠ ftype ∨ (!(b.port p).next f) = true) := by
  obtain ⟨active, type, next, -⟩ := turn
  simp [active, type, next]

/-- The row acts once a held group that its flit breaks off has been refused (Table 13.8). -/
theorem flitTurn_state {b u : State} {p ftype : Nat} {f : Flit} (turn : Claims.flitTurn b p ftype f u) : b.interrupts p f = u :=
  turn.2.2.2.symm

section
variable {s b u : State} {p : Nat} {f : Flit} (hb : b = Claims.fresh s)
include hb

theorem rdata_discarded (turn : Claims.flitTurn b p 4 f u) : exec (.rdata p f) s = .next (s.commit ((u.count 5 1).freeRx p f)) := by
  subst hb
  simp only [exec, execRdata, act_fresh]
  rw [if_neg (flitTurn_acts turn), flitTurn_state turn]

/-- Of the flits that still wait, those of the refused transfer are withdrawn (R320). -/
theorem tnak_endsTransfer (turn : Claims.flitTurn b p 8 f u) :
    exec (.tnak p f) s = .next (s.commit (
      let x := (u.port p).tally 26
      (((u.setPort p { x with queue := x.queue.filter (fun g => !([1, 2, 5, 6, 7].contains g.ftype && g.window == f.window
        && g.transfer == f.transfer)) }).endTransfer p f.window f.transfer (fld f.payload 4 4) (refusalOf (fld f.payload 0 1))).freeRx p f))) := by
  subst hb
  simp only [exec, execTnak, act_fresh]
  rw [if_neg (flitTurn_acts turn), flitTurn_state turn]

theorem stamp_taken (turn : Claims.flitTurn b p 9 f u) (peer : (b.port p).role = 1) (forwards : (b.port p).forward = true) :
    exec (.stamp p f) s = .next (s.commit (((u.setPort p ((u.port p).tally 27)).takeStamp p f.payload).freeRx p f)) := by
  subst hb
  simp only [exec, execStamp, act_fresh]
  rw [if_neg (flitTurn_acts turn), if_pos ⟨peer, forwards⟩, flitTurn_state turn]

theorem time_taken {t : State} {w : Follow} (turn : Claims.flitTurn b p 0xA f u) (peer : (b.port p).role = 1)
    (follows : (b.port p).timeMode = 1) (runs : (b.port p).timeStopped = false)
    (ht : t = u.setPort p { u.port p with report := some (fld f.payload 0 2, fld f.payload 8 8) }) (server : t.time.follow = some (p, w)) :
    exec (.time p f) s = .next (s.commit (
      ({ t with time := { t.time with follow := some (p, { w with serverHold := fld f.payload 16 1 % 2 == 1 }) } } : State).freeRx p f)) := by
  subst hb
  simp only [exec, execTime, act_fresh]
  rw [if_neg (flitTurn_acts turn), if_neg (not_not.2 peer), if_pos ⟨follows, by simp [runs]⟩, flitTurn_state turn, ← ht]
  simp only [server, if_true]

end

/-! Tallies and refused transfers end (R257, R320) -/

theorem tallyTimeout_due {s b : State} {p window transfer : Nat} {a : Arrival} (hb : b = Claims.fresh s)
    (waits : (b.port p).tallyOf window transfer = some a) (due : a.since + 10000000 ≤ b.time.now) :
    exec (.tallyTimeout p window transfer) s = .next (s.commit ((b.setPort p ((b.port p).dropTally window transfer)).count 4 1)) := by
  subst hb
  simp only [exec, execTallyTimeout, act_fresh, waits]
  rw [if_pos due]

theorem refusedTransferDiscardEnd_due {s b : State} {p window transfer : Nat} (hb : b = Claims.fresh s)
    (due : (b.port p).refusedAt.getD (window * 65536 + transfer) 0 + 10000000 ≤ b.time.now) :
    exec (.refusedTransferDiscardEnd p window transfer) s = .next (s.commit
      (b.setPort p { b.port p with refused := (b.port p).refused.erase (window, transfer)
                                   refusedAt := (b.port p).refusedAt.del (window * 65536 + transfer) })) := by
  subst hb
  simp only [exec, execRefusedTransferDiscardEnd, act_fresh]
  rw [if_neg (by omega)]

/-! The time exchange (R328, R439) -/

theorem timeReport_sent {s b : State} {p l : Nat} {m : Marker} (hb : b = Claims.fresh s) (active : (b.port p).st = .active)
    (serves : (b.port p).timeMode = 2) (runs : (b.port p).timeStopped = false)
    (marked : (b.port p).markers.find? (fun m => m.2.logical == 0) = some (l, m)) :
    exec (.timeReport p) s = .next (s.commit (b.send p [flitOf 0xA false 0 0 0
      (leBytes 2 m.superframe ++ zeros 6 ++ leBytes 8 m.arrive ++ [if b.holdover then 1 else 0])])) := by
  subst hb
  simp only [exec, execTimeReport, act_fresh, marked]
  rw [if_neg (by simp [active, serves, runs])]

/-- The offset is judged by whether the server is acquired, and then by how many in a row are far (R439). -/
theorem timeMeasurement_taken {s b : State} {p : Nat} {m : TimeMeas} {w : Follow} (hb : b = Claims.fresh s)
    (follows : b.time.follow = some (p, w)) (active : (b.port p).st = .active) (runs : (b.port p).timeStopped = false)
    (valid : m.valid = true) :
    exec (.timeMeasurement p m) s = .next (s.commit (b.measured p w ((m.dIn - m.dOut) / 2))) := by
  subst hb
  simp only [exec, execTimeMeasurement, act_fresh, follows]
  rw [if_neg (by simp [active, runs, valid])]

/-- Settles O25: a flit's turn lets its row act, what is due goes ahead, a valid offset is taken as R439 says. -/
theorem otherFlitsAndTimeExchange : Obligations.OtherFlitsAndTimeExchange := by
  refine ⟨⟨?rdata, ?tnak, ?stamp, ?time, ?tally, ?refused⟩, ?report, ?measurement⟩
  case rdata =>
    intro s b u p f hb turn
    exact rdata_discarded hb turn
  case tnak =>
    intro s b u p f hb turn
    exact tnak_endsTransfer hb turn
  case stamp =>
    intro s b u p f hb turn peer forwards
    exact stamp_taken hb turn peer forwards
  case time =>
    intro s b u t p f w hb turn peer follows runs ht server
    exact time_taken hb turn peer follows runs ht server
  case tally =>
    intro s b p window transfer a hb waits due
    exact tallyTimeout_due hb waits due
  case refused =>
    intro s b p window transfer hb due
    exact refusedTransferDiscardEnd_due hb due
  case report =>
    intro s b p l m hb active serves runs marked
    exact timeReport_sent hb active serves runs marked
  case measurement =>
    rintro s b p m w th hb follows active runs valid rfl
    exact timeMeasurement_taken hb follows active runs valid

end Sys2Proof.Machine
end

section
/-! Failures of control cores (R375, R473, Table 21.6). -/

namespace Sys2Proof.Machine

/-! What reports a core's failure leaves the trace as it is -/

@[simp] theorem State.suspectEvent_stamps (s : State) (d0 d1 d2 : Nat) : (s.suspectEvent d0 d1 d2).stamps = s.stamps :=
  (congrArg State.stamps (State.inner_event s .integrityFault 0x13 0xFF [b8 d0, b8 d1, b8 d2]) :)

@[simp] theorem State.degrade_stamps (s : State) : s.degrade.stamps = s.stamps := rfl

@[simp] theorem State.endOfService_stamps (s : State) : s.endOfService.stamps = s.stamps :=
  (congrArg State.stamps (State.inner_endOfService s) :)

@[simp] theorem State.unhost_stamps (s : State) (roles : List Nat) : (s.unhost roles).stamps = s.stamps := by
  unfold State.unhost
  generalize (List.range 4).filter (fun w => roles.contains (1 + w)) = wings
  induction wings generalizing s with
  | nil => rfl
  | cons w wings ih => exact (ih _).trans (State.setWing_stamps s w _)

/-- Roles without a host leave the trace as it is, be there any or none. -/
theorem State.orphans_stamps (s : State) (orph : List Nat) :
    (if orph.isEmpty then s else (s.unhost orph).endOfService).stamps = s.stamps := by
  split
  · rfl
  · simp only [State.endOfService_stamps, State.unhost_stamps]

/-! The failed core's gap -/

/-- The starts that a failed core's heirs owe overwrite no gap that stands. -/
theorem heirStarts_keep_gap (now k : Nat) (x : TraceGap) (heirs : List Nat) (g : Tbl TraceGap) (stands : g.get k = some x) :
    (heirs.foldl (fun (g : Tbl TraceGap) c => if (g.get c).isSome then g else g.put c ⟨now, 0, 0⟩) g).get k = some x := by
  induction heirs generalizing g with
  | nil => exact stands
  | cons c heirs ih =>
    refine ih _ ?_
    dsimp only
    split
    · exact stands
    · next free =>
      have other : c ≠ k := by
        rintro rfl
        simp [stands] at free
      rw [Tbl.get_put, if_neg other, stands]

/-- The failure of HX1 to HX5 opens a gap of reason 3 in that core's trace, whether or not a trace is configured. -/
theorem controlCoreFailure_opens_gap {s b : State} {hx : Nat} (hb : b = Claims.fresh s) (run : b.power.st = .run) (hx1 : 1 ≤ hx)
    (hx5 : hx ≤ 5) (inService : b.hex.failed.contains hx = false) :
    ∃ t, exec (.controlCoreFailure hx) s = .next t ∧ t.stamps.trGaps.get hx = some ⟨b.time.now, 0, 3⟩ := by
  subst hb
  refine ⟨_, rfl, ?_⟩
  have acts : ¬ ((Claims.fresh s).power.st ≠ .run ∨ 5 < hx ∨ (Claims.fresh s).hex.failed.contains hx = true) := by
    simpa [run, hx5] using inService
  rw [State.commit_stamps]
  refine (congrArg (fun t : State => t.stamps.trGaps.get hx) ((if_neg acts).trans (if_neg (by omega)))).trans ?_
  simp only [State.orphans_stamps, State.degrade_stamps, State.errRec_stamps, State.suspectEvent_stamps]
  exact heirStarts_keep_gap _ _ _ _ _ ((Tbl.get_put _ _ _ _).trans (if_pos rfl))

/-- Refutes O43: the state named for the failure of HX1 to HX5 keeps the trace's gaps as they were, while the failure opens the core's own
(Table 21.6, reason 3). In a running module without a gap, HX5 fails. -/
theorem not_failuresAreContained : ¬ Obligations.FailuresAreContained := by
  intro h
  let b : State := { State.reset with power := { State.reset.power with st := .run } }
  obtain ⟨-, running⟩ := h b b rfl
  obtain ⟨-, -, -, coreFails, -⟩ := running rfl
  have named := coreFails 5 _ _ _ (by decide) (by decide) rfl rfl rfl rfl _ rfl
  obtain ⟨t, fails, gap⟩ := controlCoreFailure_opens_gap (s := b) (hx := 5) rfl rfl (by decide) (by decide) rfl
  obtain rfl : t = _ := Host.Outcome.next.inj (fails.symm.trans named)
  simp only [State.commit_stamps, State.orphans_stamps, State.degrade_stamps, State.errRec_stamps, State.suspectEvent_stamps] at gap
  exact absurd gap (by decide)

end Sys2Proof.Machine
end

section
/-! Device addresses and canonical memory (R279, R280). -/

namespace Sys2Proof.Machine

/-! Memory stays canonical (R279) -/

/-- A command's step ends in a commit, so it leaves memory canonical and no store outstanding; the one that faults ends nowhere. -/
theorem exec_keeps_memory {c : Instr} {s t : State} (canonical : Memory.wf s.mem = true) (e : exec c s = .next t) :
    Memory.wf t.mem = true ∧ t.stores = [] := by
  obtain ⟨f, acts⟩ | ⟨faults, -⟩ := exec_act c s
  · obtain rfl : s.commit (f (Claims.fresh s)) = t := Host.Outcome.next.inj ((act_fresh s f).symm.trans (acts.symm.trans e))
    exact ⟨State.wf_commit _ _ canonical, State.commit_stores _ _⟩
  · exact nomatch faults.symm.trans e

/-- A tick stores nothing but the trace's packets, and a traced tick commits them. -/
theorem State.idle_keeps_memory {s : State} (canonical : Memory.wf s.mem = true) (none_outstanding : s.stores = []) :
    Memory.wf s.idle.mem = true ∧ s.idle.stores = [] := by
  rw [State.idle]
  split
  · dsimp only
    split
    · exact ⟨canonical, none_outstanding⟩
    · exact ⟨State.wf_commit _ _ canonical, State.commit_stores _ _⟩
  · exact ⟨canonical, none_outstanding⟩

/-- Settles O50: a step is a command, which commits, or a tick, which stores nothing or commits. -/
theorem stepsKeepMemoryCanonical : Obligations.StepsKeepMemoryCanonical := by
  intro s t canonical none_outstanding e
  cases queue : s.pending with
  | nil =>
    simp only [step, queue] at e
    obtain rfl := Host.Outcome.next.inj e
    exact State.idle_keeps_memory canonical none_outstanding
  | cons c rest =>
    simp only [step, queue] at e
    exact exec_keeps_memory (s := { s with pending := rest }) canonical e

/-- Settles O51: memory lists no cell at reset. -/
theorem resetMemoryCanonical : Obligations.ResetMemoryCanonical := ⟨Memory.wf_nil, rfl⟩

/-! Device addresses (R280) -/

/-- R280 codes the pseudo-channel with the row's and the bank's low bits; the same coding again gives back the DPA. -/
theorem rowDpa_of_dpa {a : Nat} (h : a < 2 ^ 40) :
    rowDpa (dpaStack a) (dpaPc a) (dpaBank a) (dpaRow a) (a / 2 ^ 14 % 4) + a % 256 = a := by
  have low : (dpaRow a % 4 * 16 + dpaBank a) % 64 = a / 2 ^ 16 % 64 := by
    simp only [dpaRow, dpaBank, bits]
    omega
  have coded : dpaPc a ^^^ a / 2 ^ 16 % 64 = a / 2 ^ 8 % 64 := Nat.xor_xor_cancel_right _ _
  simp only [rowDpa, low, coded]
  simp only [dpaStack, dpaBank, dpaRow, bits]
  omega

/-- The fields of a row's byte stand side by side in its DPA, with `x` for the coded pseudo-channel. -/
theorem dpa_of_fields {a stack x bank row chunk byte : Nat} (stack16 : stack < 16) (x64 : x < 64) (bank16 : bank < 16)
    (row16 : row < 2 ^ 16) (chunk4 : chunk < 4) (byte256 : byte < 256)
    (ha : a = stack * 2 ^ 36 + row * 2 ^ 20 + bank * 2 ^ 16 + chunk * 2 ^ 14 + x * 2 ^ 8 + byte) :
    a < 2 ^ 40 ∧ dpaStack a = stack ∧ dpaPc a = x ^^^ (row % 4 * 16 + bank) ∧ dpaBank a = bank ∧ dpaRow a = row
      ∧ a / 2 ^ 14 % 4 = chunk ∧ a % 256 = byte := by
  have coded : bits a 8 6 = x := by simp only [bits]; omega
  have low : bits a 16 6 = row % 4 * 16 + bank := by simp only [bits]; omega
  refine ⟨by omega, ?_, by rw [dpaPc, coded, low], ?_, ?_, by omega, by omega⟩
  · simp only [dpaStack, bits]; omega
  · simp only [dpaBank, bits]; omega
  · simp only [dpaRow, bits]; omega

/-- Settles O55: the fields stand side by side, and the coding of the pseudo-channel is its own inverse. -/
theorem addressesDecodeOneToOne : Obligations.AddressesDecodeOneToOne := by
  refine ⟨fun a ha => ⟨?_, rfl, rfl, rfl, rowDpa_of_dpa ha⟩, ?_⟩
  · simp only [dpaStack, bits]
    omega
  · rintro stack pc bank row chunk byte stack16 pc64 bank16 row16 chunk4 byte256 a ha
    have low : (row % 4 * 16 + bank) % 64 = row % 4 * 16 + bank := by omega
    simp only [rowDpa, low] at ha
    have coded : pc ^^^ (row % 4 * 16 + bank) < 64 := Nat.xor_lt_two_pow (n := 6) pc64 (by omega)
    have fields := dpa_of_fields stack16 coded bank16 row16 chunk4 byte256 ha
    rwa [Nat.xor_xor_cancel_right] at fields

end Sys2Proof.Machine
end

section
/-! Requests of memory, patrol scrub, reshelving, thermal steps, retraining, weeding and the ledger's lists (R281 to R303, R460). -/

namespace Sys2Proof.Machine

/-- A command's meaning is settled by the state that its effect commits. -/
theorem next_commit_congr {s t u : State} (h : t = u) : (.next (s.commit t) : Res) = .next (s.commit u) := by rw [h]

/-! Requests and patrol scrub (R281, R288) -/

/-- A request of one granule of its pseudo-channel enters a queue with room, and the queue serves its next entry (R281). -/
theorem memoryRequest_serves {s b : State} {r : Option MemReq} {stack pc failed : Nat} {q q1 : List (MemReq × Nat)} {e : MemReq × Nat}
    (hb : b = Claims.fresh s) (hq : q = (b.stk stack).queues.getD pc []) (stands : (b.stk stack).lost = false)
    (below5 : (b.stk stack).step < 5) (awake : (b.stk stack).selfRefresh = false)
    (enters : ∀ z ∈ r, q.length < 32 ∧ dpaStack z.addr = stack ∧ dpaPc z.addr = pc ∧ 0 < z.len ∧ z.len ≤ 256 ∧ z.addr % 256 + z.len ≤ 256
      ∧ z.addr < 2 ^ 40 ∧ b.reachAt z.addr = none ∧ (b.stk stack).drained = false)
    (hq1 : q1 = q ++ r.toList.map (fun z => (z, b.time.now))) (next : nextEntry (b.stk stack) b.time.now q1 = some e) :
    exec (.memoryRequest r stack pc failed) s = .next (s.commit
      ((b.setStk stack { b.stk stack with queues := (b.stk stack).queues.put pc (q1.erase e) }).serve stack failed e.1)) := by
  have serves : ¬ (((b.stk stack).lost || decide (5 ≤ (b.stk stack).step) || (b.stk stack).selfRefresh) = true) := by
    simpa [stands, awake] using below5
  simp only [exec, execMemoryRequest, act_fresh, ← hb, ← hq]
  rw [if_neg serves]
  cases r with
  | none =>
    obtain rfl : q1 = q := by simpa using hq1
    simp [next]
  | some z =>
    obtain ⟨room, formed⟩ := enters z rfl
    have notFull : q.length ≠ 32 := by omega
    obtain rfl : q1 = q ++ [(z, b.time.now)] := hq1
    simp [room, notFull, formed, next, -Nat.reducePow]

/-- A block of a ready stack's populated rows is read as a request reads it (R288). -/
theorem patrolScrub_reads {s b : State} {stack pc bank row block failed a : Nat} (hb : b = Claims.fresh s)
    (ha : a = rowDpa stack pc bank row (block / 4 % 4) + block % 4 * 64) (ready : (b.stk stack).ready = true) (pc64 : pc < 64)
    (bank16 : bank < 16) (stack16 : stack < 16) (populated : a % 2 ^ 36 < b.grade.stackBytes) :
    exec (.patrolScrub stack pc bank row block failed) s = .next (s.commit ((b.stkCount stack 4 1).checkBlock a failed).1) := by
  have scrubs : ¬ ((b.stk stack).ready = false ∨ 64 ≤ pc ∨ 16 ≤ bank ∨ b.grade.stackBytes ≤ a % 2 ^ 36 ∨ 16 ≤ stack) := by
    simp only [ready, not_or]
    exact ⟨by simp, by omega, by omega, by omega, by omega⟩
  simp only [exec, execPatrolScrub, act_fresh, ← hb, ← ha]
  rw [if_neg scrubs]

/-! Reshelving (R294 to R296, R460) -/

/-- A failing row without an entry, in a pseudo-channel with room for one, is remapped to the spare picked after its copy's reads (R294). -/
theorem reshelveRow_remaps {s a b t : State} {stack pc bank row sp key count : Nat} {reads : List (Nat × Nat)} (ha : a = Claims.fresh s)
    (hkey : key = rowKey pc bank row) (failing : (a.stk stack).failing.contains key = true)
    (hb : b = reads.foldl (fun s q => (s.checkBlock (rowDpa stack pc bank row (q.1 / 4 % 4) + q.1 % 4 * 64) q.2).1) a)
    (unlisted : (b.stk stack).shelves.get key = none)
    (ht : t = b.setStk stack { b.stk stack with
      failing := (b.stk stack).failing.filter (· != key)
      tallies := (b.stk stack).tallies.put pc (((b.stk stack).tallies.getD pc []).filter (fun t => t.row != key)) })
    (spare : t.pickSpare stack pc = some sp) (room : ((b.stk stack).entriesOf pc).length < 256)
    (hcount : count = (b.stk stack).rowFails.getD key 0 + 1) :
    exec (.reshelveRow stack pc bank ⟨row, reads⟩) s = .next (s.commit (
      let e : Shelf := { spare := sp, count := count, hard := false, recorded := false }
      let u := (t.setStk stack { t.stk stack with shelves := (t.stk stack).shelves.put key e }).stkCount stack 12 1
      (if 3 ≤ count then u.advise stack bank row 1 else u).weedOnlyCheck ((List.range 64).any (fun p => b.weedOnly stack p)) stack pc)) := by
  simp only [exec, execReshelveRow, act_fresh, ← ha, ← hkey, ← hb, failing, unlisted, ← ht, spare, room, ← hcount, Bool.not_true,
    Bool.false_eq_true, if_false, if_true]

theorem reshelveLedgerRecord_listed {s b : State} {stack pc bank row : Nat} {e : Shelf} (hb : b = Claims.fresh s)
    (listed : (b.stk stack).shelves.get (rowKey pc bank row) = some e) :
    exec (.reshelveLedgerRecord stack pc bank row) s = .next (s.commit
      ((b.setStk stack { b.stk stack with shelves := (b.stk stack).shelves.put (rowKey pc bank row) { e with recorded := true } }).shelfRecord
        stack pc bank row e)) := by
  simp only [exec, execReshelveLedgerRecord, act_fresh, ← hb, listed]

/-- Settles O21: a request joins its queue and the next entry is served, the scrub reads a populated block, a row without an entry takes the
spare that the copy picks, its entry is recorded. -/
theorem stackRequestsAndReshelving : Obligations.StackRequestsAndReshelving := by
  refine ⟨⟨?request, ?patrol⟩, ?reshelve, ?record⟩
  case request =>
    intro s b r stack pc failed q q1 e hb hq stands below5 awake enters hq1 next
    exact memoryRequest_serves hb hq stands below5 awake enters hq1 next
  case patrol =>
    intro s b stack pc bank row block failed a hb ha ready pc64 bank16 stack16 populated
    exact patrolScrub_reads hb ha ready pc64 bank16 stack16 populated
  case reshelve =>
    intro s a b t stack pc bank row sp key count reads ha hkey failing hb unlisted ht spare room hcount
    exact reshelveRow_remaps ha hkey failing hb unlisted ht spare room hcount
  case record =>
    intro s b stack pc bank row e hb listed
    exact reshelveLedgerRecord_listed hb listed

/-! Thermal steps and retraining (R298, R300, R301, R303, Table 12.5) -/

/-- What follows when a reading changes a stack's step from `old` to `new`, from the state `u` that holds the new step: the event, at T4 the
drain, at T5 the loss of the stack and its domain (R298, R300, R301). -/
def State.stepChanged (u : State) (stack old new : Nat) : State :=
  let v := u.stepEvent stack old new
  let w := (v.abandonStackTest stack).abandonSnapshot stack
  if new = 4 then (w.setStk stack { w.stk stack with ready := false, draining := true }).haltStackWork stack
  else if new = 5 then
    let x := w.loseStack stack 2
    x.setDom (stack / 4 * 18 + 12 + stack % 4) { x.dom (stack / 4 * 18 + 12 + stack % 4) with on := false }
  else v

section
variable {s b u : State} {stack new : Nat} {t : Int} (hb : b = Claims.fresh s) (stack16 : stack < 16) (run : b.power.st = .run)
  (stands : (b.stk stack).lost = false) (hnew : new = nextStep (b.stk stack).step t)
  (hu : u = b.setStk stack { b.stk stack with temp := t, step := new })
include hb stack16 run stands hnew hu

/-- A reading of a stack in service is taken, and what follows depends on whether its step changes (R298). -/
theorem stackThermalReading_taken : exec (.stackThermalReading stack t) s
    = .next (s.commit (if new = (b.stk stack).step then u else u.stepChanged stack (b.stk stack).step new)) := by
  have running : ¬ (16 ≤ stack ∨ b.power.st ≠ .run) := by simp [run, stack16]
  have present : ¬ (b.stk stack).lost = true := by simp [stands]
  subst hb hnew hu
  refine next_commit_congr ?_
  exact (if_neg running).trans (if_neg present)

end

/-- A halted stack serves what its queues hold before it enters self-refresh (R300). -/
theorem stackDrainEnd_drained {s b u : State} {stack : Nat} (hb : b = Claims.fresh s) (halted : (b.stk stack).step = 4)
    (draining : (b.stk stack).draining = true)
    (hu : u = ((b.stk stack).queues.flatMap (fun q => q.2)).foldl (fun s r => s.serve stack 0 r.1) (b.setStk stack { b.stk stack with queues := [] })) :
    exec (.stackDrainEnd stack) s = .next (s.commit (u.setStk stack { u.stk stack with draining := false, selfRefresh := true })) := by
  simp only [exec, execStackDrainEnd, act_fresh, ← hb, ← hu]
  rw [if_pos ⟨halted, draining⟩]

theorem stackResume_cooled {s b : State} {stack : Nat} {t : Int} (hb : b = Claims.fresh s) (halted : (b.stk stack).step = 4)
    (asleep : (b.stk stack).selfRefresh = true) (cool : t ≤ 95) :
    exec (.stackResume stack t) s = .next (s.commit ((b.setStk stack { b.stk stack with
      step := stepMet t, temp := t, trainTemp := t, selfRefresh := false, ready := true, retrain := [] }).stepEvent stack 4 (stepMet t))) := by
  simp only [exec, execStackResume, act_fresh, ← hb]
  rw [if_pos ⟨halted, asleep, cool⟩]

theorem retrainSlice_counted {s b u : State} {stack pc n : Nat} {ok : Bool} (hb : b = Claims.fresh s) (ready : (b.stk stack).ready = true)
    (stack16 : stack < 16) (pc64 : pc < 64) (hn : n = (if ok then 0 else (b.stk stack).retrain.getD pc 0 + 1))
    (hu : u = (b.setStk stack { b.stk stack with
      retrain := (b.stk stack).retrain.put pc n, trainTemp := if ok then (b.stk stack).temp else (b.stk stack).trainTemp }).stkCount stack 15 1) :
    exec (.retrainSlice stack pc ok) s = .next (s.commit (if n = 3 then u.event .ok 6 0xFF [b8 stack, b8 pc] else u)) := by
  have retrains : ¬ ((b.stk stack).ready = false ∨ 16 ≤ stack ∨ 64 ≤ pc) := by
    simp only [ready, not_or]
    exact ⟨by simp, by omega, by omega⟩
  simp only [exec, execRetrainSlice, act_fresh, ← hb, ← hn, ← hu]
  rw [if_neg retrains]

/-- Settles O22: a reading is taken by a stack in service, and the step it gives decides what follows; a halted stack drains and cools. -/
theorem stackThermalSteps : Obligations.StackThermalSteps := by
  refine ⟨?reading, ?drain, ?resume, ?slice⟩
  case reading =>
    intro s b u stack new t hb stack16 run stands hnew hu
    rw [stackThermalReading_taken hb stack16 run stands hnew hu]
    refine ⟨fun same => ?_, fun changed below4 => ?_, fun changed at4 v hv => ?_, fun changed at5 v d hv hd => ?_⟩
    · rw [if_pos same]
    · rw [if_neg changed, State.stepChanged, if_neg (by omega), if_neg (by omega)]
    · subst at4 hv
      rw [if_neg changed, State.stepChanged, if_pos rfl]
    · subst at5 hv hd
      rw [if_neg changed, State.stepChanged, if_neg (by omega), if_pos rfl]
  case drain =>
    intro s b u stack hb halted draining hu
    exact stackDrainEnd_drained hb halted draining hu
  case resume =>
    intro s b stack t hb halted asleep cool
    exact stackResume_cooled hb halted asleep cool
  case slice =>
    intro s b u stack pc n ok hb ready stack16 pc64 hn hu
    exact retrainSlice_counted hb ready stack16 pc64 hn hu

/-! Weeding and the ledger's lists (R289 to R291, R460) -/

section
variable {s b : State} {m : Mbx} {page reason : Nat} (hb : b = Claims.begun s m)
  (begins : Claims.begins s m { op := 0x0701, tenant := false, ctx := .none } 255) (ready : b.ledger.ready = true)
  (aligned : page % 65536 = 0) (inRange : page < 2 ^ 40) (populated : page % 2 ^ 36 < b.grade.stackBytes) (reason1 : 1 ≤ reason)
  (reason3 : reason ≤ 3)
include hb begins ready aligned inRange populated reason1 reason3

/-- A page already listed is not served or listed again (R290). -/
theorem pageWeed_listed (listed : (b.ledger.weeds.getD (dpaStack page) []).any (fun w => w.page == page / 65536) = true) :
    exec (.pageWeed m page reason) s = .next (s.commit (Claims.ended s m 0x0701 255 [] b)) := by
  subst hb
  exact act_runCmd_done begins ((if_neg (by simp [ready])).trans ((if_neg (by omega)).trans (if_pos listed)))

theorem pageWeed_weeds {u : State} {list : List Weed} (hlist : list = b.ledger.weeds.getD (dpaStack page) [])
    (unlisted : list.any (fun w => w.page == page / 65536) = false) (idle : b.pageBusy page = false) (room : list.length < 4096)
    (hu : u = ((b.servePage page).setStk (dpaStack page) { (b.servePage page).stk (dpaStack page) with
      weeded := ((b.servePage page).stk (dpaStack page)).weeded ++ [page / 65536] }).releasePage page) :
    exec (.pageWeed m page reason) s = .next (s.commit (Claims.ended s m 0x0701 255 [] { u with ledger := { u.ledger with
      weeds := u.ledger.weeds.put (dpaStack page)
        (list ++ [{ page := page / 65536, reason := reason, boot := b.ledger.boots, tick := b.stamp }]) } })) := by
  subst hb hlist hu
  refine act_runCmd_done begins ((if_neg (by simp [ready])).trans ((if_neg ?operands).trans ((if_neg (by simp [unlisted])).trans
    ((if_neg (by simp [idle])).trans (if_neg ?full)))))
  case operands => omega
  case full => omega

end

theorem weedListRead_done {s b : State} {m : Mbx} {stack first : Nat} {all out : List Weed} (hb : b = Claims.begun s m)
    (begins : Claims.begins s m { op := 0x0702, tenant := false, ctx := .none, buf := true } 255) (ready : b.ledger.ready = true)
    (named : stack < 16 ∨ stack = 255)
    (hall : all = (if stack = 255 then (List.range 16).flatMap (fun k => b.ledger.weeds.getD k []) else b.ledger.weeds.getD stack []))
    (hout : out = (all.drop first).take (m.buf.len / 16)) (reached : b.outBuf m (16 * out.length) = none) :
    exec (.weedListRead m stack first) s = .next (s.commit
      (Claims.ended s m 0x0702 255 (leBytes 4 out.length ++ leBytes 4 all.length) (b.putBuf m.buf (out.flatMap Weed.bytes)))) := by
  subst hb
  refine act_runCmd_done begins ((if_neg (by simp [ready])).trans ((if_neg (by omega)).trans ?_))
  simp only [← hall, ← hout, reached]

/-- Each class has its own area of the ledger (R460). -/
theorem ledgerRead_done {s b : State} {m : Mbx} {cls first : Nat} {all out : List LRec} (hb : b = Claims.begun s m)
    (begins : Claims.begins s m { op := 0x0103, tenant := false, ctx := .none, buf := true } 255) (ready : b.ledger.ready = true)
    (classed : cls = 1 ∧ all = b.ledger.errors.filter (fun r => !r.torn) ∨ cls = 2 ∧ all = b.ledger.reshelves.filter (fun r => !r.torn)
      ∨ cls = 3 ∧ all = b.ledger.ageing.filter (fun r => !r.torn) ∨ cls = 4 ∧ all = b.ledger.life.filter (fun r => !r.torn))
    (hout : out = (all.drop first).take (m.buf.len / 32)) (reached : b.outBuf m (32 * out.length) = none) :
    exec (.ledgerRead m cls first) s = .next (s.commit
      (Claims.ended s m 0x0103 255 (leBytes 4 out.length ++ leBytes 4 all.length) (b.putBuf m.buf (out.flatMap LRec.bytes)))) := by
  subst hb
  refine act_runCmd_done begins ((if_neg (by simp [ready])).trans ?_)
  rcases classed with ⟨rfl, hall⟩ | ⟨rfl, hall⟩ | ⟨rfl, hall⟩ | ⟨rfl, hall⟩
  all_goals
    refine (if_neg (by omega)).trans ?_
    simp only [← hall, ← hout, reached]

/-- Settles O29: each command passes its checks in their order. -/
theorem weedAndLedgerCommandsComplete : Obligations.WeedAndLedgerCommandsComplete := by
  refine ⟨?weed, ?weeds, ?records⟩
  case weed =>
    intro s b u m page reason list hb begins ready aligned inRange populated reason1 reason3 hlist
    refine ⟨fun listed => ?_, fun unlisted idle room hu => ?_⟩
    · exact pageWeed_listed hb begins ready aligned inRange populated reason1 reason3 (hlist ▸ listed)
    · exact pageWeed_weeds hb begins ready aligned inRange populated reason1 reason3 hlist unlisted idle room hu
  case weeds =>
    intro s b m stack first all out hb begins ready named hall hout reached
    exact weedListRead_done hb begins ready named hall hout reached
  case records =>
    intro s b m cls first all out hb begins ready classed hout reached
    exact ledgerRead_done hb begins ready classed hout reached

end Sys2Proof.Machine
end

section
/-! Ports take their configuration, loan windows open and close, and the flits of an open window take effect (R318, R321, R322, R325, R326). -/

namespace Sys2Proof.Machine

/-! Port configuration and loan windows (R322, R325, R326) -/

theorem golatPortConfig_done {s b : State} {m : Mbx} {port role timeMode fwd localParty expected : Nat} (hb : b = Claims.begun s m)
    (begins : Claims.begins s m { op := 0x0801, tenant := false, ctx := .none } 255) (port8 : port < 8) (role2 : role ≤ 2)
    (mode2 : timeMode ≤ 2) (fwd1 : fwd ≤ 1) (party1 : 1 ≤ localParty) (party32 : localParty < 2 ^ 32) (expected32 : expected < 2 ^ 32)
    (sole : timeMode = 1 → role ≠ 2 ∧ ∀ q w, b.time.follow = some (q, w) → q = port) (present : (b.port port).present = true)
    (stands : (b.port port).lost = false) (noWindow : (b.port port).windows = [])
    (noChannel : b.wings.any (fun w => w.2.chans.any (fun h => h.2.port == some port)) = false) :
    exec (.golatPortConfig m port role timeMode fwd localParty expected) s = .next (s.commit
      (Claims.ended s m 0x0801 255 [] (b.configure port role timeMode fwd localParty expected))) := by
  subst hb
  refine act_runCmd_done begins ((if_neg ?operands).trans ((if_neg ?absent).trans (if_neg ?busy)))
  case operands =>
    simp only [not_or]
    refine ⟨by omega, by omega, by omega, by omega, by omega, by omega, by omega, ?_⟩
    rintro ⟨follows, others | bridge⟩
    · split at others
      next q w server => simp [(sole follows).2 q w server] at others
      next => cases others
    · exact (sole follows).1 bridge
  case absent => simp [present, stands]
  case busy => simp [noWindow, noChannel]

theorem loanOpen_lowest {s b : State} {m : Mbx} {c port rights mode party base len sigFirst sigCount i : Nat} (hb : b = Claims.begun s m)
    (begins : Claims.begins s m { op := 0x0802 } c) (port8 : port < 8) (rights1 : 1 ≤ rights) (rights16 : rights < 16) (party1 : 1 ≤ party)
    (party32 : party < 2 ^ 32) (range : b.windowRange c base len mode = true)
    (signals : rights.testBit 3 = true → 1 ≤ sigCount ∧ sigFirst + sigCount ≤ 4096 ∧ (b.port port).role = 1)
    (noSignal : rights.testBit 3 = false → sigFirst = 0 ∧ sigCount = 0) (present : (b.port port).present = true)
    (stands : (b.port port).lost = false) (role : (b.port port).role = 1 ∨ (b.port port).role = 2) (ready : b.rangeReady base len = true)
    (room : b.windowsOf c < 64) (free : (List.range 256).find? (fun i => ((b.port port).windows.get i).isNone) = some i) :
    exec (.loanOpen m port rights mode party base len sigFirst sigCount) s = .next (s.commit (
      let w : Window :=
        { ctx := c, rights := rights, put := mode / 4, party := party, base := base, len := len, sigFirst := sigFirst, sigCount := sigCount }
      Claims.ended s m 0x0802 c [b8 i] (b.setPort port { b.port port with windows := (b.port port).windows.put i w }))) := by
  subst hb
  refine act_runCmd_done begins ((if_neg ?operands).trans ((if_neg ?absent).trans ((if_neg ?roles).trans ((if_neg ?unready).trans
    ((if_neg ?full).trans ?numbered)))))
  case operands =>
    simp only [range, not_or]
    refine ⟨by omega, by omega, by omega, by omega, by omega, by simp, ?_⟩
    split
    next signal => have := signals signal; omega
    next plain => have := noSignal (by simpa using plain); omega
  case absent => simp [present, stands]
  case roles =>
    rintro (off | ⟨bridge, signal⟩)
    · omega
    · have := (signals signal).2.2; omega
  case unready => simp [ready]
  case full => omega
  case numbered => simp only [free]

theorem loanClose_done {s b : State} {m : Mbx} {c port window : Nat} {w : Window} (hb : b = Claims.begun s m)
    (begins : Claims.begins s m { op := 0x0803 } c) (port8 : port < 8) (opened : (b.port port).windows.get window = some w) (own : w.ctx = c) :
    exec (.loanClose m port window) s = .next (s.commit (Claims.ended s m 0x0803 c [] (b.closeWindow port window))) := by
  subst hb
  refine act_runCmd_done begins ?_
  simp only [if_pos port8, opened]
  exact if_pos own

/-- Settles O23: each command passes its checks in their order. -/
theorem portCommandsComplete : Obligations.PortCommandsComplete := by
  refine ⟨?config, ?loanOpen, ?loanClose⟩
  case config =>
    intro s b m port role timeMode fwd localParty expected hb begins port8 role2 mode2 fwd1 party1 party32 expected32 sole present stands
      noWindow noChannel
    exact golatPortConfig_done hb begins port8 role2 mode2 fwd1 party1 party32 expected32 sole present stands noWindow noChannel
  case loanOpen =>
    intro s b m c port rights mode party base len sigFirst sigCount i hb begins port8 rights1 rights16 party1 party32 range signals noSignal
      present stands role ready room free
    exact loanOpen_lowest hb begins port8 rights1 rights16 party1 party32 range signals noSignal present stands role ready room free
  case loanClose =>
    intro s b m c port window w hb begins port8 opened own
    exact loanClose_done hb begins port8 opened own

/-! What a flit of an open window does when it has the right (R318, R321, R325) -/

/-- A row's flit whose turn has come, and whose transfer has not been refused, takes its effect, and is freed (R314, R320). -/
theorem State.transact_flitTurn {b u t : State} {p ftype : Nat} {f : Flit} {body : State → Option State}
    (turn : Claims.flitTurn b p ftype f u) (kept : (u.port p).refused.contains (f.window, f.transfer) = false) (taken : body u = some t) :
    b.transact p ftype f body = t.freeRx p f := by
  obtain ⟨active, type, next, rfl⟩ := turn
  exact State.transact_turn b p ftype f body t active type next kept taken

section
variable {u : State} {p : Nat} {f : Flit} {w : Window}

/-- The granule is written under the held MASK, and a `PUT` of its slot ends with the slot's last granule (R318, R321). -/
theorem State.takeWrite_stores {z v : State} {a k : Nat} (right : u.granted p f 0 = .ok w) (usable : u.granuleFault w f.index = none)
    (room : w.rights.testBit 3 = true → (u.port p).tallyRoom f.window f.transfer = true) (ha : a = w.base + 256 * f.index)
    (hk : k = slotKey a) (plain : u.secretGranule a = false)
    (ready : (z, true) = (u.setPort p { u.port p with mask := none }).putReady p f w a)
    (hv : v = z.putGranule a (match (u.port p).mask with | some m => m.mask | none => 2 ^ 256 - 1) f.poison f.payload) :
    u.takeWrite p f = some
      ((if (z.port p).puts.contains (f.window, f.transfer, k) ∧ a % 4096 = 3840 then v.endPut p f.window f.transfer k else v).tallied p f w) := by
  subst ha hk hv
  have hasRoom : ¬ (w.rights.testBit 3 && !(u.port p).tallyRoom f.window f.transfer) = true := by simpa using room
  simp only [State.takeWrite, right, usable]
  rw [if_neg hasRoom, if_neg (by simp [plain]), ← ready]
  rfl

theorem State.takeMask_holds (right : u.granted p f 0 = .ok w) (inside : 256 * f.index + 256 ≤ w.len) :
    u.takeMask p f = u.setPort p { u.port p with mask := some {
      window := f.window, transfer := f.transfer, index := f.index, seq := (f.seq + 1) % 4096, mask := leNat (f.payload.take 32) } } := by
  simp only [State.takeMask, right]
  exact if_neg (by omega)

theorem State.takeFetch_answers {n : Nat} (right : u.granted p f 1 = .ok w) (hn : n = fld f.payload 0 2) (n1 : 1 ≤ n) (n256 : n ≤ 256)
    (inside : 256 * (f.index + n) ≤ w.len)
    (reached : ((List.range n).map (· + f.index)).any (fun i => (u.reachAt (w.base + 256 * i)).any (fun e => e != .thermalHalt)) = false) :
    u.takeFetch p f = u.fetchGranules p f w ((List.range n).map (· + f.index)) := by
  simp only [State.takeFetch, right, ← hn]
  exact (if_neg (by rw [reached]; simpa using inside)).trans (if_neg (by omega))

theorem State.takeAcch_holds {ds : List (List Byte)} (right : u.granted p f 2 = .ok w)
    (hds : ds = (List.range f.ndesc).map (fun i => (f.payload.drop (16 * i)).take 16))
    (known : ds.any (fun d => decide (3 < fld d 2 1)) = false) :
    u.takeAcch p f = u.setPort p { u.port p with
      acch := some { window := f.window, transfer := f.transfer, seq := (f.seq + 1) % 4096, descs := ds } } := by
  simp only [State.takeAcch, right, ← hds]
  exact if_neg (by simp [known])

/-- The first of the held descriptors is the flit's, and the others wait for the flits after it (R318, R338). -/
theorem State.takeAccum_adds {a tag : Nat} {g : HeldAcch} {d : List Byte} {rest : List (List Byte)} {k : Block}
    (right : u.granted p f 2 = .ok w) (ha : a = w.base + 256 * f.index) (inside : 256 * f.index + 256 ≤ w.len)
    (reached : (u.reachAt a).any (fun e => e != .thermalHalt) = false) (held : (u.port p).acch = some g) (descs : g.descs = d :: rest)
    (htag : tag = fld d 0 2)
    (hk : k = { op := fld d 2 1, modulus := fld d 8 8, residue := fld d 4 2, count := fld d 6 2, poison := f.poison, data := f.payload })
    (room : w.rights.testBit 3 = true → (u.port p).tallyRoom f.window f.transfer = true)
    (taken : u.arrives w.ctx tag { port := p, window := f.window, transfer := f.transfer } (u.blockAt tag a) (fld d 3 1) k = .take) :
    u.takeAccum p f = some
      (((u.setPort p { u.port p with
        acch := if rest.isEmpty then none else some { g with seq := (g.seq + 1) % 4096, descs := rest } }).takeBlock tag
          { port := p, window := f.window, transfer := f.transfer } ((u.blockAt tag a).getD 0) k).tallied p f w) := by
  subst ha htag hk
  have insideReached : ¬ (decide (w.len < 256 * f.index + 256)
      || (u.reachAt (w.base + 256 * f.index)).any (fun e => e != .thermalHalt)) = true := by
    rw [reached]
    simpa using inside
  have hasRoom : ¬ (w.rights.testBit 3 && !(u.port p).tallyRoom f.window f.transfer) = true := by simpa using room
  simp only [State.takeAccum, right]
  rw [if_neg insideReached]
  simp only [held, descs, taken]
  exact if_neg hasRoom

/-- The transfer's `PUT`s end before its tally takes the signal's count (R257, R318). -/
theorem State.takeSig_sets {v : State} (peer : (u.port p).role ≠ 2) (right : u.granted p f 3 = .ok w)
    (room : (u.port p).tallyRoom f.window f.transfer = true)
    (hv : v = ((u.port p).puts.filter (fun x => (x.1, x.2.1) == (f.window, f.transfer))).foldl (fun s x => s.endPut p x.1 x.2.1 x.2.2) u) :
    u.takeSig p f = some (
      let a := ((v.port p).tallyOf f.window f.transfer).getD
        { window := f.window, transfer := f.transfer, since := u.time.now, got := 0, want := none }
      let a1 : Arrival := { a with want := some (fld f.payload 0 4, fld f.payload 4 2, fld f.payload 8 4) }
      (v.setPort p ((v.port p).setTally a1)).settle p a1) := by
  subst hv
  simp only [State.takeSig, right]
  exact (if_neg peer).trans (if_neg (by simp [room]))

end

/-- Settles O24: a flit's turn lets its row act, and the row passes its checks to its own effect. -/
theorem windowFlitsTakeEffect : Obligations.WindowFlitsTakeEffect := by
  refine ⟨?write, ?mask, ?fetch, ?acch, ?accum, ?sig⟩
  case write =>
    rintro s b u z v p f w a k rfl turn kept right usable room ha hk plain ready hv
    exact next_commit_congr (State.transact_flitTurn turn kept (State.takeWrite_stores right usable room ha hk plain ready hv))
  case mask =>
    rintro s b u p f w rfl turn kept right inside
    exact next_commit_congr (State.transact_flitTurn turn kept (congrArg some (State.takeMask_holds right inside)))
  case fetch =>
    rintro s b u p f w n rfl turn kept right hn n1 n256 inside reached
    exact next_commit_congr (State.transact_flitTurn turn kept (congrArg some (State.takeFetch_answers right hn n1 n256 inside reached)))
  case acch =>
    rintro s b u p f w ds rfl turn kept right hds known
    exact next_commit_congr (State.transact_flitTurn turn kept (congrArg some (State.takeAcch_holds right hds known)))
  case accum =>
    rintro s b u p f w a tag g d rest k rfl turn kept right ha inside reached held descs htag hk room taken
    exact next_commit_congr (State.transact_flitTurn turn kept
      (State.takeAccum_adds right ha inside reached held descs htag hk room taken))
  case sig =>
    rintro s b u v p f w rfl turn kept peer right room hv
    exact next_commit_congr (State.transact_flitTurn turn kept (State.takeSig_sets peer right room hv))

end Sys2Proof.Machine
end

section
/-! A port's link: training, lanes, retry, credits and the receipt of flits (R307, R308, R310, R311, R313, R314, R316, R317, R330). -/

namespace Sys2Proof.Machine

theorem State.setPort_setPort (s : State) (p : Nat) (x y : Port) : (s.setPort p x).setPort p y = s.setPort p y :=
  congrArg (fun ports => ({ s with ports := ports } : State)) (Tbl.put_put s.ports p x y)

/-! Training (R307, R310, R311) -/

/-- Roles and party are acceptable and nine lanes work in each direction: the maps are made, and what an earlier link left is cleared. -/
theorem State.identified_matches {b : State} {p : Nat} {t : Train} {x : Port} {tx rx : List Nat} (hx : x = b.port p)
    (htx : tx = addBlocks [] (t.txLanes.filter (fun l => decide (l < 11))))
    (hrx : rx = addBlocks [] (t.rxLanes.filter (fun l => decide (l < 11)))) (tx9 : 9 ≤ tx.length) (rx9 : 9 ≤ rx.length)
    (partnerRole : t.partnerRole = 1 ∨ t.partnerRole = 2) (oneBridge : x.role = 2 → t.partnerRole ≠ 2)
    (party : x.expected = 0 ∨ t.partnerParty = x.expected) :
    b.identified p t = b.setPort p { x with
      st := .frame, partner := t.partnerParty, partnerRole := t.partnerRole
      txMap := tx.take 10, rxMap := rx.take 10, txSpare := decide (10 < tx.length), rxSpare := decide (10 < rx.length)
      txSpareLane := tx.getD 10 0, rxSpareLane := rx.getD 10 0, fewLanes := 0, markers := [], report := none, timeStopped := false
      txSeq := 0, rxSeq := 0, rx := [], queue := [], sent := [], credits := [], due := [], retrying := false, swapping := none, out := [] } := by
  have enoughLanes : ¬ (tx.length < 9 ∨ rx.length < 9) := by omega
  have acceptable : ¬ ((t.partnerRole ≠ 1 ∧ t.partnerRole ≠ 2) ∨ (x.role = 2 ∧ t.partnerRole = 2)
      ∨ (x.expected ≠ 0 ∧ t.partnerParty ≠ x.expected)) := by
    rintro (⟨not1, not2⟩ | ⟨bridge, partnerBridge⟩ | ⟨named, other⟩)
    · exact partnerRole.elim not1 not2
    · exact oneBridge bridge partnerBridge
    · exact party.elim named other
  simp only [State.identified, ← htx, ← hrx, ← hx]
  rw [if_neg enoughLanes, if_neg acceptable, State.setPort_setPort]

/-- A port that is present, in service and not OFF advances by the state it trains in (R310). -/
def State.trainingAdvanced (b : State) (p : Nat) (t : Train) (x : Port) : State :=
  match x.st with
  | .detect => if 9 ≤ t.rxLanes.length then b.setPort p { x with st := .equalise } else b
  | .recover => b.setPort p { x with st := .equalise }
  | .equalise => b.setPort p { x.equalised t.ffe with st := .identify }
  | .identify => b.identified p t
  | .frame => b.setPort p ({ x with st := .init }.control creditInitPayload)
  | _ => b

theorem portTrainingAdvance_works {s b : State} {p : Nat} {t : Train} {x : Port} (hb : b = Claims.fresh s) (hx : x = b.port p)
    (present : x.present = true) (stands : x.lost = false) (role : x.role ≠ 0) :
    exec (.portTrainingAdvance p t) s = .next (s.commit (b.trainingAdvanced p t x)) := by
  have works : ¬ ((!x.present) = true ∨ x.lost = true ∨ x.role = 0) := by simp [present, stands, role]
  subst hb hx
  exact next_commit_congr (if_neg works)

/-- A failure with nine good lanes does not lose the port (R456). -/
theorem State.failPort_enoughLanes (b : State) (p : Nat) :
    b.failPort p false = (b.setPort p { b.port p with st := .failed, fewLanes := 0, failedAt := b.time.now }).event .ok 8 0xFF [b8 p, 8] := by
  simp only [State.failPort, Bool.false_eq_true, if_false]
  exact if_neg (by decide)

theorem portTrainingTimeout_fails {s b : State} {p : Nat} (hb : b = Claims.fresh s)
    (trains : (b.port p).st = .equalise ∨ (b.port p).st = .identify ∨ (b.port p).st = .frame ∨ (b.port p).st = .init) :
    exec (.portTrainingTimeout p) s = .next (s.commit
      ((b.setPort p { b.port p with st := .failed, fewLanes := 0, failedAt := b.time.now }).event .ok 8 0xFF [b8 p, 8])) := by
  have limited : [PState.equalise, .identify, .frame, .init].contains (b.port p).st = true := by simpa using trains
  subst hb
  exact next_commit_congr ((if_pos limited).trans (State.failPort_enoughLanes _ p))

theorem portFailedRetry_due {s b : State} {p : Nat} (hb : b = Claims.fresh s) (failed : (b.port p).st = .failed)
    (stands : (b.port p).lost = false) (role : (b.port p).role ≠ 0) (due : (b.port p).failedAt + 1000000000 ≤ b.time.now) :
    exec (.portFailedRetry p) s = .next (s.commit (b.setPort p { b.port p with st := .detect })) := by
  have works : (!(b.port p).lost) = true := by rw [stands]; rfl
  subst hb
  exact next_commit_congr (if_pos ⟨failed, works, role, due⟩)

/-- The link's flits, tallies and accesses go, and then its contributions and chains (R330). -/
theorem State.leaveActive_active {b c : State} {p : Nat} {st : PState} {x : Port} (hx : x = b.port p) (active : x.st = .active)
    (hc : c = x.puts.foldl (fun s u => s.dropAccess (p, 2, u.1 * 2 ^ 16 + u.2.1)) ((({ b with time := b.time.portDown p } : State).setPort p { x with
      st := st, rx := [], queue := [], sent := [], credits := [], due := [], txSeq := 0, rxSeq := 0, retrying := false
      swapping := none, tallies := [], mask := none, acch := none, refused := [], refusedAt := [], puts := []
      failedAt := if st = .failed then b.time.now else x.failedAt }).count 4 x.tallies.length)) :
    b.leaveActive p st = ((c.buckets.foldl (fun s b =>
      ((b.2.openC.filter (fun c => c.port == p)).foldl (fun s c => s.tear b.1 c .linkDown) s).closing b.1) c).downChains p).event
        .linkDown 8 0xFF [b8 p, b8 st.code] := by
  subst hc hx
  exact if_neg (not_not.2 active)

/-- Settles O26: a port advances by its training state, and leaves it on failure as R310 and R330 say. -/
theorem portTrains : Obligations.PortTrains := by
  refine ⟨?advance, ?timeout, ?retry, ?leaves⟩
  case advance =>
    intro s b p t x hb hx present stands role
    rw [portTrainingAdvance_works hb hx present stands role, State.trainingAdvanced]
    refine ⟨fun detect lanes => ?_, fun recover => ?_, fun equalise => ?_, fun identify tx rx htx hrx tx9 rx9 roles bridge party => ?_,
      fun frame => ?_⟩
    · simp only [detect, if_pos lanes]
    · simp only [recover]
    · simp only [equalise]
    · simp only [identify, State.identified_matches hx htx hrx tx9 rx9 roles bridge party]
    · simp only [frame]
  case timeout =>
    intro s b p hb trains
    exact portTrainingTimeout_fails hb trains
  case retry =>
    intro s b p hb failed stands role due
    exact portFailedRetry_due hb failed stands role due
  case leaves =>
    rintro s b c p r st x rfl hx active rfl hc
    exact next_commit_congr (State.leaveActive_active hx active hc)

/-! Lanes (R308, R313) -/

theorem laneFail_asks {s b c : State} {p lane : Nat} {x : Port} (hb : b = Claims.fresh s) (hx : x = b.port p) (active : x.st = .active)
    (free : x.swapping = none) (lane255 : lane ≠ 255) (mapped : lane < x.rxMap.length) (hc : c = b.laneRec p 1 (x.rxMap.getD lane 0)) :
    exec (.laneFail p lane) s = .next (s.commit (if !x.rxSpare ∧ x.rxMap.length < 10 then c.portDown p 2
      else c.setPort p ({ x with swapping := some lane }.control [0x03, b8 lane]))) := by
  have judged : ¬ (x.st ≠ .active ∨ x.swapping.isSome = true) := by simp [active, free]
  subst hb hx hc
  exact next_commit_congr ((if_neg judged).trans ((if_neg lane255).trans (if_neg (not_le.2 mapped))))

theorem State.laneSwap_mapped {b c : State} {p lane : Nat} {x : Port} (hx : x = b.port p) (active : x.st = .active) (lane255 : lane ≠ 255)
    (mapped : lane < x.txMap.length) (hc : c = b.laneRec p 0 (x.txMap.getD lane 0)) :
    b.laneSwap p lane = (if x.txSpare then
      (c.setPort p ({ x with txMap := x.txMap.set lane x.txSpareLane, txSpare := false }.control [0x04, b8 lane, b8 x.txSpareLane])).laneEvent
        p 0 lane x.txSpareLane
    else if x.txMap.length = 10 then
      ((c.setPort p ({ x with txMap := x.txMap.eraseIdx lane }.control [0x04, b8 lane, 0xFF])).laneEvent p 0 lane 0xFF).degrade
    else c.portDown p 2) := by
  subst hx hc
  exact (if_neg (not_not.2 active)).trans ((if_neg lane255).trans (if_neg (not_le.2 mapped)))

theorem State.laneSwapAck_asked {b : State} {p lane phys : Nat} {x : Port} (hx : x = b.port p) (active : x.st = .active)
    (asked : x.swapping = some lane) (lane255 : lane ≠ 255) :
    b.laneSwapAck p lane phys = (if phys = 0xFF then
      ((b.setPort p { x with swapping := none, rxMap := x.rxMap.eraseIdx lane }).laneEvent p 1 lane 0xFF).degrade
    else (b.setPort p { x with swapping := none, rxMap := x.rxMap.set lane phys, rxSpare := false }).laneEvent p 1 lane phys) := by
  have awaited : ¬ (x.st ≠ .active ∨ x.swapping ≠ some lane) := by simp [active, asked]
  subst hx
  exact (if_neg awaited).trans (if_neg lane255)

/-- Bytes of a length already fit it. -/
theorem fit_of_length {n : Nat} {bs : List Byte} (h : bs.length = n) : fit n bs = bs := by
  subst h
  simp [fit, zeros]

/-- A marker of the lane with a good check code, of the port's partner, is taken (R308). -/
theorem laneMarker_taken {s b : State} {p lane arrive : Nat} {bytes : List Byte} {x : Port} (hb : b = Claims.fresh s) (hx : x = b.port p)
    (framed : x.st = .frame ∨ x.st = .init ∨ x.st = .active) (length : bytes.length = 272)
    (magic : bytes.take 8 = [0x9A, 0x4F, 0xD2, 0x31, 0x6B, 0x0C, 0xE5, 0x78]) (crc : fld bytes 268 4 = crc32c (bytes.take 268))
    (ofLane : fld bytes 8 1 = lane) (party : fld bytes 12 4 = x.partner) :
    exec (.laneMarker p lane bytes arrive) s = .next (s.commit (
      let m : Marker := { logical := fld bytes 9 1, superframe := fld bytes 10 2, party := fld bytes 12 4, depart := fld bytes 16 8
                          holdover := fld bytes 24 1 % 2 == 1, arrive := arrive }
      b.setPort p { x with markers := x.markers.put lane m })) := by
  have training : [PState.frame, .init, .active].contains x.st = true := by simpa using framed
  simp only [exec, execLaneMarker, act_fresh, ← hb, ← hx, fit_of_length length]
  have good : ¬ ((!([PState.frame, .init, .active].contains x.st)) = true
      ∨ (!(bytes.take 8 == [0x9A, 0x4F, 0xD2, 0x31, 0x6B, 0x0C, 0xE5, 0x78] && fld bytes 268 4 == crc32c (bytes.take 268)
        && fld bytes 8 1 == lane)) = true) := by
    rw [training, magic, crc, ofLane]
    simp
  rw [if_neg good, if_neg (fun other => other.1 party), if_neg (not_not.2 party)]

/-- Settles O27: a lane that is judged goes by what spares are left, and a good marker is taken. -/
theorem lanesSwap : Obligations.LanesSwap := by
  refine ⟨?fail, ?swap, ?ack, ?marker⟩
  case fail =>
    intro s b c p lane x hb hx active free lane255 mapped hc
    rw [laneFail_asks hb hx active free lane255 mapped hc]
    refine ⟨fun left => ?_, fun noSpare nine => ?_⟩
    · rw [if_neg]
      rintro ⟨noSpare, nine⟩
      exact left.elim (fun spare => by simp [spare] at noSpare) (fun ten => by omega)
    · rw [if_pos ⟨by simp [noSpare], nine⟩]
  case swap =>
    intro s b c p lane x hb hx active lane255 mapped hc
    simp only [exec, execLaneSwap, act_fresh, ← hb]
    rw [State.laneSwap_mapped hx active lane255 mapped hc]
    refine ⟨fun spare => ?_, fun noSpare ten => ?_, fun noSpare nine => ?_⟩
    · rw [if_pos spare]
    · rw [if_neg (by simp [noSpare]), if_pos ten]
    · rw [if_neg (by simp [noSpare]), if_neg (by omega)]
  case ack =>
    intro s b p lane phys x hb hx active asked lane255
    simp only [exec, execLaneSwapAck, act_fresh, ← hb]
    rw [State.laneSwapAck_asked hx active asked lane255]
    exact ⟨fun spare => by rw [if_neg spare], fun none => by rw [if_pos none]⟩
  case marker =>
    rintro s b p lane arrive bytes x hb hx framed length magic crc ofLane party m rfl
    exact laneMarker_taken hb hx framed length magic crc ofLane party

/-! Retry and credits (R316, R317) -/

theorem State.retryFrom_named {b : State} {p seq : Nat} {x : Port} {again kept : List (Flit × Nat)} (hx : x = b.port p)
    (active : x.st = .active) (hagain : again = x.sent.dropWhile (fun e => e.1.seq != seq))
    (hkept : kept = x.sent.takeWhile (fun e => e.1.seq != seq)) (named : again ≠ []) :
    b.retryFrom p seq = if again.any (fun e => decide (15 ≤ e.2)) then b.portDown p 2
      else b.setPort p (again.foldl (fun x e => (x.emit e.1).tally 4) { x with sent := kept ++ again.map (fun e => (e.1, e.2 + 1)) }) := by
  have resends : ¬ (x.st ≠ .active ∨ again.isEmpty = true) := by simp [active, named]
  subst hx hagain hkept
  exact if_neg resends

@[simp] theorem Port.emit_swapping (x : Port) (f : Flit) : (x.emit f).swapping = x.swapping := by
  simp only [Port.emit, Port.tally]
  split_ifs <;> rfl

@[simp] theorem Port.control_swapping (x : Port) (payload : List Byte) : (x.control payload).swapping = x.swapping := Port.emit_swapping _ _

theorem Port.askRetry_retrying {x : Port} (retrying : x.retrying = true) : x.askRetry = x.control ([0x01] ++ leBytes 2 x.rxSeq) := by
  obtain ⟨⟩ := x
  subst retrying
  rfl

section
variable {s b : State} {p : Nat} {x : Port} (hb : b = Claims.fresh s) (hx : x = b.port p)
include hb hx

theorem retryRepeat_init (init : x.st = .init) :
    exec (.retryRepeat p) s = .next (s.commit (b.setPort p (x.control creditInitPayload))) := by
  subst hb hx
  exact next_commit_congr (if_pos init)

theorem retryRepeat_retry (active : x.st = .active) (retrying : x.retrying = true) (noSwap : x.swapping = none) :
    exec (.retryRepeat p) s = .next (s.commit (b.setPort p (x.control ([0x01] ++ leBytes 2 x.rxSeq)))) := by
  simp only [exec, execRetryRepeat, act_fresh, ← hb, ← hx]
  rw [if_neg (by simp [active]), if_neg (not_not.2 active), if_pos retrying, Port.askRetry_retrying retrying]
  simp only [Port.control_swapping, noSwap]

theorem retryRepeat_swap {lane : Nat} (active : x.st = .active) (notRetrying : x.retrying = false) (swapping : x.swapping = some lane) :
    exec (.retryRepeat p) s = .next (s.commit (b.setPort p (x.control [0x03, b8 lane]))) := by
  simp only [exec, execRetryRepeat, act_fresh, ← hb, ← hx]
  rw [if_neg (by simp [active]), if_neg (not_not.2 active), if_neg (by simp [notRetrying])]
  simp only [swapping]

end

/-! The receipt of flits (R314, R316) -/

section
variable {s b : State} {p : Nat} {bytes : List Byte} {x : Port} (hb : b = Claims.fresh s) (hx : x = b.port p) (active : x.st = .active)
  (length : bytes.length = 272) (sequenced : unsequenced (parseFlit bytes).ftype = false)
include hb hx active length sequenced

theorem flitReceive_badCode (bad : crc32c (bytes.take 268) ≠ fld bytes 268 4) :
    exec (.flitReceive p bytes) s = .next (s.commit ((b.setPort p (x.tally 21)).setPort p (x.tally 21).missed)) := by
  have asked : ¬ (unsequenced (parseFlit bytes).ftype = true ∨ (x.tally 21).st ≠ .active) := by simp [sequenced, Port.tally, active]
  simp only [exec, execFlitReceive, act_fresh, ← hb, ← hx, fit_of_length length]
  rw [if_neg (fun idle => idle.1 active), if_pos bad, if_neg asked]

/-- A flit with a good check code and form is accepted if it is the one expected (R316). -/
theorem flitReceive_good (good : crc32c (bytes.take 268) = fld bytes 268 4) (form : flitForm bytes = true) :
    exec (.flitReceive p bytes) s = .next (s.commit (if (parseFlit bytes).seq ≠ x.rxSeq then b.setPort p x.missed
      else b.setPort p ((({ x with
        rx := x.rx ++ [parseFlit bytes], rxSeq := (x.rxSeq + 1) % 4096, retrying := false }.takes bytes).tally 16).null))) := by
  simp only [exec, execFlitReceive, act_fresh, ← hb, ← hx, fit_of_length length]
  rw [if_neg (fun idle => idle.1 active), if_neg (not_not.2 good), if_neg (by simp [form]), if_neg (by simp [sequenced]),
    if_neg (not_not.2 active)]

end

/-- Settles O28: what is asked for goes out again, and a flit is judged by its check code and then its number. -/
theorem flitsAreReceivedInOrder : Obligations.FlitsAreReceivedInOrder := by
  refine ⟨?retry, ?again, ?credits, ?down, ?receive⟩
  case retry =>
    intro s b p seq x again kept hb hx active hagain hkept named
    simp only [exec, execRetry, act_fresh, ← hb]
    rw [State.retryFrom_named hx active hagain hkept named]
    exact ⟨fun fewer => by rw [if_neg (by simp [fewer])], fun often => by rw [if_pos often]⟩
  case again =>
    intro s b p x hb hx
    refine ⟨fun init => ?_, fun active retrying noSwap => ?_, fun active notRetrying lane swapping => ?_⟩
    · exact retryRepeat_init hb hx init
    · exact retryRepeat_retry hb hx active retrying noSwap
    · exact retryRepeat_swap hb hx active notRetrying swapping
  case credits =>
    rintro s b p posted request response x rfl rfl init
    exact next_commit_congr (if_pos init)
  case down =>
    rintro s b p reason rfl reason1 reason3
    exact next_commit_congr (if_pos ⟨reason1, reason3⟩)
  case receive =>
    rintro s b p bytes x f hb hx active length rfl sequenced
    refine ⟨fun good form expected => ?_, fun good form unexpected => ?_, fun bad => ?_⟩
    · rw [flitReceive_good hb hx active length sequenced good form, if_neg (not_not.2 expected)]
    · rw [flitReceive_good hb hx active length sequenced good form, if_pos unexpected]
    · exact flitReceive_badCode hb hx active length sequenced bad

end Sys2Proof.Machine
end

section
/-! Reduction buckets open and accept, take contributions and a collector, close and are verified (R335 to R343, Table 14.5). -/

namespace Sys2Proof.Machine

/-! `OPEN` (R335) -/

/-- The state in which an `OPEN` fills its bucket: the bucket stands under its tag, its storage is zero, and the result card has the
template's bookkeeping, POISON and PENDING (R334, R335). -/
def State.opened (b : State) (c n k tag : Nat) (e : Entry) (u : Bucket) : State :=
  ((((({ b with buckets := b.buckets.put tag u } : State).zeroFill u.base (bucketBytes u.blocks)).modCard c u.result (fun d =>
    match b.opnd c e 0 with
    | some t => { d with level := t.level, scale := t.scale, accession := t.accession, floor := t.floor, poison := true }
    | none => { d with poison := true })).markPending c e true).setEntry c n k { e with phase := .issued, awaits := true })

/-- An `OPEN` that its checks admit waits for the hold of its tag, or is placed. -/
theorem redAccumOpen_admitted {s b : State} {c n k tag : Nat} {x : Stream} {e : Entry} {u : Bucket} (hb : b = Claims.fresh s)
    (ready : b.reduceReady c n k 0 = some (x, e)) (htag : tag = raTag e.cmd.imm) (admitted : b.chkOpen c n k e = .ok u)
    (clean : (b.opnd c e 0).any (fun t => t.poison) = false) (free : b.bucket tag = none)
    (room : b.buckets.countP (fun x => x.2.ctx == c) < 1024) :
    exec (.redAccumOpen c n k) s = .next (s.commit (
      if b.tagHeld tag then
        if b.tagWaits.contains (tag, c, n, k) then b else { b with tagWaits := b.tagWaits ++ [(tag, c, n, k)] }
      else b.opened c n k tag e u)) := by
  subst hb htag
  simp only [exec, execRedAccumOpen, act_fresh, ready, State.openBucket, admitted]
  rw [if_neg (by simp [clean]), if_neg (by simp [free]), if_neg (by omega)]
  rfl

theorem bucketZeroFillDone_accepts {s b t : State} {tag n k : Nat} {u : Bucket} {e : Entry} (hb : b = Claims.fresh s)
    (stands : b.bucket tag = some u) (filling : u.state = .filling) (wanted : u.aborted = false) (opener : u.opener = some (n, k))
    (ht : t = b.setBucket tag { u with state := .accepting, opener := none }) (entry : t.entry u.ctx n k = some e)
    (issued : e.phase = .issued) (undecided : e.fate = none) :
    exec (.bucketZeroFillDone tag) s = .next (s.commit (t.finish u.ctx n k e .ok)) := by
  subst hb
  have accepts : (if u.aborted then BState.verifying else .accepting) = .accepting := if_neg (by simp [wanted])
  simp only [exec, execBucketZeroFillDone, act_fresh, stands, opener, accepts, ← ht, entry]
  rw [if_neg (not_not.2 filling), if_pos issued, undecided]
  rfl

/-- A tag's hold ends 10 ms after its bucket's close, not before (R335). -/
theorem bucketTagHoldEnd_unawaited {s b : State} {tag : Nat} (hb : b = Claims.fresh s)
    (unawaited : b.tagHeld tag = false → b.tagWaits.find? (fun w => w.1 == tag) = none) :
    exec (.bucketTagHoldEnd tag) s = .next (s.commit (if b.tagHeld tag then b
      else { b with tagHolds := b.tagHolds.del tag, tagWaits := b.tagWaits.filter (fun w => w.1 != tag) })) := by
  subst hb
  simp only [exec, execBucketTagHoldEnd, act_fresh]
  split
  · rfl
  · next ended => rw [unawaited (by simpa using ended)]

/-- Settles O33: an admitted `OPEN` waits or is placed by its tag's hold, a filled bucket accepts, and a hold that is over ends. -/
theorem bucketsOpen : Obligations.BucketsOpen := by
  refine ⟨?opens, ?fills, ?holdEnds⟩
  case opens =>
    intro s b c n k tag x e u hb ready htag admitted clean free room
    rw [redAccumOpen_admitted hb ready htag admitted clean free room]
    refine ⟨fun released => ?_, fun held unlisted => ?_⟩
    · rw [if_neg (by simp [released])]
      rfl
    · rw [if_pos held, if_neg (by rw [unlisted]; exact Bool.false_ne_true)]
  case fills =>
    intro s b t tag n k u e hb stands filling wanted opener ht entry issued undecided
    exact bucketZeroFillDone_accepts hb stands filling wanted opener ht entry issued undecided
  case holdEnds =>
    intro s b tag hb
    refine ⟨fun held => ?_, fun released unawaited => ?_⟩
    · rw [bucketTagHoldEnd_unawaited hb (by simp [held]), if_pos held]
    · rw [bucketTagHoldEnd_unawaited hb (fun _ => unawaited), if_neg (by simp [released])]

/-! `ADD` and `COLLECT` (R336, R337, R342) -/

theorem redAccumAdd_local {s b : State} {c n k nb : Nat} {x : Stream} {e : Entry} {a : Card} {p : ParamSet} {u : Bucket} {me : Contribution}
    (hb : b = Claims.fresh s) (ready : b.reduceReady c n k 1 = some (x, e)) (formed : b.chkAddForm c e = .ok (a, p, nb))
    (here : raChan e.cmd.imm = 0xFF) (hme : me = { port := 8, window := c, transfer := entryKey n k })
    (admitted : b.chkAddLocal c e a nb me = .ok u) (room : b.openCount < 1024) :
    exec (.redAccumAdd c n k) s = .next (s.commit (
      (((b.expandSeed c (e.hnd 0)).setBucket (raTag e.cmd.imm) { u with openC := u.openC ++ [me] }).setEntry c n k
        { e with phase := .issued }).requestCard c n k a false)) := by
  subst hb hme
  simp only [exec, execRedAccumAdd, act_fresh, ready, formed, admitted]
  rw [if_neg (not_not.2 here), if_neg (by omega)]

theorem redAccumAdd_remote {s b t : State} {c n k nb ch : Nat} {x : Stream} {e : Entry} {a : Card} {p : ParamSet} {h : Channel}
    (hb : b = Claims.fresh s) (ready : b.reduceReady c n k 1 = some (x, e)) (formed : b.chkAddForm c e = .ok (a, p, nb))
    (hch : ch = raChan e.cmd.imm) (away : ch ≠ 0xFF) (own : b.ownChan c x.wing ch = some h) (bulk : h.bulk = true)
    (ported : h.port.isSome = true) (clean : a.poison = false)
    (ht : t = b.onChannel x.wing ch c n k h { stream := n, entry := k, desc := none }) :
    exec (.redAccumAdd c n k) s = .next (s.commit (
      match t.entry c n k with
      | some f => if f.phase = .issued then ((t.expandSeed c (e.hnd 0)).requestCard c n k a false).sendAdd c n k x.wing ch f a p nb else t
      | none => t)) := by
  subst hb hch
  simp only [exec, execRedAccumAdd, act_fresh, ready, formed]
  rw [if_pos away]
  simp only [State.addRemote, own, ← ht]
  have usable : ¬ ((!h.bulk) = true ∨ h.port.isNone = true) := by simp [bulk, Option.isSome_iff_ne_none.1 ported]
  exact next_commit_congr ((if_neg usable).trans (if_neg (by simp [clean])))

theorem redAccumCollect_waits {s b : State} {c n k : Nat} {x : Stream} {e : Entry} {u : Bucket} (hb : b = Claims.fresh s)
    (ready : b.reduceReady c n k 2 = some (x, e)) (checked : b.chkCollect c e = .ok u) :
    exec (.redAccumCollect c n k) s = .next (s.commit
      (((b.setBucket (raTag e.cmd.imm) { u with collector := some (n, k) }).markPending c e true).setEntry c n k
        { e with phase := .issued, awaits := true })) := by
  subst hb
  simp only [exec, execRedAccumCollect, act_fresh, ready, checked]

/-- Settles O34: an admitted `ADD` goes by its channel, a checked `COLLECT` takes its place at the bucket. -/
theorem contributionsAndCollection : Obligations.ContributionsAndCollection := by
  refine ⟨?addsHere, ?addsAway, ?collects⟩
  case addsHere =>
    intro s b c n k nb x e a p u me hb ready formed here hme admitted room
    exact redAccumAdd_local hb ready formed here hme admitted room
  case addsAway =>
    intro s b t c n k nb ch x e a p h hb ready formed hch away own bulk ported clean ht
    exact redAccumAdd_remote hb ready formed hch away own bulk ported clean ht
  case collects =>
    intro s b c n k x e u hb ready checked
    exact redAccumCollect_waits hb ready checked

/-! The close (R340, R343, Table 14.5) -/

section
variable {s b : State} {tag : Nat} {u : Bucket} (hb : b = Claims.fresh s) (stands : b.bucket tag = some u)
include hb stands

theorem bucketAdmissionClose_due (accepting : u.state = .accepting) (due : u.deadline ≤ b.time.now + u.margin) :
    exec (.bucketAdmissionClose tag) s = .next (s.commit ((b.setBucket tag { u with state := .closing }).closing tag)) := by
  subst hb
  simp only [exec, execBucketAdmissionClose, act_fresh, stands]
  rw [if_pos ⟨accepting, due⟩]

theorem bucketDeadline_due (unverified : u.state = .accepting ∨ u.state = .closing) (due : u.deadline ≤ b.time.now) :
    exec (.bucketDeadline tag) s = .next (s.commit
      (((b.setBucket tag { u with state := .closing }).tearAll tag .late).closing tag)) := by
  subst hb
  simp only [exec, execBucketDeadline, act_fresh, stands]
  rw [if_pos ⟨unverified, due⟩]

/-- A bucket whose storage is lost, or was before, is closed as ended without a check. -/
theorem bucketClosePass_ended (verifying : u.state = .verifying) (gone : u.ended = true ∨ b.bucketUp u = false) (chk : Check) :
    exec (.bucketClosePass tag chk) s
      = .next (s.commit (b.setBucket tag { u with state := .closed, ended := true, closedAt := b.time.now })) := by
  subst hb
  simp only [exec, execBucketClosePass, act_fresh, stands]
  rw [if_neg (not_not.2 verifying), if_pos (by simpa using gone)]

/-- A bucket that stands and whose checks hold is divided, if it is a mean, and closed (R340, R343). -/
theorem bucketClosePass_sound (verifying : u.state = .verifying) (runs : u.ended = false) (up : b.bucketUp u = true)
    (sound : b.closeFails u = false) {t : State} (ht : t = if u.mean then b.divideAll tag u else b) :
    exec (.bucketClosePass tag .pass) s = .next (s.commit (
      match t.bucket tag with
      | some v => t.setBucket tag { v with state := .closed, failed := false, closedAt := b.time.now }
      | none => t)) := by
  subst hb ht
  have holds : (Check.pass == .fail || (u.torn.isNone && (Claims.fresh s).closeFails u)) = false := by rw [sound]; simp
  simp only [exec, execBucketClosePass, act_fresh, stands, holds, Bool.false_eq_true, if_false, reduceCtorEq]
  exact next_commit_congr ((if_neg (not_not.2 verifying)).trans (if_neg (by simp [runs, up])))

end

/-- Settles O35: what is due closes or is torn, and the close pass goes by the bucket's storage and its checks. -/
theorem bucketsClose : Obligations.BucketsClose := by
  intro s b tag u hb stands
  refine ⟨fun accepting due => ?_, fun unverified due => ?_, fun verifying gone chk => ?_, fun verifying runs up whole sound sum => ?_,
    fun verifying runs up mean whole sound => ?_⟩
  · exact bucketAdmissionClose_due hb stands accepting due
  · exact bucketDeadline_due hb stands unverified due
  · exact bucketClosePass_ended hb stands verifying gone chk
  · rw [bucketClosePass_sound hb stands verifying runs up sound (t := b) (by simp [sum]), stands]
  · exact bucketClosePass_sound hb stands verifying runs up sound (by simp [mean])

end Sys2Proof.Machine
end

section
/-! The mailbox's registers and the fetch of submission entries; the event, interrupt, clock-out and stamp registers (R348 to R362, R468). -/

namespace Sys2Proof.Machine

/-- A guard that asks for the opposite of what holds lets the effect through. -/
theorem bnot_ne_true {a : Bool} (h : a = true) : ¬ (!a) = true := by simp [h]

/-! The mailbox (R348, R355, R359, R362) -/

section
variable {s b : State} {p : MPort} {x : Mailbox} (hb : b = Claims.fresh s) (hx : x = b.mb (portIx p))
include hb hx

section
variable (run : b.power.st = .run)
include run

theorem mbxEnable_set {v : W32} (set : v.getLsbD 0 = true) (disabled : x.enable = false) :
    exec (.mbxEnable p v) s = .next (s.commit
      ((b.setMb (portIx p) { x with
        enable := true, error := false, errCode := 0, sqHead := 0, sqTail := 0, cqHead := 0, cqTail := 0
        sqPhase := true, cqPhase := true }).drain (portIx p))) := by
  subst hb hx
  simp only [exec, execMbxEnable, act_fresh]
  rw [if_neg (bnot_ne_true (State.hostUp_of_run run)), if_pos set, if_neg (by simp [disabled])]

theorem mbxEnable_clear {v : W32} (clear : v.getLsbD 0 = false) :
    exec (.mbxEnable p v) s = .next (s.commit (b.setMb (portIx p) { x with enable := false })) := by
  subst hb hx
  simp only [exec, execMbxEnable, act_fresh]
  rw [if_neg (bnot_ne_true (State.hostUp_of_run run)), if_neg (by rw [clear]; exact Bool.false_ne_true)]

end

/-- A mailbox that has entries to fetch and does not move on stops (R355). -/
theorem mbxPhaseTimeout_stops (fetches : b.mbxFetches (portIx p) = true) (waiting : x.sqHead % x.sqDepth ≠ x.sqTail % x.sqDepth) :
    exec (.mbxPhaseTimeout p) s
      = .next (s.commit (b.setMb (portIx p) { x with error := true, errCode := Status.badCommand.code })) := by
  subst hb hx
  simp only [exec, execMbxPhaseTimeout, act_fresh]
  rw [if_pos (by simp [fetches, waiting])]

/-! Submission entries (R355, R358, R362) -/

section
variable {entry data : List Byte} {fault : BufFault} (fetches : b.mbxFetches (portIx p) = true)
  (frontStays : b.hex.moving.contains 0 = false) (waiting : x.sqHead % x.sqDepth ≠ x.sqTail % x.sqDepth)
include fetches frontStays waiting

omit hb in
/-- What SUBMISSION_FETCH waits for is there: a mailbox that fetches, its front role in place, and an entry in the ring (R355, R375). -/
theorem submissionFetch_acts : ¬ ((!b.mbxFetches (portIx p)) = true ∨ b.hex.moving.contains 0 = true
    ∨ (b.mb (portIx p)).sqHead % (b.mb (portIx p)).sqDepth = (b.mb (portIx p)).sqTail % (b.mb (portIx p)).sqDepth) := by
  rw [fetches, frontStays, ← hx]
  simpa using waiting

theorem submissionFetch_unreachable (unreachable : entry = []) : exec (.submissionFetch p entry data fault) s = .next (s.commit
    (b.setMb (portIx p) { x with error := true, errCode := Status.addressFault.code })) := by
  have acts := submissionFetch_acts hx fetches frontStays waiting
  subst hb hx unreachable
  exact next_commit_congr ((if_neg acts).trans (if_pos rfl))

/-- An entry of the ring's phase is new: it is taken off the ring and begun (R355). -/
theorem submissionFetch_new (whole : entry.length = 64) (new : (fld entry 63 1 / 128 == 1) = x.sqPhase) :
    exec (.submissionFetch p entry data fault) s
      = .next (s.commit ((b.popSubmission (portIx p)).beginEntry p entry data fault)) := by
  have acts := submissionFetch_acts hx fetches frontStays waiting
  subst hb hx
  have nonempty : ¬ entry.isEmpty = true := by
    rw [List.isEmpty_iff_length_eq_zero]
    omega
  simp only [exec, execSubmissionFetch, act_fresh, fit_of_length whole]
  rw [if_neg acts, if_neg nonempty, if_neg (by simp [new])]

end

end

/-- A clean entry with a known opcode runs its row of Table 15.12 with the operands that it holds. -/
theorem State.beginEntry_row {b : State} {p : MPort} {entry data : List Byte} {fault : BufFault} {r : SubmitRow}
    (row : submitRow (fld entry 0 2) = some r) (clean : entryClean entry (fld entry 0 2) r.fields = true) :
    b.beginEntry p entry data fault = r.run { port := p, context := fld entry 6 1, tag := fld entry 4 2, buf := {
      dev := fld entry 2 1 % 2 == 1, addr := fld entry 8 8, len := fld entry 16 4, data := data, fault := fault } }
      (r.fields.map (fun f => fld entry f.1 f.2)) b := by
  simp only [State.beginEntry, row, clean, if_true]

/-- Settles O30: while the module runs each register takes its write; a new entry leaves the ring and its row runs. -/
theorem mailboxRegistersWork : Obligations.MailboxRegistersWork := by
  refine ⟨?registers, ?entries⟩
  case registers =>
    intro s b p v x hb hx run
    have up : (Claims.fresh s).hostUp = true := State.hostUp_of_run (hb ▸ run)
    refine ⟨?_, mbxEnable_set hb hx run, mbxEnable_clear hb hx run, ?_, ?_, ?_, mbxPhaseTimeout_stops hb hx⟩
    all_goals
      subst hb hx
      exact next_commit_congr (if_pos up)
  case entries =>
    intro s b p entry data fault x hb hx fetches frontStays waiting
    refine ⟨submissionFetch_unreachable hb hx fetches frontStays waiting, fun whole new r m row clean hm => ?_⟩
    rw [submissionFetch_new hb hx fetches frontStays waiting whole new, State.beginEntry_row row clean, hm]

/-! The module's registers (R348, R351, R353, R354, R356, R468) -/

section
variable {s b : State} (hb : b = Claims.fresh s) (run : b.power.st = .run)
include hb run

theorem rcRegisterRead_lost : exec (.rcRegisterRead 0x201C) s = .next (s.commit
    { b with host := { b.host with readData := leBytes 4 b.evt.lost }, evt := { b.evt with lost := 0 } }) := by
  subst hb
  exact next_commit_congr ((if_neg (bnot_ne_true (State.hostUp_of_run run))).trans (if_pos rfl))

theorem rcRegisterRead_count {j : Nat} (hj : j < 16) : exec (.rcRegisterRead (0x2100 + 4 * j)) s = .next (s.commit
    { b with host := { b.host with readData := leBytes 4 (b.evt.counts.getD j 0) }, evt := { b.evt with counts := b.evt.counts.put j 0 } }) := by
  subst hb
  have word : (0x2100 + 4 * j - 0x2100) / 4 = j := by omega
  simp only [exec, execRcRegisterRead, act_fresh, word]
  rw [if_neg (bnot_ne_true (State.hostUp_of_run run)), if_neg (by omega), if_pos (by omega)]

/-- Reading the low half of a 64-bit register keeps its high half for the next read (R348). -/
theorem lowHalfRead_latches {p : MPort} {off : Nat} {v : W64} {u : State} (register : b.reg64 p off = some v)
    (hu : u = b.setMb (portIx p) { b.mb (portIx p) with latch := some (off + 4, BitVec.ofNat 32 (v.toNat / 2 ^ 32)) }) :
    exec (.lowHalfRead p off) s = .next (s.commit { u with host := { u.host with readData := leBytes 4 v.toNat } }) := by
  subst hb hu
  simp only [exec, execLowHalfRead, act_fresh, State.hostUp_of_run run, register]

theorem stpBufferWrite_writes (len : Bool) (v : W64) : exec (.stpBufferWrite len v) s = .next (s.commit
    (if b.stamps.busy then { b with stamps := { b.stamps with pendingBuf := b.stamps.pendingBuf ++ [(len, v)] } } else b.bufWrite len v)) := by
  subst hb
  exact next_commit_congr (if_neg (bnot_ne_true (State.hostUp_of_run run)))

end

/-- Settles O31: while the module runs, each register does what its rule says of it. -/
theorem moduleRegistersWork : Obligations.ModuleRegistersWork := by
  intro s b hb run
  have up : (Claims.fresh s).hostUp = true := State.hostUp_of_run (hb ▸ run)
  refine ⟨fun v => ?evtHead, fun v => ?evtRingCtrl, rcRegisterRead_lost hb run, fun j => rcRegisterRead_count hb run,
    fun p off v u => lowHalfRead_latches hb run, fun p => ⟨?dropped, ?ones⟩, fun v => ?irqCause, fun v => ?ckoCtrl, fun v => ?stpTrigger,
    fun len v => ?stpBufferWrite⟩
  case evtHead => exact hb ▸ next_commit_congr (if_pos up)
  case evtRingCtrl => exact hb ▸ next_commit_congr (if_pos up)
  case dropped => exact hb ▸ next_commit_congr (if_neg (bnot_ne_true up))
  case ones => exact hb ▸ next_commit_congr (if_neg (bnot_ne_true up))
  case irqCause => exact hb ▸ next_commit_congr (if_pos up)
  case ckoCtrl => exact hb ▸ next_commit_congr (if_neg (bnot_ne_true up))
  case stpTrigger => exact hb ▸ next_commit_congr (if_neg (bnot_ne_true up))
  case stpBufferWrite =>
    rw [stpBufferWrite_writes hb run]
    exact ⟨fun idle => by rw [if_neg (by simp [idle])], fun busy => by rw [if_pos busy]⟩

end Sys2Proof.Machine
end

section
/-! Feeds, inrush limiters and the limit in force; power-good, PERST_N and VIO_SB; the maintenance port (R371, R401, R402, R407, R415 to R418,
R484 to R489). -/

namespace Sys2Proof.Machine

/-! Feeds (R401, R415 to R418, R484, R486) -/

theorem feedPresent_overRating {feed mv : Nat} (beyond : 64000 < mv) (s : State) :
    exec (.feedPresent feed mv) s = .fault .stressBeyondRatings := by
  simp only [exec, execFeedPresent]
  rw [if_pos (by simp [feedStress, beyond])]

theorem feedLost_overRating {feed mv : Nat} (beyond : 64000 < mv) (s : State) :
    exec (.feedLost feed mv) s = .fault .stressBeyondRatings := by
  simp only [exec, execFeedLost]
  rw [if_pos (by simp [feedStress, beyond])]

section
variable {s b : State} {feed : Nat} {f : Feed} (hb : b = Claims.fresh s) (hf : f = b.feed feed) (feed2 : feed < 2)
include hb hf feed2

theorem feedPresent_comesIn {mv : Nat} (rated : mv ≤ 64000) (absent : f.present = false) (mayConnect : f.limiter ≠ .waitRetry)
    (inRange : f.inRange mv = true) : exec (.feedPresent feed mv) s = .next (s.commit (b.feedIn feed mv)) := by
  subst hb hf
  simp only [exec, execFeedPresent, act_fresh]
  rw [if_neg (by simp [feedStress, rated]), if_pos ⟨feed2, absent, mayConnect, inRange⟩]

theorem feedLost_goesOut {mv : Nat} (rated : mv ≤ 64000) (present : f.present = true) (outside : mv < 39000 ∨ 61000 < mv) :
    exec (.feedLost feed mv) s = .next (s.commit
      (b.feedOut feed { f with mv := mv, present := false, limiter := .idle, was := if mv < 39000 then 1 else 2 })) := by
  subst hb hf
  simp only [exec, execFeedLost, act_fresh]
  rw [if_neg (by simp [feedStress, rated]), if_pos ⟨feed2, present, outside⟩]

theorem inrushLimiterDone_charged (charging : f.limiter = .charging) :
    exec (.inrushLimiterDone feed) s = .next (s.commit (b.setFeed feed { f with limiter := .done })) := by
  subst hb hf
  exact next_commit_congr (if_pos ⟨feed2, charging⟩)

theorem inrushTimeout_disconnects (charging : f.limiter = .charging) :
    exec (.inrushTimeout feed) s = .next (s.commit (b.feedOut feed { f with present := false, limiter := .waitRetry })) := by
  subst hb hf
  exact next_commit_congr (if_pos ⟨feed2, charging⟩)

theorem inrushRetry_connects (waits : f.limiter = .waitRetry) :
    exec (.inrushRetry feed) s = .next (s.commit
      (if f.inRange f.mv then b.feedIn feed f.mv else b.setFeed feed { f with limiter := .idle })) := by
  subst hb hf
  exact next_commit_congr (if_pos ⟨feed2, waits⟩)

end

/-- With new voltages read at the feeds that are present, the current limit is 40 A times each of them (R416). -/
theorem State.curLimitNow_measured (b : State) (a c : Nat) :
    State.curLimitNow { b with power := { b.power with
        feedA := if b.power.feedA.present then { b.power.feedA with mv := a } else b.power.feedA
        feedB := if b.power.feedB.present then { b.power.feedB with mv := c } else b.power.feedB } }
      = (if b.power.feedA.present then 40 * a else 0) + (if b.power.feedB.present then 40 * c else 0) := by
  simp only [State.curLimitNow]
  congr 1
  · cases here : b.power.feedA.present <;> simp [here]
  · cases here : b.power.feedB.present <;> simp [here]

theorem currentLimitUpdate_relimits {s b : State} (hb : b = Claims.fresh s) {a c l m : Nat} {u v : State}
    (hu : u = { b with power := { b.power with
      feedA := if b.power.feedA.present then { b.power.feedA with mv := a } else b.power.feedA
      feedB := if b.power.feedB.present then { b.power.feedB with mv := c } else b.power.feedB } })
    (hl : l = (if b.power.feedA.present then 40 * a else 0) + (if b.power.feedB.present then 40 * c else 0))
    (hm : m = min b.power.setLimit (min b.power.feedLimit (l / 1000)))
    (hv : v = { u with power := { u.power with curLimit := l, limit := m } }) :
    exec (.currentLimitUpdate a c) s = .next (s.commit
      (if b.power.st = .run ∧ (b.power.limit + 50 ≤ m ∨ m + 50 ≤ b.power.limit) then
        v.event .ok 0x10 0xFF ([b8 v.feeds] ++ leBytes 2 m) else v)) := by
  subst hb hm hv
  have measured : u.curLimitNow = l := by rw [hu, hl, State.curLimitNow_measured]
  simp only [exec, execCurrentLimitUpdate, act_fresh, ← hu, measured, State.relimit]
  rw [hu]

/-- Settles O39: a feed moves as its voltage and its limiter say, and the limit follows the voltages that are read. -/
theorem feedsComeAndGo : Obligations.FeedsComeAndGo := by
  intro s b feed mv f hb hf feed2
  refine ⟨feedPresent_comesIn hb hf feed2, feedLost_goesOut hb hf feed2,
    fun beyond => ⟨feedPresent_overRating beyond s, feedLost_overRating beyond s⟩,
    fun charging => ⟨inrushLimiterDone_charged hb hf feed2 charging, inrushTimeout_disconnects hb hf feed2 charging⟩,
    inrushRetry_connects hb hf feed2, ?_⟩
  intro a c u hu l hl m hm v hv
  exact currentLimitUpdate_relimits hb hu hl hm hv

/-! Contacts (R401, R402, R407, R489) -/

section
variable {s b u : State} (hb : b = Claims.fresh s)
include hb

theorem powerGood_standsBy {v : State} (starting : b.power.st = .starting)
    (hu : u = [72, 76, 79].foldl (fun s d => s.setDom d { s.dom d with on := true }) b)
    (hv : v = { u with power := { u.power with st := .standby, prsnt := true } }) :
    exec .powerGood s = .next (s.commit (if v.power.earlyRelease then v.tryBringUp else v)) := by
  subst hb hu hv
  exact next_commit_congr (if_pos starting)

/-- A module that is up is reset warm; one that is not only keeps the contact's level (R407). -/
theorem perstNAssert_resets (hu : u = { b with power := { b.power with perst := true, earlyRelease := false } }) :
    exec .perstNAssert s = .next (s.commit (
      if b.power.st = .off ∨ b.power.st = .starting then u
      else { u.resetTo .standby with power := { (u.resetTo .standby).power with ckoDriven := true }, time := {} })) := by
  subst hb hu
  rfl

/-- Bring-up starts from standby; before it the release waits for power (R401, R402). -/
theorem perstNRelease_bringsUp (hu : u = { b with power := { b.power with perst := false } }) :
    exec .perstNRelease s = .next (s.commit (
      if b.power.st = .standby then u.tryBringUp
      else if b.power.st = .starting ∨ b.power.st = .off then { u with power := { u.power with earlyRelease := true } }
      else u)) := by
  subst hb hu
  rfl

end

/-- Settles O40: each contact acts by the power state that it finds. -/
theorem contactsBringUpAndReset : Obligations.ContactsBringUpAndReset := by
  intro s b hb
  refine ⟨fun starting u v hu hv => powerGood_standsBy hb starting hu hv, fun u hu => ?asserted, fun u hu => ?released, fun mv => ?vio⟩
  case asserted =>
    rw [perstNAssert_resets hb hu]
    refine ⟨fun down => by rw [if_pos down], ?_⟩
    rintro (standby | run)
    · rw [if_neg (by simp [standby])]
    · rw [if_neg (by simp [run])]
  case released =>
    rw [perstNRelease_bringsUp hb hu]
    refine ⟨fun standby => by rw [if_pos standby], ?_, fun run => by rw [if_neg (by simp [run]), if_neg (by simp [run])]⟩
    rintro (starting | off)
    · rw [if_neg (by simp [starting]), if_pos (.inl starting)]
    · rw [if_neg (by simp [off]), if_pos (.inr off)]
  case vio =>
    subst hb
    rfl

/-! The maintenance port (R371, R487, Table 15.14) -/

section
variable {s b : State} (hb : b = Claims.fresh s) (up : b.maintUp = true)
include hb up

/-- With both feeds present feed A carries a free share of the input power, half of it within ±10 % (R487). -/
theorem telemetry_replies {share : Nat} (hshare : share = 450 + Config.free b.draw 5 % 101) :
    exec .telemetry s = .next (s.commit (({ b with draw := b.draw + 1 } : State).replyWith (leBytes 2 b.power.feedA.mv ++ leBytes 2 b.power.feedB.mv
      ++ leBytes 2 (b.power.feedA.current b.power.inputMw (if b.power.feedB.present then share else 1000))
      ++ leBytes 2 (b.power.feedB.current b.power.inputMw (if b.power.feedA.present then 1000 - share else 1000))
      ++ leBytes 2 (b.power.inputMw / 1000) ++ intBytes 2 b.power.inlet ++ intBytes 2 b.power.outlet
      ++ (List.range 4).flatMap (fun w => intBytes 1 (hottest ((List.range 12).map fun j => (b.dom (18 * w + j)).tj)))
      ++ intBytes 1 (hottest (b.stks.map fun k => k.2.temp)) ++ [0] ++ leBytes 4 b.time.now ++ zeros 8))) := by
  subst hb hshare
  exact next_commit_congr (if_neg (bnot_ne_true up))

theorem wingPowerOff_confirmed {w : Nat} (w4 : w < 4) (run : b.power.st = .run) (stands : (b.wing w).lost = false) :
    exec (.wingPowerOff w 0xA5) s = .next (s.commit ((b.replyWith [b8 Status.ok.code]).loseWing w 5)) := by
  subst hb
  simp only [exec, execWingPowerOff, act_fresh]
  rw [if_neg (bnot_ne_true up), if_neg (by simp), if_neg (by omega), if_neg (not_not.2 run), if_neg (by simp [stands])]

theorem maintModuleReset_confirmed (run : b.power.st = .run) :
    exec (.maintModuleReset 0xA5) s = .next (s.commit (b.replyWith [b8 Status.ok.code]).moduleReset) := by
  subst hb
  simp only [exec, execMaintModuleReset, act_fresh]
  rw [if_neg (bnot_ne_true up), if_neg (by simp), if_neg (not_not.2 run)]

theorem wingPowerOff_unconfirmed (w : Nat) {k : Byte} (wrong : k ≠ 0xA5) :
    exec (.wingPowerOff w k) s = .next (s.commit { b with power := { b.power with nack := true } }) := by
  subst hb
  exact next_commit_congr ((if_neg (bnot_ne_true up)).trans (if_pos wrong))

theorem maintModuleReset_unconfirmed {k : Byte} (wrong : k ≠ 0xA5) :
    exec (.maintModuleReset k) s = .next (s.commit { b with power := { b.power with nack := true } }) := by
  subst hb
  exact next_commit_congr ((if_neg (bnot_ne_true up)).trans (if_pos wrong))

theorem setdasa_assigns (unaddressed : b.power.i3c = none) (a : Nat) :
    exec (.setdasa 0x3A a) s = .next (s.commit { b with power := { b.power with i3c := some a } }) := by
  subst hb
  simp only [exec, execSetdasa, act_fresh]
  rw [if_pos (by simp [up, unaddressed])]

theorem entdaa_assigns (unaddressed : b.power.i3c = none) (a : Nat) :
    exec (.entdaa a) s = .next (s.commit { b with power := { b.power with i3c := some a } }) := by
  subst hb
  simp only [exec, execEntdaa, act_fresh]
  rw [if_pos (by simp [up, unaddressed])]

end

/-- A feed carries a current while it is present at a voltage. -/
theorem Feed.current_eq (f : Feed) (inputMw share : Nat) :
    f.current inputMw share = if f.present = false ∨ f.mv = 0 then 0 else inputMw * share / f.mv := by
  simp only [Feed.current, Bool.or_eq_true, Bool.not_eq_true', decide_eq_true_eq]

/-- Settles O44: while D.MAINT is powered each command answers by its row of Table 15.14. -/
theorem maintenancePortAnswers : Obligations.MaintenancePortAnswers := by
  intro s b hb up
  refine ⟨⟨450 + Config.free b.draw 5 % 101, by omega, by omega, ?telemetry⟩, ?health, ?summary,
    fun w => wingPowerOff_confirmed hb up, maintModuleReset_confirmed hb up,
    fun w k wrong => ⟨wingPowerOff_unconfirmed hb up w wrong, maintModuleReset_unconfirmed hb up wrong⟩,
    fun unaddressed a => ⟨?static, ?dynamic⟩⟩
  case telemetry =>
    rintro ma rfl
    simp only [telemetry_replies hb up rfl, Feed.current_eq]
  case health =>
    rintro u rfl
    subst hb
    exact next_commit_congr (if_neg (bnot_ne_true up))
  case summary =>
    subst hb
    exact next_commit_congr (if_neg (bnot_ne_true up))
  case static => exact setdasa_assigns hb up unaddressed a
  case dynamic => exact entdaa_assigns hb up unaddressed a

end Sys2Proof.Machine
end

section
/-! Firmware is staged, activated, loaded and served; quotes, sessions, manifests and sealed segments go through the keeper (R380 to R397). -/

namespace Sys2Proof.Machine

/-! Staged firmware (R383, R384) -/

theorem fwStage_stages {s b : State} {m : Mbx} {slot : Nat} {bs : List Byte} (hb : b = Claims.begun s m)
    (begins : Claims.begins s m { op := 0x0101, tenant := false, ctx := .none, buf := true, maxLen := 33554432 } 255) (slot1 : slot ≤ 1)
    (unchecked : b.hex.staging.get slot = none) (input : b.inBuf m m.buf.len = .ok bs) :
    exec (.fwStage m slot) s = .next (s.commit (
      let img : Image := { body := bs.take (bs.length - colophonLen), colophon := bs.drop (bs.length - colophonLen) }
      { b with hex := { b.hex with
          slots := b.hex.slots.del slot, staging := b.hex.staging.put slot (Claims.owed s m 0x0101 255, img) } })) := by
  subst hb
  refine act_runCmd_later begins ((if_neg (by omega)).trans ((if_neg (by simp [unchecked])).trans ?_))
  simp only [input]

/-- The check of a staged image ends FW_STAGE with what it found (R383). -/
theorem stagedImageChecked_ends {s b t : State} {slot : Nat} {o : Owed} {img : Image} (hb : b = Claims.fresh s)
    (staged : b.hex.staging.get slot = some (o, img)) (ht : t = { b with hex := { b.hex with staging := b.hex.staging.del slot } }) :
    exec (.stagedImageChecked slot) s = .next (s.commit (
      match checkImage b (img.body ++ img.colophon) with
      | .ok im => ({ t with hex := { t.hex with slots := t.hex.slots.put slot im } } : State).complete o .ok []
      | .error e => ({ t with hex := { t.hex with slots := t.hex.slots.del slot } } : State).complete o e [])) := by
  subst hb ht
  simp only [exec, execStagedImageChecked, act_fresh, staged]
  cases checkImage (Claims.fresh s) (img.body ++ img.colophon) <;> rfl

theorem fwActivate_restarts {s b t : State} {m : Mbx} {slot : Nat} {img : Image} (hb : b = Claims.begun s m)
    (begins : Claims.begins s m { op := 0x0102, tenant := false, ctx := .none } 255) (unused : b.ctxs = []) (slot2 : slot < 2)
    (staged : b.hex.slots.get slot = some img) (forward : b.hex.otp.arb ≤ fld img.colophon 12 2)
    (ht : t = Claims.ended s m 0x0102 255 [] (b.activate img)) :
    exec (.fwActivate m slot) s = .next (s.commit
      { t with hex := { t.hex with phase := .restarting, rdyHexset := false, rdyFw := false, rdyMbx := false } }) := by
  subst hb ht
  refine act_runCmd_later begins ((if_neg (by simp [unused])).trans ?_)
  simp only [if_pos slot2, staged]
  exact if_neg (by omega)

/-! The boot record (R380 to R382) -/

theorem bootRecordPoll_loads {s b : State} {a : Nat} {r : List Byte} (hb : b = Claims.fresh s) (run : b.power.st = .run)
    (idle : b.hex.phase = .none) (window : b.bootWindow = some a) (record : b.read a 64 = .ok r) (magic : fld r 0 4 = 0x31424C4F)
    (named : fld r 4 4 ≠ 0) (new : fld r 4 4 ≠ b.hex.bootSeq) (aligned : fld r 8 8 % 4096 = 0) (behind : 0x1000 ≤ fld r 8 8)
    (inside : fld r 8 8 + fld r 16 8 ≤ 2 ^ 28) :
    exec .bootRecordPoll s = .next (s.commit
      { b with hex := { b.hex with bootSeq := fld r 4 4, phase := .loading (fld r 4 4) (fld r 8 8) (fld r 16 8) } }) := by
  subst hb
  simp only [exec, execBootRecordPoll, act_fresh, run, idle, window, record]
  rw [if_neg (by simp [magic, named, new]), if_neg (by omega)]

/-- A copied image that passes its check is activated and starts; one that does not is reported (R380, R382). -/
theorem firmwareLoadDone_reports {s b : State} {seq off len a : Nat} {img : List Byte} (hb : b = Claims.fresh s)
    (loading : b.hex.phase = .loading seq off len) (window : b.stageDpa off len = some a) (copied : b.read a len = .ok img) :
    exec .firmwareLoadDone s = .next (s.commit (
      match checkImage b img with
      | .ok im => ({ b.activate im with hex := { (b.activate im).hex with phase := .starting } } : State).bootAck seq .ok
      | .error e => ({ b with hex := { b.hex with phase := .none } } : State).bootAck seq e)) := by
  subst hb
  simp only [exec, execFirmwareLoadDone, act_fresh, loading, window, copied]
  cases checkImage (Claims.fresh s) img <;> rfl

/-- Settles O4: staging and activation pass their checks in their order, each later step finds firmware in its phase. -/
theorem firmwareLoadsAndServes : Obligations.FirmwareLoadsAndServes := by
  refine ⟨⟨?stage, ?checked, ?activate, ?started, ?restarted⟩, ?poll, ?loaded⟩
  case stage =>
    intro s b m slot bs hb begins slot1 unchecked input
    exact fwStage_stages hb begins slot1 unchecked input
  case checked =>
    intro s b t slot o img hb staged ht
    exact stagedImageChecked_ends hb staged ht
  case activate =>
    intro s b t m slot img hb begins unused slot2 staged forward ht
    exact fwActivate_restarts hb begins unused slot2 staged forward ht
  case started =>
    rintro s b rfl starting
    simp only [exec, execFirmwareStarted, act_fresh, starting]
  case restarted =>
    rintro s b rfl restarting
    simp only [exec, execHexsetRestartDone, act_fresh, restarting]
  case poll =>
    intro s b a r hb run idle window record magic named new aligned behind inside
    exact bootRecordPoll_loads hb run idle window record magic named new aligned behind inside
  case loaded =>
    intro s b seq off len a img hb loading window copied
    exact firmwareLoadDone_reports hb loading window copied

/-! Quotes (R386, R387) -/

section
variable {s b : State} {m : Mbx} {c : Nat} (hb : b = Claims.begun s m)
include hb

theorem quote_queued (begins : Claims.begins s m { op := 0x0104, ctx := .own, buf := true } c) (serves : b.hex.rdyKeeper = true)
    (room : b.outBuf m 80352 = none) (devRead : m.buf.dev = true → b.poisoned m.buf.addr 64 = false)
    (hostRead : m.buf.dev = false → m.buf.fault ≠ .poisonedTlp) :
    exec (.quote m) s = .next (s.commit { b with hex := { b.hex with quotes := b.hex.quotes ++
      [⟨Claims.owed s m 0x0104 c, if m.buf.dev then b.bytes m.buf.addr 64 else fit 64 m.buf.data, if c = 255 then none else some c, m.buf⟩] } }) := by
  subst hb
  refine act_runCmd_later begins ((if_neg (by simp [serves])).trans ?_)
  simp only [room]
  refine (if_neg ?_).trans (if_neg ?_)
  · simpa using devRead
  · simpa using hostRead

end

theorem quoteSigned_writes {s b e : State} {q : QuoteJob} {rest : List QuoteJob} (hb : b = Claims.fresh s)
    (waiting : b.hex.quotes = q :: rest) (he : e = b.endorse) :
    exec .quoteSigned s = .next (s.commit (
      (({ e with hex := { e.hex with quotes := rest } } : State).putBuf q.buf
        (e.quote (q.ctx.getD 255) q.nonce (b.bindings q.ctx).1 (b.bindings q.ctx).2 ++ (e.ledger.endorsement.getD []))).complete q.owed .ok [])) := by
  subst hb he
  simp only [exec, execQuoteSigned, act_fresh, waiting]

/-! Sessions and manifests (R388, R393) -/

section
variable {s b : State} {m : Mbx} {c : Nat} (hb : b = Claims.begun s m)
include hb

theorem sessionOpen_queues {t : State} {r : List Byte} (begins : Claims.begins s m { op := 0x0105, owner := false, ctx := .own, buf := true } c)
    (serves : b.hex.rdyKeeper = true) (healthy : b.hex.drbgError = false) (random : b.hex.trng = true)
    (unverified : (b.hex.job.toList ++ b.hex.jobs).any (fun j => j.ctx == c && j.kind == 2) = false) (room : b.outBuf m 52088 = none)
    (hr : r = (if m.buf.dev then b.bytes m.buf.addr 1808 else fit 1808 m.buf.data))
    (devRead : m.buf.dev = true → b.poisoned m.buf.addr 1808 = false) (hostRead : m.buf.dev = false → m.buf.fault ≠ .poisonedTlp)
    (magic : fld r 0 4 = 0x31534C4F) (version : fld r 4 2 = 0x0100) (zero1 : zeroAt r 6 2 = true) (zero2 : zeroAt r 1705 3 = true)
    (zero3 : zeroAt r 1805 3 = true) (ht : t = b.modCtx c (fun x => { x with session := none })) :
    exec (.sessionOpen m) s = .next (s.commit (({ t with draw := t.draw + 1 } : State).addJob
      { kind := 0, owed := Claims.owed s m 0x0105 c, ctx := c, start := 0, draw := t.draw, msg := r, buf := m.buf
        fail := if kemCheck ((r.drop 40).take 1568) && (Pt.decode ((r.drop 1608).take 97)).isSome
            && (Pt.decode ((r.drop 1708).take 97)).isSome
          then none else some .cryptoFail })) := by
  subst hb ht
  refine act_runCmd_later begins ((if_neg (by simp [serves])).trans ((if_neg (by simp [healthy])).trans ((if_neg (by simp [random])).trans
    ((if_neg (by simp [unverified])).trans ?_))))
  simp only [room, ← hr]
  refine (if_neg ?_).trans ((if_neg ?_).trans (if_neg ?_))
  · simpa using devRead
  · simpa using hostRead
  · simp [magic, version, zero1, zero2, zero3]

theorem manifestLoad_queues {n : Nat} {x : Ctx} {z : Session} {bs : List Byte} (begins : Claims.begins s m { op := 0x0107, buf := true } c)
    (serves : b.hex.rdyKeeper = true) (stands : b.ctxs.get c = some x) (session : x.session = some z) (input : b.inBuf m m.buf.len = .ok bs)
    (hn : n = fld bs 6 2) (n1 : 1 ≤ n) (n1024 : n ≤ 1024) (length : bs.length = 32 + 48 * n + 96) (magic : fld bs 0 4 = 0x314D4C4F)
    (version : fld bs 4 2 = 0x0100) (zero : zeroAt bs 16 16 = true)
    (zeroEach : (List.range n).all (fun i => fld bs (32 + 48 * i + 9) 1 == 0) = true) (first : x.manifest = none) :
    exec (.manifestLoad m) s = .next (s.commit (b.addJob (
      let r := leNat (((bs.drop (32 + 48 * n)).take 48).reverse)
      let v := leNat ((((bs.drop (32 + 48 * n)).drop 48).take 48).reverse)
      { kind := 2, owed := Claims.owed s m 0x0107 c, ctx := c, start := 0, draw := 0, msg := bs, buf := m.buf
        fail := if r = 0 ∨ v = 0 ∨ p384Order ≤ r ∨ p384Order ≤ v then some .cryptoFail else none }))) := by
  subst hb
  have noEntryBad : (List.range n).any (fun i => fld bs (32 + 48 * i + 9) 1 != 0) = false := by
    simpa [List.any_eq_false, List.all_eq_true] using zeroEach
  refine act_runCmd_later begins ((if_neg (by simp [serves])).trans ?_)
  simp only [stands, Option.bind_some, session, input, ← hn, first]
  refine if_neg ?_
  simp only [noEntryBad, not_or]
  exact ⟨by omega, by omega, by omega, by omega, by simp [magic], by simp [version], by simp [zero], by simp, by simp⟩

end

/-! The engine's jobs (R389, R393, R397) -/

/-- What the second half of a key exchange leaves: a session under the secret agreed on, or a failed invariant (R389, R396). -/
def State.agreed (b : State) (j : BigJob) : Option (List Byte) → Option (List Byte) → State
  | some qm, some z => b.openSession j qm z
  | _, _ => b.complete j.owed .cryptoFail []

section
variable {s a b : State} {j : BigJob} (ha : a = Claims.fresh s) (hb : b = a.nextJob) (running : a.hex.job = some j)
  (due : j.start + jobTime j.kind ≤ a.time.now)
include ha hb running due

theorem bignumJobEnd_fails {e : Status} (fails : j.fail = some e) :
    exec .bignumJobEnd s = .next (s.commit (b.complete j.owed e [])) := by
  subst ha hb
  simp only [exec, execBignumJobEnd, act_fresh, running, fails]
  rw [if_neg (by omega)]

/-- The first half of a key exchange makes the key pair, and the second half follows (R389). -/
theorem bignumJobEnd_keyPair (sound : j.fail = none) (kind : j.kind = 0) :
    exec .bignumJobEnd s = .next (s.commit (
      if (ecdhPublic j.draw).isSome then (b.keeperDrew 4).addJob { j with kind := 1 } else (b.keeperDrew 4).complete j.owed .cryptoFail [])) := by
  subst ha hb
  simp only [exec, execBignumJobEnd, act_fresh, running, sound]
  rw [if_neg (by omega)]
  simp only [kind]
  cases ecdhPublic j.draw <;> rfl

theorem bignumJobEnd_agrees (sound : j.fail = none) (kind : j.kind = 1) :
    exec .bignumJobEnd s = .next (s.commit
      ((b.keeperDrew 7).agreed j (ecdhPublic j.draw) (ecdhShared j.draw ((j.msg.drop 1608).take 97)))) := by
  subst ha hb
  simp only [exec, execBignumJobEnd, act_fresh, running, sound]
  rw [if_neg (by omega)]
  simp only [kind]
  cases ecdhPublic j.draw <;> cases ecdhShared j.draw ((j.msg.drop 1608).take 97) <;> rfl

/-- A manifest of a later serial than the one in force comes into force if its signature verifies (R393). -/
theorem bignumJobEnd_manifest (sound : j.fail = none) (kind : j.kind = 2)
    (later : ∀ x f, a.ctxs.get j.ctx = some x → x.manifest = some f → f.serial < fld j.msg 8 8) :
    exec .bignumJobEnd s = .next (s.commit (
      let n := j.msg.length - 96
      let key := ((a.ctxs.get j.ctx).bind (fun x => x.session)).map (fun y => y.manKey)
      if ecdsaVerify (key.getD []) (j.msg.take n) (j.msg.drop n) then
        (b.modCtx j.ctx (fun x => { x with manifest := some (parseManifest j.msg) })).complete j.owed .ok []
      else b.complete j.owed .signatureInvalid [])) := by
  subst ha hb
  have notOvertaken : ((Claims.fresh s).ctxs.get j.ctx |>.bind (fun x => x.manifest)).any (fun f => decide (fld j.msg 8 8 ≤ f.serial)) = false := by
    cases stands : (Claims.fresh s).ctxs.get j.ctx with
    | none => rfl
    | some x =>
      cases inForce : x.manifest with
      | none => simp [inForce]
      | some f => simpa [inForce] using later x f stands inForce
  simp only [exec, execBignumJobEnd, act_fresh, running, sound]
  rw [if_neg (by omega)]
  simp only [kind]
  rw [if_neg (by simp [notOvertaken])]

end

/-! Sealed segments (R391, R392) -/

/-- The template that a first segment begins with may not be bound: it is malformed, or its storage may not hold the card (R392). -/
def State.refusesTemplate (b : State) (c handle : Nat) (tb : List Byte) : Option Card → Bool
  | some cd => !templateOk cd tb cd.set || (cd.kind != .key && !b.placeOk c handle cd (cd.kind == .share))
  | none => true

section
variable {s b : State} {m : Mbx} {c handle : Nat} {bs : List Byte} {z : Session} (hb : b = Claims.begun s m)
  (begins : Claims.begins s m { op := 0x0106, owner := false, ctx := .own, buf := true } c) (serves : b.hex.rdyKeeper = true)
  (random : b.hex.trng = true) (input : b.anyBuf m = .ok bs) (session : (b.ctx c).session = some z) (unstarted : z.part = none)
  (framed : 48 ≤ bs.length) (magic : fld bs 0 4 = 0x315A4C4F) (notLast : fld bs 4 4 = 0) (later : z.lastSeq < fld bs 8 8)
  (atStart : fld bs 16 8 = 0) (inTable : handle < 65536)

section
include framed magic notLast later atStart inTable

/-- A first segment's header is in form and in sequence; `false` stands for the total that no earlier segment has given (R391). -/
theorem firstSegment_inSequence : ¬ (bs.length < 48 ∨ fld bs 0 4 ≠ 0x315A4C4F ∨ 2 ≤ fld bs 4 4 ∨ fld bs 8 8 ≤ z.lastSeq
    ∨ fld bs 16 8 ≠ 0 ∨ false = true ∨ 65536 ≤ handle) := by
  simp only [magic, notLast, atStart, not_or]
  exact ⟨by omega, by simp, by omega, by omega, by simp, by simp, by omega⟩

end

include hb begins serves random input session unstarted framed magic notLast later atStart inTable

theorem cardBindSession_tagFails
    (closed : gcmOpen z.sealKey (zeros 4 ++ leBytes 8 (fld bs 8 8)) (bs.take 32 ++ [b8 c] ++ leBytes 2 handle)
      ((bs.drop 32).take (bs.length - 48)) (bs.drop (bs.length - 16)) = none) :
    exec (.cardBindSession m handle) s = .next (s.commit ((b.dropPart c).complete (Claims.owed s m 0x0106 c) .cryptoFail [])) := by
  subst hb
  refine (act_runCmd begins _).trans (next_commit_congr ?_)
  simp only [serves, random, input, session, unstarted]
  refine (congrArg _ ((if_neg (by simp)).trans (if_neg
    (firstSegment_inSequence framed magic notLast later atStart inTable)))).trans ?_
  simp only [closed]
  rfl

/-- A first segment that opens is kept, if its template may be bound to a handle that is not in use (R392). -/
theorem cardBindSession_tagOpens {pt : List Byte} {t : State}
    (opened : gcmOpen z.sealKey (zeros 4 ++ leBytes 8 (fld bs 8 8)) (bs.take 32 ++ [b8 c] ++ leBytes 2 handle)
      ((bs.drop 32).take (bs.length - 48)) (bs.drop (bs.length - 16)) = some pt)
    (ht : t = b.setCtx c { b.ctx c with session := some { z with
      lastSeq := fld bs 8 8, part := some { handle := handle, total := fld bs 24 8, data := pt } } }) :
    exec (.cardBindSession m handle) s = .next (s.commit (
      if pt.length < 128 ∨ fld bs 24 8 < pt.length ∨ b.refusesTemplate c handle (pt.take 128) (Card.parse (pt.take 128)) = true then
        (t.dropPart c).complete (Claims.owed s m 0x0106 c) .badParameter []
      else if (b.dropPart c).handleBusy c handle then (t.dropPart c).complete (Claims.owed s m 0x0106 c) .busy []
      else t.complete (Claims.owed s m 0x0106 c) .ok [])) := by
  have notLastBit : ¬ (fld bs 4 4).testBit 0 = true := by simp [notLast]
  subst hb ht
  refine (act_runCmd begins _).trans (next_commit_congr ?_)
  simp only [serves, random, input, session, unstarted]
  refine (congrArg _ ((if_neg (by simp)).trans (if_neg
    (firstSegment_inSequence framed magic notLast later atStart inTable)))).trans ?_
  simp only [opened, Option.filter_none, Option.map_none, Option.getD_none, Option.isNone_none, List.nil_append, true_and]
  rw [if_neg notLastBit]
  simp only [apply_ite (Ends.post _)]
  refine if_congr ?_ rfl rfl
  cases Card.parse (pt.take 128) <;> simp [State.refusesTemplate]

end

/-- Settles O5: each command passes its checks in their order, the engine's job goes by its kind, a first segment by its tag and template. -/
theorem keeperCommandsAndJobs : Obligations.KeeperCommandsAndJobs := by
  refine ⟨⟨?quote, ?signed, ?session, ?manifest⟩, ?job, ?segment⟩
  case quote =>
    intro s b m c hb begins serves room devRead hostRead
    exact quote_queued hb begins serves room devRead hostRead
  case signed =>
    intro s b q rest hb waiting
    exact quoteSigned_writes hb waiting rfl
  case session =>
    intro s b t m c r hb begins serves healthy random unverified room hr devRead hostRead magic version zero1 zero2 zero3 ht
    exact sessionOpen_queues hb begins serves healthy random unverified room hr devRead hostRead magic version zero1 zero2 zero3 ht
  case manifest =>
    intro s b m c n x z bs hb begins serves stands session input hn n1 n1024 length magic version zero zeroEach first
    exact manifestLoad_queues hb begins serves stands session input hn n1 n1024 length magic version zero zeroEach first
  case job =>
    intro s a b j ha hb running due
    refine ⟨fun e => bignumJobEnd_fails ha hb running due, bignumJobEnd_keyPair ha hb running due, fun sound kind => ?_,
      bignumJobEnd_manifest ha hb running due⟩
    rw [bignumJobEnd_agrees ha hb running due sound kind]
    cases ecdhPublic j.draw <;> cases ecdhShared j.draw ((j.msg.drop 1608).take 97) <;> rfl
  case segment =>
    intro s b m c handle bs z hb begins serves random input session unstarted framed magic notLast later atStart inTable
    cases tag : gcmOpen z.sealKey (zeros 4 ++ leBytes 8 (fld bs 8 8)) (bs.take 32 ++ [b8 c] ++ leBytes 2 handle)
        ((bs.drop 32).take (bs.length - 48)) (bs.drop (bs.length - 16)) with
    | none =>
      exact cardBindSession_tagFails hb begins serves random input session unstarted framed magic notLast later atStart inTable tag
    | some pt =>
      rw [cardBindSession_tagOpens hb begins serves random input session unstarted framed magic notLast later atStart inTable tag rfl]
      dsimp only
      cases Card.parse (pt.take 128) <;> rfl

end Sys2Proof.Machine
end

section
/-! Power limit, trace ring, module reset and self-tests; stamps, snapshots and trace headers (R408, R417, R430, R468 to R474). -/

namespace Sys2Proof.Machine

/-! Module commands (R408, R417, R473) -/

section
variable {s b : State} {m : Mbx} (hb : b = Claims.begun s m)
include hb

theorem setPowerLimit_done {t : State} {watts : Nat} (begins : Claims.begins s m { op := 0x0004, tenant := false, ctx := .none } 255)
    (low : 1000 ≤ watts) (high : watts ≤ 3600) (ht : t = ({ b with power := { b.power with setLimit := watts } } : State).relimit) :
    exec (.setPowerLimit m watts) s = .next (s.commit (Claims.ended s m 0x0004 255 (leBytes 2 t.power.limit) t)) := by
  subst hb ht
  exact act_runCmd_done begins (if_neg (by omega))

/-- The trace that a configuration leaves: a ring at its start, no branch counted, and each traced core's owed start (R473, Table 21.6). -/
def State.traceConfigured (b : State) (mask ring len : Nat) : State :=
  { b with stamps := { b.stamps with
    trMask := mask, trBase := ring, trLen := len, trPtr := 0x40, trWraps := 0, trDropped := 0, trBranches := []
    trGaps := ((List.range 6).filter mask.testBit).foldl (fun g i => g.put i
      ⟨b.time.now, 0, if 0 < b.stamps.trLen ∧ b.stamps.trMask.testBit i then 4 else 0⟩) [] } }

theorem traceConfig_done {mask ring len : Nat} (begins : Claims.begins s m { op := 0x0007, tenant := false, ctx := .none } 255)
    (cores : mask < 64) (alignedRing : ring % 4096 = 0) (alignedLen : len % 4096 = 0) (len28 : len ≤ 2 ^ 28)
    (placed : len = 0 ∨ (2 ^ 20 ≤ len ∧ ring + len < 2 ^ 40 ∧ ring / 2 ^ 36 = (ring + len - 1) / 2 ^ 36 ∧ b.reach ring len = none
      ∧ b.secretHit ring len = false)) :
    exec (.traceConfig m mask ring len) s = .next (s.commit (Claims.ended s m 0x0007 255 [] (b.traceConfigured mask ring len).traceHeader)) := by
  subst hb
  refine act_runCmd_done begins (if_neg ?_)
  simp only [Bool.or_eq_true, Bool.and_eq_true, decide_eq_true_eq, not_or, not_and]
  refine ⟨⟨⟨⟨by omega, by omega⟩, by omega⟩, by omega⟩, fun ring_given => ?_⟩
  rcases placed with absent | ⟨whole, below, oneStack, reached, unhidden⟩
  · omega
  · exact ⟨⟨⟨⟨by omega, by omega⟩, not_not.2 oneStack⟩, by simp [reached]⟩, by simp [unhidden]⟩

/-- The completion is posted before the reset (R408). -/
theorem moduleReset_done (begins : Claims.begins s m { op := 0x0006, tenant := false, ctx := .none } 255) :
    exec (.moduleReset m) s = .next (s.commit (Claims.ended s m 0x0006 255 [] b).moduleReset) := by
  subst hb
  exact act_runCmd_later begins rfl

/-! Self-tests (R430, Table 18.6) -/

theorem selfTest_begins {cls idx : Nat} {q : Bool} (begins : Claims.begins s m { op := 0x0005, tenant := false, ctx := .none } 255)
    (cls3 : cls ≤ 3) (unit : idx < testUnits cls) (present : b.testAbsent cls idx = false) (ready : b.testReady cls idx = true)
    (alone : b.tests.any (fun t => testWing t.cls t.idx == testWing cls idx) = false) (quiesces : b.testBusy cls idx = true → q = true) :
    exec (.selfTest m cls idx q) s = .next (s.commit (
      let t := ({ b with tests := b.tests ++ [⟨cls, idx, Claims.owed s m 0x0005 255, !b.testBusy cls idx, q⟩] } : State).setDrained cls idx true
      if b.testBusy cls idx then t else t.startTest cls idx)) := by
  subst hb
  refine act_runCmd_later begins ((if_neg (by omega)).trans ((if_neg (by simp [present])).trans ((if_neg (by simp [ready])).trans
    ((if_neg (by simp [alone])).trans (if_neg ?_)))))
  simpa using quiesces

end

theorem selfTestDrainDone_ends {s b : State} {cls idx : Nat} {t : Test} (hb : b = Claims.fresh s)
    (draining : b.tests.find? (fun t => t.cls == cls && t.idx == idx && !t.testing) = some t) (drained : Bool) :
    exec (.selfTestDrainDone cls idx drained) s = .next (s.commit (
      if drained then ({ b with tests := b.tests.map (fun u => if u = t then { u with testing := true } else u) } : State).startTest cls idx
      else (({ b with tests := b.tests.erase t } : State).setDrained cls idx false).complete t.owed .busy [])) := by
  subst hb
  simp only [exec, execSelfTestDrainDone, act_fresh, draining]

/-- A stack that passed returns to service with the spares that its test found bad marked (R430). -/
theorem selfTestDone_stackPasses {s b : State} {idx : Nat} {r : TestResult} {t : Test} (hb : b = Claims.fresh s) (pass : r.pass = true)
    (testing : b.tests.find? (fun t => t.cls == 1 && t.idx == idx && t.testing) = some t) :
    exec (.selfTestDone 1 idx r) s = .next (s.commit
      (let u := ({ b with tests := b.tests.erase t } : State).setDrained 1 idx false
       ({ u with ledger := { u.ledger with
         badSpares := addBlocks u.ledger.badSpares ((r.spares.filter (· < 65536)).map (idx * 65536 + ·)) } } : State).complete t.owed .ok [0])) := by
  subst hb
  simp only [exec, execSelfTestDone, act_fresh, testing, pass, if_true]

/-- Settles O3: each command passes its checks in their order, a test goes by how its unit drained and fared. -/
theorem moduleCommandsAndSelfTests : Obligations.ModuleCommandsAndSelfTests := by
  refine ⟨⟨?limit, ?trace, ?reset⟩, ?test, ?drained, ?tested⟩
  case limit =>
    intro s b t m watts hb begins low high ht
    exact setPowerLimit_done hb begins low high ht
  case trace =>
    intro s b m mask ring len hb begins cores alignedRing alignedLen len28 placed
    exact traceConfig_done hb begins cores alignedRing alignedLen len28 placed
  case reset =>
    intro s b m hb begins
    exact moduleReset_done hb begins
  case test =>
    intro s b m cls idx q hb begins cls3 unit present ready alone quiesces
    exact selfTest_begins hb begins cls3 unit present ready alone quiesces
  case drained =>
    intro s b cls idx drained t hb draining
    exact selfTestDrainDone_ends hb draining drained
  case tested =>
    intro s b idx r t hb pass testing
    exact selfTestDone_stackPasses hb pass testing

/-! Stamps and snapshots (R468 to R472, R474) -/

theorem stampPeriod_due {s b : State} (hb : b = Claims.fresh s) (periodic : b.stamps.periodic = true) (counts : 0 < b.stamps.period.toNat)
    (due : b.stamps.periodStart + b.stamps.period.toNat ≤ b.time.now) :
    exec .stampPeriod s = .next (s.commit (({ b with stamps := { b.stamps with
      periodStart := b.stamps.periodStart + b.stamps.period.toNat } } : State).localStamp)) := by
  subst hb
  exact next_commit_congr (if_pos ⟨periodic, counts, due⟩)

section
variable {s b t : State} {i : StampInfo} {rest : List StampInfo} {mask z : Nat} (hb : b = Claims.fresh s)
  (waits : b.stamps.waiting = i :: rest) (due : i.apply ≤ b.time.now) (idle : b.stamps.busy = false)
  (ht : t = { b with stamps := { b.stamps with
    waiting := rest, lastId := BitVec.ofNat 32 i.id, lastTick := i.origin, overrun := false } })
  (hmask : mask = b.num b.stamps.bufBase.toNat 16 % 2 ^ 88) (hz : z = 0x1C000 + 0x4000 * (detailBays mask).length)
include hb waits due idle ht hmask hz

/-- A stamp that is due names itself, and latches a snapshot if the buffer takes its slot (R469, R470). -/
theorem stampApply_due : exec .stampApply s = .next (s.commit (
    if t.bufUsable = false ∨ b.stamps.bufLen.toNat < 0x1000 + z then { t with stamps := { t.stamps with overrun := true, lostOne := true } }
    else { t with
      draw := b.draw + 1
      stamps := { t.stamps with
        busy := true, lostOne := false, latchedAt := i.apply
        latched := some (if b.stamps.next + z ≤ b.stamps.bufLen.toNat then b.stamps.next else 0x1000,
          b.snapshot i (BitVec.ofNat 64 (i.apply % 2 ^ 63 + if b.holdover then 2 ^ 63 else 0)) mask) } })) := by
  have size : slotSize mask = z := hz.symm
  have usable : b.bufUsable = t.bufUsable := by
    subst ht
    rfl
  simp only [exec, execStampApply, act_fresh, ← hb, waits]
  rw [if_neg (by omega), if_neg (by simp [idle])]
  simp only [← hmask, size, usable, Bool.or_eq_true, Bool.not_eq_true', decide_eq_true_eq]
  subst ht
  rfl

end

/-- The slot of a snapshot whose bytes have had their time stands, and buffer writes that waited take effect (R471, R472). -/
theorem snapshotDone_due {s b t : State} {off : Nat} {d : List Byte} (hb : b = Claims.fresh s) (latched : b.stamps.latched = some (off, d))
    (ht : t = b.write (b.stamps.bufBase.toNat + off) d) (due : b.stamps.latchedAt * 65536 + d.length * 1000 ≤ b.time.now * 65536) :
    exec .snapshotDone s = .next (s.commit (b.stamps.pendingBuf.foldl (fun s w => s.bufWrite w.1 w.2)
      (({ t with stamps := { b.stamps with
        latched := none, busy := false, written := b.stamps.written + 1, pendingBuf := []
        next := if off + d.length < b.stamps.bufLen.toNat then off + d.length else 0x1000 } } : State).writeDir.irq 3 3))) := by
  subst hb ht
  simp only [exec, execSnapshotDone, act_fresh, latched]
  rw [if_neg (by omega)]

/-- Settles O38: a stamp that is due is issued or applied, a latched snapshot that is due lands, the rings' headers follow. -/
theorem stampsAndSnapshots : Obligations.StampsAndSnapshots := by
  refine ⟨?period, ?applies, ?lands, ?headers⟩
  case period =>
    intro s b hb periodic counts due
    exact stampPeriod_due hb periodic counts due
  case applies =>
    intro s b t i rest mask z hb waits due idle ht hmask hz
    rw [stampApply_due hb waits due idle ht hmask hz]
    refine ⟨fun unusable => by rw [if_pos unusable], fun usable fits => ?_⟩
    rw [if_neg]
    simp only [usable, not_or]
    exact ⟨by simp, by omega⟩
  case lands =>
    intro s b t off d hb latched ht due
    exact snapshotDone_due hb latched ht due
  case headers =>
    rintro s b rfl
    rfl

end Sys2Proof.Machine
end

section
/-! Work commands issue when their checks pass (R49 to R58, R95 to R119, R130, R131, R138 to R161, R207 to R224, R260). -/

namespace Sys2Proof.Machine

/-- A row that issues under its own checks, for the immediates of its variant, issues as `Claims.rowIssues` asks. Where the row also
refuses reserved immediates (`taken`), its checks (`tests`) are `chk` for those of the variant. -/
theorem rowIssues_of_issue {row : Nat → Nat → Nat → Instr} {op : Nat} {variant taken : Nat → Bool}
    {chk tests : State → Nat → Stream → Entry → Checked}
    (issues : ∀ c n k s, exec (row c n k) s = act s (fun b => b.issue c n k op taken (tests b c)))
    (own : ∀ i, variant i = true → taken i = true)
    (same : ∀ b c x (e : Entry), variant e.cmd.imm = true → tests b c x e = chk b c x e) : Claims.rowIssues row op variant chk := by
  rintro s b c n k x e v rfl ready selects passes - -
  rw [issues, act_fresh, State.issue_ok _ c n k op taken _ x e v ready (own _ selects) ((same _ c x e selects).trans passes)]

/-- A row that takes the immediates of its variant alone. -/
theorem rowIssues_of_act {row : Nat → Nat → Nat → Instr} {op : Nat} {variant : Nat → Bool}
    {chk : State → Nat → Stream → Entry → Checked}
    (issues : ∀ c n k s, exec (row c n k) s = act s (fun b => b.issue c n k op variant (chk b c))) : Claims.rowIssues row op variant chk :=
  rowIssues_of_issue issues (fun _ h => h) (fun _ _ _ _ _ => rfl)

/-! Rows that refuse reserved immediates too (R119, R157, R160, R161, R209) -/

/-- The checks of a row that refuses every phase but one of those it takes. -/
def phaseChecked (phase : Nat) (chk : State → Nat → Stream → Entry → Checked) (s : State) (c : Nat) (x : Stream) (e : Entry) : Checked := do
  need (shPhase e.cmd.imm == phase) .badParameter
  chk s c x e

theorem phaseChecked_of_phase {phase : Nat} {e : Entry} (of_phase : (shPhase e.cmd.imm == phase) = true)
    (chk : State → Nat → Stream → Entry → Checked) (s : State) (c : Nat) (x : Stream) : phaseChecked phase chk s c x e = chk s c x e := by
  simp only [phaseChecked, of_phase]
  rfl

theorem heScaleConst_issues : Claims.rowIssues .heScaleConst 0x110 (fun i => bits i 72 2 == 0) chkScale :=
  rowIssues_of_issue (tests := chkScale) (fun _ _ _ _ => rfl) (fun _ mode0 => by simp only [mode0, Bool.true_or]) (fun _ _ _ _ _ => rfl)

theorem shMulFinish_issues : Claims.rowIssues .shMulFinish 0x301 (fun i => shPhase i == 1) chkMulFinish :=
  rowIssues_of_issue (taken := fun i => shPhase i != 0) (tests := phaseChecked 1 chkMulFinish) (fun _ _ _ _ => rfl)
    (fun _ phase => by simp [eq_of_beq phase]) (fun b c x _ phase => phaseChecked_of_phase phase chkMulFinish b c x)

theorem shCmpFinish_issues : Claims.rowIssues .shCmpFinish 0x303 (fun i => shPhase i == 2) chkCmpFinish :=
  rowIssues_of_issue (taken := fun i => 2 ≤ shPhase i) (tests := phaseChecked 2 chkCmpFinish) (fun _ _ _ _ => rfl)
    (fun _ phase => by simp [eq_of_beq phase]) (fun b c x _ phase => phaseChecked_of_phase phase chkCmpFinish b c x)

theorem shJoinAdd_issues : Claims.rowIssues .shJoinAdd 0x304 (fun i => shPhase i == 1) chkJoinAdd :=
  rowIssues_of_issue (taken := fun i => shPhase i != 0) (tests := phaseChecked 1 chkJoinAdd) (fun _ _ _ _ => rfl)
    (fun _ phase => by simp [eq_of_beq phase]) (fun b c x _ phase => phaseChecked_of_phase phase chkJoinAdd b c x)

theorem stLayoutCopy_issues : Claims.rowIssues .stLayoutCopy 0x500 (fun i => bits i 0 2 == 0) (chkCopy false) :=
  rowIssues_of_issue (fun _ _ _ _ => rfl) (fun _ mode0 => by simp [eq_of_beq mode0])
    (fun _ _ _ _ mode0 => if_pos (eq_of_beq mode0))

/-- Settles O16: every row issues under its checks, and an issue whose checks pass sets the command under way. -/
theorem workCommandsIssue : Obligations.WorkCommandsIssue := by
  refine ⟨⟨?_, ?_, ?_, ?_, ?_, ?_, ?_, ?_, ?_, ?_, ?_, ?_, ?_, ?_, ?_, ?_, heScaleConst_issues, ?_, ?_, ?_⟩,
    ⟨?_, ?_, ?_, ?_, ?_, shMulFinish_issues, ?_, ?_, ?_, shCmpFinish_issues, ?_, shJoinAdd_issues⟩,
    ⟨?_, ?_, ?_, ?_, stLayoutCopy_issues, ?_, ?_, ?_, ?_, ?_, ?_⟩⟩
  all_goals exact rowIssues_of_act fun _ _ _ _ => rfl

end Sys2Proof.Machine
end

section
/-! The queue, what every command answers, and the rows that a tenant port is denied (R366, R434, R464, R475, R484). -/

namespace Sys2Proof.Machine

/-! The queue -/

/-- Settles O45: a step takes the front off the queue, and a command put in front leaves the queue behind it as it was. -/
theorem frontOfQueueIsExecuted : Obligations.FrontOfQueueIsExecuted := by
  refine ⟨fun s c rest queue => ?_, fun s c => rfl⟩
  simp only [step, queue]

theorem step_of_empty {s : State} (empty : s.pending = []) : step s = .next s.idle := by
  simp only [step, empty]

/-- Settles O46: with nothing waiting a step is a tick of a timebase that runs, which traced cores commit. -/
theorem emptyQueueTicks : Obligations.EmptyQueueTicks := by
  refine ⟨fun s empty runs untraced => ?_, fun s empty runs traced => ?_, fun s empty stopped => ?_⟩
  · rw [step_of_empty empty, State.idle, if_pos runs]
    exact congrArg _ (if_pos untraced)
  · rw [step_of_empty empty, State.idle, if_pos runs]
    exact congrArg _ (if_neg traced)
  · rw [step_of_empty empty, State.idle, if_neg (by simp [stopped])]

/-- What a command answers is its effect committed. -/
theorem exec_commits {c : Instr} {s t : State} (answers : exec c s = .next t) : ∃ u, s.commit u = t := by
  obtain ⟨f, acts⟩ | ⟨faults, -⟩ := exec_act c s
  · exact ⟨_, Host.Outcome.next.inj ((act_fresh s f).symm.trans (acts.symm.trans answers))⟩
  · exact nomatch faults.symm.trans answers

/-- Settles O48: a command that answers commits its effect, and a commit leaves the queue as the step found it. -/
theorem commandsLeaveTheQueue : Obligations.CommandsLeaveTheQueue := by
  intro c s t answers
  obtain ⟨u, rfl⟩ := exec_commits answers
  exact State.commit_pending s u

/-- Settles O49: every command commits its effect, but for a feed beyond its rating. -/
theorem onlyFeedStressStops : Obligations.OnlyFeedStressStops := by
  intro c s
  obtain ⟨f, acts⟩ | stress := exec_act c s
  · exact .inl ⟨_, acts.trans (act_fresh s f)⟩
  · exact .inr stress

/-! Owner rows from a tenant port (R366) -/

/-- Each of the owner's rows is a mailbox command of its opcode that no tenant port may issue. -/
theorem ownerRow_runs {c : Instr} {m : Mbx} {op : Nat} (row : Claims.ownerRow c = some (m, op)) (s : State) :
    ∃ (r : CmdRow) (body : Owed → Nat → State → Ends), r.op = op ∧ r.tenant = false ∧ exec c s = act s (fun t => t.runCmd m r body) := by
  unfold Claims.ownerRow at row
  split at row
  case h_14 => exact nomatch row
  all_goals
    obtain ⟨rfl, rfl⟩ := Prod.mk.inj (Option.some.inj row)
    exact ⟨_, _, rfl, rfl, rfl⟩

/-- A tenant's port may not issue a row of the owner: its context is not looked at (R366). -/
theorem State.cmdCtx_ownerOnly {s : State} {m : Mbx} {r : CmdRow} {n : Nat} (tenant : m.port = .vf n) (ownerOnly : r.tenant = false) :
    s.cmdCtx m r = .error (.portDenied, 255) := by
  simp [State.cmdCtx, tenant, ownerOnly]

/-- Settles O52: each row is a command of the owner alone, which a tenant's mailbox begins and denies before its effect. -/
theorem tenantsAreDeniedOwnerRows : Obligations.TenantsAreDeniedOwnerRows := by
  intro s m n c op tenant inService frontStays row
  obtain ⟨r, body, rfl, ownerOnly, runs⟩ := ownerRow_runs row s
  rw [runs, act_fresh]
  refine next_commit_congr ?_
  simp only [State.runCmd, inService, frontStays, State.cmdCtx_ownerOnly tenant ownerOnly]
  rfl

end Sys2Proof.Machine
end
